-- ==== Sys2Proof/Word.lean ====
section
/-! DEFINITION. The byte of the serial ports, and nothing else: every width of the JH-640's interface is a number
of bytes (11_master_ports_and_notices, R191). -/

namespace Sys2Proof

/-- One byte of a frame. -/
abbrev Byte := BitVec 8

end Sys2Proof
end

