-- ==== Sys2Proof/Config.lean ====
section
/-! DEFINITION. What the part fixes for good: its unit of time, its sizes; and the one free value. -/

namespace Sys2Proof.Config

/-- FREE VALUE (log 14). The bits of a query's record to which R193 and R195 give no content: byte `n` of the
sequence of such bytes. It has no body, so nothing can be proved of it. -/
opaque unstatedBits : Nat → Byte

/-- Time is counted in units of 1/12 ms, in which every duration of the manual is whole (log 2). -/
def unitsPerMs : Nat := 12

/-- A duration in milliseconds, in time units. -/
def ms (n : Nat) : Nat := unitsPerMs * n

/-- The configuration's 100 ms units, in time units. -/
def tenths (n : Nat) : Nat := ms (100 * n)

/-- The configuration's 10 ms units, in time units. -/
def hundredths (n : Nat) : Nat := ms (10 * n)

/-- Entries of the claim pool (R21). -/
def poolSize : Nat := 48

/-- Bound of slot values, thresholds, raw values and amounts (R149, R150, R155). -/
def valueLimit : Int := 2000000000

/-- Chimes the queue holds at most (R138). -/
def chimeQueueSize : Nat := 4

/-- Bytes of a request frame the receive buffer of a port holds at most (R180, R182). -/
def frameSize : Nat := 15

/-- The reversal pause (R117). -/
def reversalPause : Nat := ms 40

/-- The gap between chimes (R140). -/
def chimeGap : Nat := ms 20

/-- A round of the flash clock (R132). -/
def flashRound : Nat := ms 1000

/-- The distance between boundaries of the lit halves (R132). -/
def flashBoundary : Nat := ms 125

end Sys2Proof.Config
end

