-- ==== Sys2Proof/Syntax.lean ====
section
/-! DEFINITION. The commands of the JH-640: one constructor per row of spec/opcode_table.json. A request carries its
port and the bytes of its body as R193 lays them out, so that every value a master can send is a term; an event of the
part itself carries the unit, relay, group, slot, setpoint, channel or port it belongs to. -/

namespace Sys2Proof

/-- The three master ports. -/
inductive Port where
  | p0
  | p1
  | p2
  deriving DecidableEq, Repr

/-- The commands (events) the part takes. -/
inductive Instr where
  /-- ATTACH request (R66, R67, R68). -/
  | attach (p : Port)
  /-- DETACH request (R69). -/
  | detach (p : Port)
  /-- KEEP request (R65). -/
  | keep (p : Port)
  /-- QUERY_HUB request (R179). -/
  | queryHub (p : Port)
  /-- READ_NOTICES request (R187). -/
  | readNotices (p : Port)
  /-- CLEAR_NOTICES request (R188): flags word, clear-change-set byte. -/
  | clearNotices (p : Port) (flags : BitVec 16) (clearSet : Byte)
  /-- SET_MASK request (R189). -/
  | setMask (p : Port) (mask : BitVec 16)
  /-- CLAIM request (R26): channel, level, command value (three bytes, R191), lapse policy. -/
  | claim (p : Port) (channel level : Byte) (value : BitVec 24) (policy : Byte)
  /-- RELEASE request (R30). -/
  | release (p : Port) (channel : Byte)
  /-- RELEASE_ALL request (R31). -/
  | releaseAll (p : Port)
  /-- CLEAR_ORPHANS request (R32). -/
  | clearOrphans (p : Port) (channel : Byte)
  /-- QUERY_CLAIMS request (R37). -/
  | queryClaims (p : Port) (channel : Byte)
  /-- QUERY_CHANNEL request (R18). -/
  | queryChannel (p : Port) (channel : Byte)
  /-- HANDOVER request (R79). -/
  | handover (p : Port) (channel : Byte)
  /-- ANSWER request (R82): 1 YIELD, 2 DECLINE. -/
  | answer (p : Port) (channel answer : Byte)
  /-- The timer of the channel's pending handover expires (R83). -/
  | handoverTimerExpiry (c : Fin 23)
  /-- CHIME request (R139): pitch, loudness, length (0 SHORT, 1 LONG). -/
  | chime (p : Port) (pitch loudness length : Byte)
  /-- SILENCE request (R142). -/
  | silence (p : Port)
  /-- REFERENCE request (R120). -/
  | reference (p : Port) (channel : Byte)
  /-- SAMPLE request (R150): slot, raw value (signed). -/
  | sample (p : Port) (slot : Byte) (raw : BitVec 32)
  /-- ZERO request (R153): slot, amount (signed). -/
  | zero (p : Port) (slot : Byte) (amount : BitVec 32)
  /-- ACK_SETPOINT request (R159). -/
  | ackSetpoint (p : Port) (setpoint : Byte)
  /-- QUERY_SLOT request (R166). -/
  | querySlot (p : Port) (slot : Byte)
  /-- QUERY_SETPOINTS request (R166). -/
  | querySetpoints (p : Port)
  /-- HOLD request (R173). -/
  | hold (p : Port)
  /-- Both Stepper units are at rest in HOLDING (R168). -/
  | enterHeld
  /-- RESUME request (R174). -/
  | resume (p : Port)
  /-- ACCEPT_FAULT request (R171). -/
  | acceptFault (p : Port)
  /-- CLEAR_FIRST_FAULT request (R172). -/
  | clearFirstFault (p : Port)
  /-- RESET_HUB request (R169). -/
  | resetHub (p : Port)
  /-- CONFIG_READ request (R176). -/
  | configRead (p : Port) (block item field : Byte)
  /-- CONFIG_WRITE request (R177). -/
  | configWrite (p : Port) (block item field : Byte) (value : BitVec 32)
  /-- STORE request (R178). -/
  | store (p : Port) (block : Byte)
  /-- The completion of the store write in flight (R178); verified: the read-back agrees and the store answers. -/
  | storeCompletion (verified : Bool)
  /-- A request frame that fails the check of R183, with its bytes. -/
  | badFrame (p : Port) (frame : List Byte)
  /-- A good frame with an unknown code or a wrong body length (R184), with its code and body. -/
  | badRequest (p : Port) (code : Byte) (body : List Byte)
  /-- The half point of a lease run (R62). -/
  | leaseLow (p : Port)
  /-- The expiry of a lease timer (R63). -/
  | lapse (p : Port)
  /-- Assertion of PRSTn_N (R70). -/
  | portReset (p : Port)
  /-- Release of PRSTn_N (R71). -/
  | portResetRelease (p : Port)
  /-- Power-on (R169). -/
  | powerOn
  /-- Assertion of RESET_N (R169). -/
  | resetNAssert
  /-- Release of RESET_N (R169). -/
  | resetNRelease
  /-- The end of the start-up load (R170); storeAnswers: the configuration store answered the load. -/
  | endOfLoad (storeAnswers : Bool)
  /-- Assertion of STEP_INHIBIT (R124). -/
  | stepInhibitAssert
  /-- Release of STEP_INHIBIT (R124). -/
  | stepInhibitRelease
  /-- Completion of a step toward a target (R118). -/
  | stepCompletion (u : Fin 2)
  /-- Completion of a step of a referencing run (R122). -/
  | referencingStepCompletion (u : Fin 2)
  /-- The end of a reversal pause (R117). -/
  | reversalPauseEnd (u : Fin 2)
  /-- The expiry of a relay's MIN_ON or MIN_OFF run (R94). -/
  | minTimeExpiry (r : Fin 12)
  /-- The expiry of a group's dead timer (R98). -/
  | deadTimerExpiry (g : Fin 4)
  /-- The expiry of the decay timer (R136). -/
  | decayTimerExpiry
  /-- The time of phase PLAYING runs out (R140). -/
  | chimeEnd
  /-- The time of phase GAP runs out (R140). -/
  | gapEnd
  /-- The expiry of a slot's freshness timer (R152). -/
  | freshnessExpiry (k : Fin 8)
  /-- The expiry of a setpoint's make or break delay (R158). -/
  | delayTimerExpiry (n : Fin 16)
  /-- The flash clock passes the next boundary of a lit half (R132). -/
  | flashClockLitHalfChange
  deriving DecidableEq, Repr

end Sys2Proof
end

