-- ==== Sys2Proof/Machine/Types.lean ====
section
/-! DEFINITION. The words of the manual as types: channels and their kinds, command values and sources, result codes,
notice flags, and the items of the six configuration blocks. -/

namespace Sys2Proof.Machine

/-- The kind of a channel (R1). -/
inductive Kind where
  | relay
  | lamp
  | sounder
  | stepper
  deriving DecidableEq, Repr

/-- The output a channel number names (R1). -/
inductive Output where
  | relay (r : Fin 12)
  | lamp (l : Fin 8)
  | sounder
  | stepper (u : Fin 2)
  deriving DecidableEq, Repr

/-- Decay of a tone (R6). -/
inductive Decay where
  | none
  | fast
  | slow
  deriving DecidableEq, Repr

/-- A command value: a form with its fields (section 1.2). -/
inductive Command where
  | off
  | on
  | steady (brightness : Nat)
  | slow (brightness : Nat)
  | fast (brightness : Nat)
  | tone (pitch loudness : Nat) (decay : Decay)
  | target (position rate : Nat)
  deriving DecidableEq, Repr

/-- A fallback of the CHANNELS block: a command value, or one of the two stepper fallback forms (R9). -/
inductive Fallback where
  | command (c : Command)
  | stay
  | position (p : Nat)
  deriving DecidableEq, Repr

/-- The source of an effective command (R12). -/
inductive Source where
  | port (p : Port) (level : Nat)
  | localLayer
  | fallback
  deriving DecidableEq, Repr

/-- A command value with its source. -/
structure Pair where
  command : Command
  source : Source
  deriving DecidableEq, Repr

/-- Lapse policy of a claim (R19). -/
inductive Policy where
  | drop
  | keep
  deriving DecidableEq, Repr

/-- State of a claim (R19). -/
inductive ClaimState where
  | live
  | orphaned
  deriving DecidableEq, Repr

/-- Outcome of a handover (chapter 5). -/
inductive HandoverOutcome where
  | granted
  | declined
  | timedOutGranted
  | timedOutDenied
  | vacated
  | cancelled
  deriving DecidableEq, Repr

/-- Direction of a step (R112). -/
inductive Dir where
  | up
  | down
  deriving DecidableEq, Repr

/-- Hub mode (R167). -/
inductive HubMode where
  | startup
  | faultHold
  | run
  | holding
  | held
  deriving DecidableEq, Repr

/-- Reset cause (R167). -/
inductive ResetCause where
  | powerOn
  | pin
  | software
  deriving DecidableEq, Repr

/-- The six blocks of the configuration store (R175). -/
inductive Block where
  | ports
  | channels
  | groups
  | slots
  | setpoints
  | calibration
  deriving DecidableEq, Repr

/-- Block mark (R167). -/
inductive BlockMark where
  | unread
  | good
  | bad
  deriving DecidableEq, Repr

/-- The result codes of R194, but NONE, which is an empty response buffer. -/
inductive Result where
  | ok
  | placed
  | replaced
  | already
  | started
  | badFrame
  | badRequest
  | starting
  | startupFault
  | notAttached
  | noGrant
  | wrongMode
  | held
  | badChannel
  | badValue
  | badLevel
  | levelDenied
  | quota
  | poolFull
  | noClaim
  | notContested
  | handoverBusy
  | noHandover
  | notWinner
  | sounderBusy
  | chimeQueueFull
  | notChiming
  | notSource
  | badSlotMode
  | notLatched
  | storeBusy
  | badConfig
  | interlockConflict
  deriving DecidableEq, Repr

/-- The fourteen notice flags (R186). -/
inductive Flag where
  | won
  | lost
  | handoverAsked
  | handoverDone
  | leaseLow
  | arrived
  | chimeDone
  | slotStale
  | setpoint
  | holdEffective
  | storeDone
  | fault
  | linkError
  | interlock
  deriving DecidableEq, Repr

/-- Item of the PORTS block (R175, R22, R60). -/
structure PortItem where
  configGrant : Bool
  protectedGrant : Bool
  quota : Nat
  lease : Nat
  deriving DecidableEq, Repr

/-- The two handover fields of a CHANNELS item (R78); `grant`: the default outcome is GRANT. -/
structure HandoverItem where
  timeout : Nat
  grant : Bool
  deriving DecidableEq, Repr

/-- The relay fields of a CHANNELS item (R9). -/
structure RelayItem where
  minOn : Nat
  minOff : Nat
  deriving DecidableEq, Repr

/-- The stepper fields of a CHANNELS item (R9). -/
structure StepperItem where
  travel : Nat
  overtravel : Nat
  refRate : Nat
  autoRef : Bool
  deriving DecidableEq, Repr

/-- Item of the GROUPS block (R97); bit n of `members` names RLYn. -/
structure GroupItem where
  members : BitVec 12
  deadTime : Nat
  preempt : Bool
  deriving DecidableEq, Repr

/-- Slot mode (R149). -/
inductive SlotMode where
  | level
  | total
  deriving DecidableEq, Repr

/-- Item of the SLOTS block (R149). -/
structure SlotItem where
  mode : SlotMode
  source : Port
  freshness : Nat
  deriving DecidableEq, Repr

/-- Item of the CALIBRATION block (R149). -/
structure CalibrationItem where
  gain : Nat
  offset : Int
  deriving DecidableEq, Repr

/-- Sense of a setpoint (R155). -/
inductive Sense where
  | above
  | below
  deriving DecidableEq, Repr

/-- Item of the SETPOINTS block (R155); `failActive`: the fail state is ACTIVE. -/
structure SetpointItem where
  enabled : Bool
  slot : Fin 8
  sense : Sense
  threshold : Int
  hysteresis : Int
  makeDelay : Nat
  breakDelay : Nat
  target : Fin 21
  command : Command
  latch : Bool
  failActive : Bool
  deriving DecidableEq, Repr

/-- The contents of the six blocks (R175). The CHANNELS block is `fallbacks` to `steppers`: an item's common fields
by channel number, the others by kind. -/
structure Blocks where
  ports : Vector PortItem 3
  fallbacks : Vector Fallback 23
  handovers : Vector HandoverItem 23
  relays : Vector RelayItem 12
  soundMotion : Bool
  steppers : Vector StepperItem 2
  groups : Vector GroupItem 4
  slots : Vector SlotItem 8
  setpoints : Vector SetpointItem 16
  calibration : Vector CalibrationItem 8
  deriving DecidableEq, Repr

end Sys2Proof.Machine
end

