-- ==== Sys2Proof/Machine/Names.lean ====
section
/-! DEFINITION. Numbers of the names: which output a channel number drives, and the codes R191 to R195 give to ports,
blocks, flags, results, modes and outcomes; the rates and pitches of R6 and R7. -/

namespace Sys2Proof

/-- Ports are coded 0 to 2 (R191). -/
def Port.idx : Port → Fin 3
  | .p0 => 0
  | .p1 => 1
  | .p2 => 2

/-- The port of a number. -/
def Port.ofIdx (n : Fin 3) : Port :=
  if n = 0 then .p0 else if n = 1 then .p1 else .p2

/-- The three ports, in order. -/
def Port.all : List Port := [.p0, .p1, .p2]

namespace Machine

/-- The output a channel number names (R1). -/
def outputOf (c : Fin 23) : Output :=
  if hr : c.val < 12 then .relay ⟨c.val, hr⟩
  else if hl : c.val < 20 then .lamp ⟨c.val - 12, by omega⟩
  else if c.val = 20 then .sounder
  else .stepper ⟨c.val - 21, by omega⟩

/-- The kind of a channel, fixed by its number (R1). -/
def kindOf (c : Fin 23) : Kind :=
  match outputOf c with
  | .relay _ => .relay
  | .lamp _ => .lamp
  | .sounder => .sounder
  | .stepper _ => .stepper

/-- Channel of RLYr (R1). -/
def relayChannel (r : Fin 12) : Fin 23 := ⟨r.val, by omega⟩

/-- Channel of LMPl (R1). -/
def lampChannel (l : Fin 8) : Fin 23 := ⟨12 + l.val, by omega⟩

/-- Channel SND (R1). -/
def soundChannel : Fin 23 := 20

/-- Channel of STPu (R1). -/
def stepperChannel (u : Fin 2) : Fin 23 := ⟨21 + u.val, by omega⟩

/-- The channel of a setpoint's target (R155). -/
def targetChannel (t : Fin 21) : Fin 23 := ⟨t.val, by omega⟩

/-- A channel number in a request; none above 22 (R2). -/
def channelNo (b : Byte) : Option (Fin 23) :=
  if h : b.toNat < 23 then some ⟨b.toNat, h⟩ else none

/-- The code of a kind in a channel record (R195). -/
def Kind.code : Kind → Byte
  | .relay => 0
  | .lamp => 1
  | .sounder => 2
  | .stepper => 3

/-- The position of a block in code order. -/
def Block.idx : Block → Fin 6
  | .ports => 0
  | .channels => 1
  | .groups => 2
  | .slots => 3
  | .setpoints => 4
  | .calibration => 5

/-- Blocks are numbered by their fault codes, 1 to 6 (R170, R193). -/
def Block.code (b : Block) : Nat := b.idx.val + 1

/-- The six blocks, in code order. -/
def Block.all : List Block := [.ports, .channels, .groups, .slots, .setpoints, .calibration]

/-- The block a request's byte names (R193). -/
def Block.ofByte (b : Byte) : Option Block :=
  Block.all.find? (fun k => b == BitVec.ofNat 8 k.code)

/-- The bit of a flag in the notice word (R191). -/
def Flag.bit : Flag → Nat
  | .won => 0
  | .lost => 1
  | .handoverAsked => 2
  | .handoverDone => 3
  | .leaseLow => 4
  | .arrived => 5
  | .chimeDone => 6
  | .slotStale => 7
  | .setpoint => 8
  | .holdEffective => 9
  | .storeDone => 10
  | .fault => 11
  | .linkError => 12
  | .interlock => 13

/-- The code byte of a result (R194). -/
def Result.code : Result → Byte
  | .ok => 0x01
  | .placed => 0x02
  | .replaced => 0x03
  | .already => 0x04
  | .started => 0x05
  | .badFrame => 0x80
  | .badRequest => 0x81
  | .starting => 0x82
  | .startupFault => 0x83
  | .notAttached => 0x84
  | .noGrant => 0x85
  | .wrongMode => 0x86
  | .held => 0x87
  | .badChannel => 0x88
  | .badValue => 0x89
  | .badLevel => 0x8A
  | .levelDenied => 0x8B
  | .quota => 0x8C
  | .poolFull => 0x8D
  | .noClaim => 0x8E
  | .notContested => 0x8F
  | .handoverBusy => 0x90
  | .noHandover => 0x91
  | .notWinner => 0x92
  | .sounderBusy => 0x93
  | .chimeQueueFull => 0x94
  | .notChiming => 0x95
  | .notSource => 0x96
  | .badSlotMode => 0x97
  | .notLatched => 0x98
  | .storeBusy => 0x99
  | .badConfig => 0x9A
  | .interlockConflict => 0x9B

/-- The code of a handover outcome (R193); 0 is NONE. -/
def HandoverOutcome.code : HandoverOutcome → Byte
  | .granted => 1
  | .declined => 2
  | .timedOutGranted => 3
  | .timedOutDenied => 4
  | .vacated => 5
  | .cancelled => 6

/-- The code of a hub mode in the hub record (R195). -/
def HubMode.code : HubMode → Byte
  | .startup => 0
  | .faultHold => 1
  | .run => 2
  | .holding => 3
  | .held => 4

/-- The code of a reset cause (R195). -/
def ResetCause.code : ResetCause → Byte
  | .powerOn => 0
  | .pin => 1
  | .software => 2

/-- The code of a block mark (R195). -/
def BlockMark.code : BlockMark → Nat
  | .unread => 0
  | .good => 1
  | .bad => 2

/-- The level of a source; the local layer and the fallback stand at level 0 (R12, R93). -/
def Source.level : Source → Nat
  | .port _ l => l
  | .localLayer => 0
  | .fallback => 0

/-- The port of a PORT source. -/
def Source.port? : Source → Option Port
  | .port p _ => some p
  | .localLayer => none
  | .fallback => none

/-- A TONE (R6). -/
def Command.isTone : Command → Bool
  | .tone _ _ _ => true
  | .off => false
  | .on => false
  | .steady _ => false
  | .slow _ => false
  | .fast _ => false
  | .target _ _ => false

end Machine

namespace Config

/-- Steps per second of a rate index (R7). -/
def stepsPerSecond (rate : Nat) : Nat :=
  match rate with
  | 0 => 10
  | 1 => 15
  | 2 => 20
  | 3 => 30
  | 4 => 40
  | 5 => 60
  | 6 => 80
  | 7 => 120
  | _ => 160

/-- The length of a step, 1/rate (R112), in time units: exact for each of the nine rates. -/
def stepTime (rate : Nat) : Nat := unitsPerMs * 1000 / stepsPerSecond rate

/-- Tone frequency of a pitch index, in Hz (R6). -/
def pitchHz (pitch : Nat) : Nat :=
  match pitch with
  | 0 => 3000
  | 1 => 2500
  | 2 => 2000
  | 3 => 1800
  | 4 => 1500
  | 5 => 1200
  | 6 => 1000
  | _ => 800

end Config
end Sys2Proof
end

