-- ==== Sys2Proof/Machine/Frame.lean ====
section
/-! DEFINITION. Request frames: the CRC-8 and the frame check (R183), the request-code table (R193), and the numbers of
a body (R191). -/

namespace Sys2Proof.Machine

/-- One bit of the CRC-8, polynomial 07h (R183). -/
def crcBit (crc : Byte) : Byte := if crc.msb then (crc <<< 1) ^^^ 0x07 else crc <<< 1

/-- One byte of the CRC-8, most significant bit first (R183). -/
def crcByte (crc b : Byte) : Byte := crcBit (crcBit (crcBit (crcBit (crcBit (crcBit (crcBit (crcBit (crc ^^^ b))))))))

/-- The CRC-8 of a list of bytes, from FFh, with no final inversion (R183). -/
def crc8 (bytes : List Byte) : Byte := bytes.foldl crcByte 0xFF

/-- Greatest body length of a request (R192). -/
def maxRequestBody : Nat := 12

/-- A frame of a code and a body: code, body length, body, CRC-8 (R192). -/
def frameOf (code : Byte) (body : List Byte) : List Byte :=
  let head := code :: BitVec.ofNat 8 body.length :: body
  head ++ [crc8 head]

/-- The code and body of a frame that passes the check of R183; none of one that fails. -/
def openFrame (bytes : List Byte) : Option (Byte × List Byte) :=
  match bytes with
  | code :: len :: rest =>
    if len.toNat ≤ maxRequestBody ∧ rest.length = len.toNat + 1 ∧
        rest.getLast? = some (crc8 (code :: len :: rest.dropLast)) then
      some (code, rest.dropLast)
    else none
  | _ => none

/-- Two bytes as a number, most significant first (R191). -/
def join16 (a b : Byte) : BitVec 16 := a ++ b

/-- Three bytes as a number, most significant first. -/
def join24 (a b c : Byte) : BitVec 24 := a ++ b ++ c

/-- Four bytes as a number, most significant first. -/
def join32 (a b c d : Byte) : BitVec 32 := a ++ b ++ c ++ d

/-- The request of a code and a body; none for a code or a body length that the table of R193 does not have (R184). -/
def requestOf (p : Port) (code : Byte) (body : List Byte) : Option Instr :=
  match code.toNat, body with
  | 0x01, [] => some (.attach p)
  | 0x02, [] => some (.detach p)
  | 0x03, [] => some (.keep p)
  | 0x04, [] => some (.queryHub p)
  | 0x05, [] => some (.readNotices p)
  | 0x06, [a, b, c] => some (.clearNotices p (join16 a b) c)
  | 0x07, [a, b] => some (.setMask p (join16 a b))
  | 0x10, [ch, lv, a, b, c, pol] => some (.claim p ch lv (join24 a b c) pol)
  | 0x11, [ch] => some (.release p ch)
  | 0x12, [] => some (.releaseAll p)
  | 0x13, [ch] => some (.clearOrphans p ch)
  | 0x14, [ch] => some (.queryClaims p ch)
  | 0x15, [ch] => some (.queryChannel p ch)
  | 0x16, [ch] => some (.handover p ch)
  | 0x17, [ch, a] => some (.answer p ch a)
  | 0x20, [pi, lo, le] => some (.chime p pi lo le)
  | 0x21, [] => some (.silence p)
  | 0x22, [ch] => some (.reference p ch)
  | 0x30, [k, a, b, c, d] => some (.sample p k (join32 a b c d))
  | 0x31, [k, a, b, c, d] => some (.zero p k (join32 a b c d))
  | 0x32, [n] => some (.ackSetpoint p n)
  | 0x33, [k] => some (.querySlot p k)
  | 0x34, [] => some (.querySetpoints p)
  | 0x40, [] => some (.hold p)
  | 0x41, [] => some (.resume p)
  | 0x42, [] => some (.acceptFault p)
  | 0x43, [] => some (.clearFirstFault p)
  | 0x44, [] => some (.resetHub p)
  | 0x45, [b, i, f] => some (.configRead p b i f)
  | 0x46, [b, i, f, v, w, x, y] => some (.configWrite p b i f (join32 v w x y))
  | 0x47, [b] => some (.store p b)
  | _, _ => none

end Sys2Proof.Machine
end

