-- ==== Sys2Proof/Machine/Factory.lean ====
section
/-! DEFINITION. The factory defaults of the six blocks (R9, R78, R97, R149, R155, R175), the copying of one block, and
the ranges the start-up load checks (R170). -/

namespace Sys2Proof.Machine

/-- Factory defaults of the PORTS block (R175). -/
def factoryPort : Port → PortItem
  | .p0 => ⟨true, true, 16, 20⟩
  | .p1 => ⟨false, false, 16, 20⟩
  | .p2 => ⟨false, false, 16, 50⟩

/-- Factory-default fallback of a channel (R9). -/
def factoryFallback (c : Fin 23) : Fallback :=
  match kindOf c with
  | .relay => .command .off
  | .lamp => .command .off
  | .sounder => .command .off
  | .stepper => .stay

/-- Factory defaults of a SETPOINTS item (R155). -/
def factorySetpoint : SetpointItem :=
  { enabled := false, slot := 0, sense := .above, threshold := 0, hysteresis := 0, makeDelay := 0, breakDelay := 0
    target := 0, command := .off, latch := false, failActive := false }

/-- The factory defaults of every block. -/
def factoryBlocks : Blocks :=
  { ports := #v[factoryPort .p0, factoryPort .p1, factoryPort .p2]
    fallbacks := Vector.ofFn factoryFallback
    handovers := Vector.replicate 23 ⟨20, false⟩
    relays := Vector.replicate 12 ⟨0, 0⟩
    soundMotion := false
    steppers := Vector.replicate 2 ⟨1000, 50, 4, false⟩
    groups := Vector.replicate 4 ⟨0, 50, true⟩
    slots := Vector.replicate 8 ⟨.level, .p0, 0⟩
    setpoints := Vector.replicate 16 factorySetpoint
    calibration := Vector.replicate 8 ⟨1000, 0⟩ }

/-- `dst` with block `b` taken from `src`. -/
def Blocks.copyBlock (b : Block) (src dst : Blocks) : Blocks :=
  match b with
  | .ports => { dst with ports := src.ports }
  | .channels =>
    { dst with fallbacks := src.fallbacks, handovers := src.handovers, relays := src.relays
               soundMotion := src.soundMotion, steppers := src.steppers }
  | .groups => { dst with groups := src.groups }
  | .slots => { dst with slots := src.slots }
  | .setpoints => { dst with setpoints := src.setpoints }
  | .calibration => { dst with calibration := src.calibration }

/-- A command value lies in the ranges of its form and the form belongs to the kind (R3, R5, R6, R7); `travel` is the
travel limit of a stepper channel. -/
def commandFits (k : Kind) (travel : Nat) (c : Command) : Bool :=
  match k, c with
  | .relay, .off => true
  | .relay, .on => true
  | .lamp, .off => true
  | .lamp, .steady b => decide (1 ≤ b ∧ b ≤ 8)
  | .lamp, .slow b => decide (1 ≤ b ∧ b ≤ 8)
  | .lamp, .fast b => decide (1 ≤ b ∧ b ≤ 8)
  | .sounder, .off => true
  | .sounder, .tone p l _ => decide (p ≤ 7 ∧ 1 ≤ l ∧ l ≤ 8)
  | .stepper, .target p r => decide (p ≤ travel ∧ r ≤ 8)
  | _, _ => false

/-- The travel limit that bounds a channel's positions; 0 on channels that have none. -/
def Blocks.travelOf (w : Blocks) (c : Fin 23) : Nat :=
  match outputOf c with
  | .stepper u => w.steppers[u].travel
  | .relay _ => 0
  | .lamp _ => 0
  | .sounder => 0

/-- A fallback fits its channel (R3, R9): on a stepper STAY or POSITION(p) within the travel limit, elsewhere a command
value of the kind. -/
def Blocks.fallbackFits (w : Blocks) (c : Fin 23) (f : Fallback) : Bool :=
  match kindOf c, f with
  | .stepper, .stay => true
  | .stepper, .position p => decide (p ≤ w.travelOf c)
  | .stepper, .command _ => false
  | _, .stay => false
  | _, .position _ => false
  | k, .command v => commandFits k 0 v

/-- How many relays a member list names. -/
def memberCount (m : BitVec 12) : Nat := ((List.finRange 12).filter (fun r => m.getLsbD r.val)).length

/-- A member list is empty or names 2 to 4 relays (R97). -/
def memberListFits (m : BitVec 12) : Bool :=
  m == 0 || decide (2 ≤ memberCount m ∧ memberCount m ≤ 4)

/-- Every field of the block lies within its range: what the start-up load checks beside the checksum (R170). -/
def Blocks.inRange (w : Blocks) (b : Block) : Bool :=
  match b with
  | .ports => w.ports.all fun i => decide (i.quota ≤ 48 ∧ 1 ≤ i.lease ∧ i.lease ≤ 255)
  | .channels =>
    ((List.finRange 23).all fun c =>
      w.fallbackFits c w.fallbacks[c] && decide (5 ≤ w.handovers[c].timeout ∧ w.handovers[c].timeout ≤ 127)) &&
    (w.relays.all fun i => decide (i.minOn ≤ 255 ∧ i.minOff ≤ 255)) &&
    (w.steppers.all fun i => decide (1 ≤ i.travel ∧ i.travel ≤ 4095 ∧ i.overtravel ≤ 255 ∧ i.refRate ≤ 8))
  | .groups => w.groups.all fun i => memberListFits i.members && decide (i.deadTime ≤ 255)
  | .slots => w.slots.all fun i => decide (i.freshness ≤ 255)
  | .setpoints =>
    w.setpoints.all fun i =>
      decide (-Config.valueLimit ≤ i.threshold ∧ i.threshold ≤ Config.valueLimit ∧
        0 ≤ i.hysteresis ∧ i.hysteresis ≤ Config.valueLimit ∧ i.makeDelay ≤ 255 ∧ i.breakDelay ≤ 255) &&
      commandFits (kindOf (targetChannel i.target)) 0 i.command
  | .calibration =>
    w.calibration.all fun i => decide (1 ≤ i.gain ∧ i.gain ≤ 65535 ∧ -1000000 ≤ i.offset ∧ i.offset ≤ 1000000)

end Sys2Proof.Machine
end

