-- ==== Sys2Proof/Machine/State.lean ====
section
/-! DEFINITION. The state of the JH-640: every piece of state chapters 1 to 11 give it, the queue of waiting commands,
the stops, and the state right after reset. -/

namespace Sys2Proof.Machine

/-- Lease-low mark of a lease run in progress (R59). -/
inductive LeaseMark where
  | pending
  | passed
  deriving DecidableEq, Repr

/-- A lease run in progress (R59): its duration, the lease timer and the lease-low mark. `cut` is the model's own: a frame
has restarted the run at this moment, and the event of the old run that came together with it is out (R62, R64, log 26). -/
structure LeaseRun where
  duration : Nat
  left : Nat
  mark : LeaseMark
  cut : Bool
  deriving DecidableEq, Repr

/-- The tenancy record (R59). A lease run is in progress exactly while ATTACHED. -/
inductive Tenancy where
  | detached
  | attached (run : LeaseRun)
  | lapsed
  deriving DecidableEq, Repr

/-- A response: result code and body (R185). -/
structure Response where
  result : Result
  body : List Byte
  deriving DecidableEq, Repr

/-- The transaction in progress on a port's serial lines (R181, R182). -/
inductive Link where
  /-- None. -/
  | idle
  /-- SPI: CSn_N is asserted, and the first byte has not come. -/
  | selected
  /-- A request frame comes in; `beyond` is the latest byte past those the receive buffer holds. -/
  | request (beyond : Option Byte)
  /-- A read goes on; `left` is what it has yet to shift out of the response frame. -/
  | reading (left : List Byte)
  /-- A request frame that a reset has discarded (R70): nothing of it is taken; `unacknowledged` is how many of the first 15
  data bytes of an I2C write are still to come and to be acknowledged (R182, log 13). -/
  | dropped (unacknowledged : Nat)
  /-- Nothing is taken and FFh is shifted out until the transaction ends. -/
  | ignored
  deriving DecidableEq, Repr

/-- A port unit with its tenancy record (R180, R59), the level of its PRSTn_N pin (R71) and the transaction on its serial
lines (R181, R182). `resp` is `none` for NONE. -/
structure PortUnit where
  tenancy : Tenancy
  rx : List Byte
  resp : Option Response
  flags : BitVec 14
  mask : BitVec 14
  change : BitVec 23
  asked : BitVec 23
  resetLow : Bool
  link : Link
  deriving DecidableEq, Repr

/-- A claim record (R19). Its channel is the one whose list it stands in (log 12). -/
structure Claim where
  port : Port
  level : Nat
  value : Command
  policy : Policy
  state : ClaimState
  deriving DecidableEq, Repr

/-- The local input of a channel (R10): the local-layer command or fallback, and the drive mark. -/
structure LocalInput where
  value : Fallback
  driven : Bool
  deriving DecidableEq, Repr

/-- A pending handover (R77). -/
structure PendingHandover where
  requester : Port
  holder : Port
  left : Nat
  deriving DecidableEq, Repr

/-- The outcome of the latest handover resolved on a channel (R77). -/
structure LastOutcome where
  outcome : HandoverOutcome
  requester : Port
  holder : Port
  deriving DecidableEq, Repr

/-- The handover record of a channel (R77): state NONE is `pending = none`. -/
structure HandoverRecord where
  pending : Option PendingHandover
  last : Option LastOutcome
  deriving DecidableEq, Repr

/-- A channel record (R1, R39, R77). `taken` is also the taken command of the channel's engine record (R93, R131, R135,
R112: always equal). `stay` is the stay value of a stepper channel. -/
structure Channel where
  claims : List Claim
  input : LocalInput
  eff : Pair
  pendingEff : Option Pair
  taken : Option Pair
  winner : Option Port
  stay : Option Command
  handover : HandoverRecord
  deriving DecidableEq, Repr

/-- RUNNING or FROZEN (R93, R135). -/
inductive UnitCondition where
  | running
  | frozen
  deriving DecidableEq, Repr

/-- Engine state of a relay (R93). -/
inductive RelayState where
  | off
  | on
  | waitMinOff
  | waitMinOn
  | waitDead
  | heldOff
  deriving DecidableEq, Repr

/-- Leave reason of a relay in WAIT_MIN_ON (R93). -/
inductive LeaveReason where
  | command
  | preempted
  deriving DecidableEq, Repr

/-- Min-time mark of a relay (R94). `fromReset` is the MIN_OFF run a hub reset starts, whose length is read at the end
of the start-up load (R108). -/
inductive MinMark where
  | minOn (left : Nat)
  | minOff (left : Nat)
  | expired
  | fromReset
  deriving DecidableEq, Repr

/-- Dead timer of a group (R98). `fromReset`: taken as started at a hub reset, its length not yet read (R108). `cut` is the
model's own: a command cut an earlier run short at this moment (log 26). -/
inductive DeadTimer where
  | running (left : Nat) (cut : Bool)
  | expired
  | fromReset
  deriving DecidableEq, Repr

/-- A relay record (R93), but for the taken command, which is the channel record's. -/
structure Relay where
  state : RelayState
  leave : Option LeaveReason
  output : Bool
  mark : MinMark
  deriving DecidableEq, Repr

/-- Physical output of a lamp (R131). -/
inductive LampOutput where
  | dark
  | lit (brightness : Nat)
  deriving DecidableEq, Repr

/-- Tone state (R135). -/
inductive ToneState where
  | silent
  | sounding
  deriving DecidableEq, Repr

/-- Length of a chime (R138). -/
inductive ChimeLength where
  | short
  | long
  deriving DecidableEq, Repr

/-- A chime record (R138). -/
structure Chime where
  port : Port
  pitch : Nat
  loudness : Nat
  length : ChimeLength
  deriving DecidableEq, Repr

/-- The chime engine (R140): CHIMING is `playing` or `gap`, each with its time left. -/
inductive ChimeEngine where
  | ready
  | playing (left : Nat)
  | gap (left : Nat)
  deriving DecidableEq, Repr

/-- The sounder record (R135), but for the taken command, which is the channel record's. `level` is the envelope level and
`decay` the decay timer, `none` while STOPPED. -/
structure Sounder where
  cond : UnitCondition
  tone : ToneState
  level : Nat
  decay : Option Nat
  queue : List Chime
  engine : ChimeEngine
  mute : Bool
  /-- THE MODEL'S OWN: a renewal or a start of another TONE cut a run of the decay timer short at this moment (log 26). -/
  decayCut : Bool
  /-- THE MODEL'S OWN: a retrigger cut a time of PLAYING short at this moment (log 26). -/
  chimeCut : Bool
  deriving DecidableEq, Repr

/-- Physical output of the sounder (R135). -/
inductive SoundOutput where
  | silent
  | sounding (pitch loudness : Nat)
  deriving DecidableEq, Repr

/-- Reference state of a stepper (R112). -/
inductive RefState where
  | unreferenced
  | referencing
  | referenced
  deriving DecidableEq, Repr

/-- Engine state of a stepper with the step in progress or the reversal pause (R112, R117). -/
inductive StepEngine where
  | idle
  | moving (dir : Dir) (left : Nat)
  | referencing (left : Nat)
  | paused
  | reversing (left : Nat)
  deriving DecidableEq, Repr

/-- Condition of a Stepper unit (R114). -/
inductive StepCondition where
  | running
  | draining
  | stopped
  deriving DecidableEq, Repr

/-- A stepper record (R112), but for the taken command, which is the channel record's; with the level of STPn_DIR and
a count of the pulses given on STPn_STEP (log 8). -/
structure Stepper where
  ref : RefState
  engine : StepEngine
  pos : Nat
  lastDir : Option Dir
  runCount : Nat
  refReq : Bool
  cond : StepCondition
  dirUp : Bool
  pulses : Nat
  deriving DecidableEq, Repr

/-- State of a slot (R149). -/
inductive SlotState where
  | empty
  | fresh
  | stale
  deriving DecidableEq, Repr

/-- The running part of a slot record (R149). `cut` is the model's own: a sample has restarted the freshness timer at this
moment, and the end of the old run that came together with it is out (R152, log 26). -/
structure Slot where
  state : SlotState
  value : Int
  timer : Option Nat
  cut : Bool
  deriving DecidableEq, Repr

/-- State of a setpoint (R155). -/
inductive SetpointState where
  | inactive
  | making
  | active
  | breaking
  | latched
  deriving DecidableEq, Repr

/-- The running part of a setpoint record (R155). `cut` is the model's own: a CONFIG_WRITE has discarded a run of the delay
timer and started it anew at this moment (R161, R162, log 26). -/
structure Setpoint where
  state : SetpointState
  mark : Bool
  timer : Option Nat
  cut : Bool
  deriving DecidableEq, Repr

/-- The last store outcome (R167): OK or FAILED, with the block. -/
structure StoreOutcome where
  ok : Bool
  block : Block
  deriving DecidableEq, Repr

/-- Everything the part holds: all of the state but the queue of waiting commands. -/
structure Hub where
  /-- Port units PU0 to PU2 with the tenancy records. -/
  ports : Vector PortUnit 3
  /-- Channel records 0 to 22. -/
  channels : Vector Channel 23
  /-- Condition of the Relay unit (R93). -/
  relayCond : UnitCondition
  relays : Vector Relay 12
  /-- Dead timers of G0 to G3 (R98). -/
  dead : Vector DeadTimer 4
  /-- Outputs of LMP0 to LMP7 (R131). -/
  lamps : Vector LampOutput 8
  /-- Common flash clock, in time units; `none` while STOPPED (R132). -/
  flash : Option Nat
  sounder : Sounder
  /-- Stepper units SU0 and SU1. -/
  steppers : Vector Stepper 2
  slots : Vector Slot 8
  setpoints : Vector Setpoint 16
  mode : HubMode
  cause : ResetCause
  /-- Current fault set: bit n for code n, n = 1 to 7 (R167, R195). -/
  faults : BitVec 8
  /-- First-fault record, 0 to 7; nonvolatile (R167). -/
  firstFault : Nat
  marks : Vector BlockMark 6
  /-- Store operation: WRITING with block and requesting port, or IDLE (R167). -/
  storeOp : Option (Block × Port)
  lastStore : Option StoreOutcome
  /-- Time since the reset from which the load and the runs of R108 are counted. -/
  loadElapsed : Nat
  /-- Working copies of the six blocks (R175). -/
  work : Blocks
  /-- Stored copies of the six blocks; nonvolatile (R175). -/
  stored : Blocks
  /-- The checksum of each stored copy agrees with its contents (R170, log 11). -/
  storedGood : Vector Bool 6
  /-- RESET_N is held low (R169). -/
  resetNLow : Bool
  /-- STEP_INHIBIT is asserted (R124). -/
  stepInhibit : Bool
  /-- Level of pin ADR0 (R182). -/
  adr0 : Bool
  /-- Level of pin ADR1 (R182). -/
  adr1 : Bool
  /-- The I2C address of port P2, held until the next hub reset (R182). -/
  i2cAddr : BitVec 7
  /-- THE MODEL'S OWN: which free values have been used (log 14). -/
  freeCount : Nat
  deriving DecidableEq, Repr

/-- The state: the part, and the commands that wait, first in first out. -/
structure State where
  hub : Hub
  pending : List Instr
  deriving DecidableEq, Repr

/-- No command stops the part: every request is answered with a result code of R194 and every event has an effect, so
no reason for a fault exists and nothing raises one. -/
inductive Fault where
  deriving DecidableEq, Repr

/-- Why a command has no meaning. -/
inductive Refusal where
  /-- Raised by an arm of `exec` for a command that has no meaning yet (safe); no arm raises it. -/
  | notModelled (mnemonic : String)
  deriving DecidableEq, Repr

/-- What a hub reset or a port reset leaves of a port's transaction: a request frame whose arrival is not complete is
discarded (R70, log 13); a read ends, and FFh is shifted out until the release (R181, R182). -/
def PortUnit.brokenOff (t : PortUnit) : Link :=
  match t.link with
  | .idle => .idle
  | .selected => .selected
  | .request _ => .dropped (Config.frameSize - t.rx.length)
  | .reading _ => .ignored
  | .dropped n => .dropped n
  | .ignored => .ignored

/-- A DETACHED port unit with nothing in its buffers, flags and sets, its reset pin released, no transaction on its serial
lines (R59, R180; logs 8 and 13). -/
def PortUnit.fresh : PortUnit :=
  { tenancy := .detached, rx := [], resp := none, flags := 0, mask := 0, change := 0, asked := 0, resetLow := false
    link := .idle }

/-- The port unit after a hub reset: fresh, but for the level of its reset pin and what is left of its transaction (R70, R76,
R180). -/
def PortUnit.afterReset (t : PortUnit) : PortUnit := { PortUnit.fresh with resetLow := t.resetLow, link := t.brokenOff }

/-- The sounder after a hub reset, its mute mark as given (R146). The envelope level, without meaning while SILENT, is 1
(log 25). -/
def Sounder.afterReset (mute : Bool) : Sounder :=
  { cond := .frozen, tone := .silent, level := 1, decay := none, queue := [], engine := .ready, mute := mute
    decayCut := false, chimeCut := false }

/-- A channel record after a power-on reset (R16, R39): a stepper's STAY is TARGET(0, r), its stepper being
UNREFERENCED (R11). -/
def Channel.atPowerOn (c : Fin 23) : Channel :=
  let command := match factoryFallback c with
    | .command v => v
    | .stay => Command.target 0 4
    | .position p => Command.target p 4
  { claims := [], input := ⟨factoryFallback c, false⟩, eff := ⟨command, .fallback⟩, pendingEff := some ⟨command, .fallback⟩
    taken := none, winner := none, stay := if kindOf c = .stepper then some command else none
    handover := ⟨none, none⟩ }

/-- The part right after the power-on reset of a part as it leaves the factory (log 6): the start-up load has begun. -/
def Hub.reset : Hub :=
  { ports := Vector.replicate 3 PortUnit.fresh
    channels := Vector.ofFn Channel.atPowerOn
    relayCond := .frozen
    relays := Vector.replicate 12 ⟨.off, none, false, .fromReset⟩
    dead := Vector.replicate 4 .fromReset
    lamps := Vector.replicate 8 .dark
    flash := none
    sounder := Sounder.afterReset false
    steppers := Vector.replicate 2 ⟨.unreferenced, .idle, 0, none, 0, false, .stopped, false, 0⟩
    slots := Vector.replicate 8 ⟨.empty, 0, none, false⟩
    setpoints := Vector.replicate 16 ⟨.inactive, false, none, false⟩
    mode := .startup
    cause := .powerOn
    faults := 0
    firstFault := 0
    marks := Vector.replicate 6 .unread
    storeOp := none
    lastStore := none
    loadElapsed := 0
    work := factoryBlocks
    stored := factoryBlocks
    storedGood := Vector.replicate 6 true
    resetNLow := false
    stepInhibit := false
    adr0 := false
    adr1 := false
    i2cAddr := 0x48
    freeCount := 0 }

/-- The machine right after reset: no command waits. -/
def State.reset : State := { hub := Hub.reset, pending := [] }

end Sys2Proof.Machine
end

