-- ==== Sys2Proof/Machine/Ops.lean ====
section
/-! DEFINITION. The named operations over the part's records: reading and writing one record, the claim lists (R24,
R25, R85), holdings and the pool (R21, R22), groups (R97), pin-level views, responses and the arrival of a request. -/

namespace Sys2Proof.Machine
namespace Hub

/-- The port unit of `p`. -/
def port (h : Hub) (p : Port) : PortUnit := h.ports[p.idx]

/-- `h` with the port unit of `p` changed by `f`. -/
def modPort (p : Port) (f : PortUnit → PortUnit) (h : Hub) : Hub := { h with ports := h.ports.set p.idx (f (h.port p)) }

/-- The channel record of `c`. -/
def chan (h : Hub) (c : Fin 23) : Channel := h.channels[c]

/-- `h` with the channel record of `c` changed by `f`. -/
def modChan (c : Fin 23) (f : Channel → Channel) (h : Hub) : Hub := { h with channels := h.channels.set c (f (h.chan c)) }

/-- The relay record of `r`. -/
def relay (h : Hub) (r : Fin 12) : Relay := h.relays[r]

/-- `h` with the relay record of `r` changed by `f`. -/
def modRelay (r : Fin 12) (f : Relay → Relay) (h : Hub) : Hub := { h with relays := h.relays.set r (f (h.relay r)) }

/-- The dead timer of `g`. -/
def deadTimer (h : Hub) (g : Fin 4) : DeadTimer := h.dead[g]

/-- `h` with the dead timer of `g` set. -/
def setDead (g : Fin 4) (t : DeadTimer) (h : Hub) : Hub := { h with dead := h.dead.set g t }

/-- The output of lamp `l`. -/
def lamp (h : Hub) (l : Fin 8) : LampOutput := h.lamps[l]

/-- `h` with the output of lamp `l` set. -/
def setLamp (l : Fin 8) (o : LampOutput) (h : Hub) : Hub := { h with lamps := h.lamps.set l o }

/-- `h` with the sounder record changed by `f`. -/
def modSounder (f : Sounder → Sounder) (h : Hub) : Hub := { h with sounder := f h.sounder }

/-- The stepper record of `u`. -/
def stepper (h : Hub) (u : Fin 2) : Stepper := h.steppers[u]

/-- A stepper whose motion mutes the sounder: MOVING or REFERENCING (R144). -/
def stepperMutes (t : Stepper) : Bool :=
  match t.engine with
  | .moving _ _ => true
  | .referencing _ => true
  | .idle => false
  | .paused => false
  | .reversing _ => false

/-- The value of the mute mark (R144). -/
def muteValue (h : Hub) : Bool := !h.work.soundMotion && (stepperMutes (h.stepper 0) || stepperMutes (h.stepper 1))

/-- The Sounder unit sets the mute mark afresh (R144). -/
def refreshMute (h : Hub) : Hub := h.modSounder fun d => { d with mute := h.muteValue }

/-- `h` with the stepper record of `u` changed by `f`; the mute mark follows the engine states (R144). -/
def modStepper (u : Fin 2) (f : Stepper → Stepper) (h : Hub) : Hub :=
  refreshMute { h with steppers := h.steppers.set u (f (h.stepper u)) }

/-- The slot record of `k`. -/
def slot (h : Hub) (k : Fin 8) : Slot := h.slots[k]

/-- `h` with the slot record of `k` set. -/
def setSlot (k : Fin 8) (x : Slot) (h : Hub) : Hub := { h with slots := h.slots.set k x }

/-- The setpoint record of `n`. -/
def setpoint (h : Hub) (n : Fin 16) : Setpoint := h.setpoints[n]

/-- `h` with the setpoint record of `n` set. -/
def setSetpoint (n : Fin 16) (x : Setpoint) (h : Hub) : Hub := { h with setpoints := h.setpoints.set n x }

/-- The PORTS item of `p` in the working copy. -/
def portItem (h : Hub) (p : Port) : PortItem := h.work.ports[p.idx]

/-- The port is ATTACHED (R59). -/
def attached (h : Hub) (p : Port) : Bool :=
  match (h.port p).tenancy with
  | .attached _ => true
  | .detached => false
  | .lapsed => false

/-- The port is LAPSED (R59). -/
def isLapsed (h : Hub) (p : Port) : Bool := (h.port p).tenancy == .lapsed

/-- The port takes request frames: neither RESET_N (R169) nor its PRSTn_N (R71) is held low. -/
def takesFrames (h : Hub) (p : Port) : Bool := !h.resetNLow && !(h.port p).resetLow

/-- NOTEn_N is driven low (R190). -/
def noteAsserted (h : Hub) (p : Port) : Bool :=
  !h.resetNLow && (h.port p).tenancy != .detached && ((h.port p).flags &&& (h.port p).mask) != 0

/-- Whether a relay's driver pin is on; the relay output image of R110 in channel order. -/
def relayImage (h : Hub) : Vector Bool 12 := h.relays.map (·.output)

/-- The sounder's physical output, by the table of R135. -/
def soundOutput (h : Hub) : SoundOutput :=
  if h.sounder.mute then .silent
  else
    match h.sounder.tone, h.sounder.engine, h.sounder.queue.head?, (h.chan soundChannel).taken with
    | .sounding, _, _, some ⟨.tone pitch _ _, _⟩ => .sounding pitch h.sounder.level
    | .silent, .playing _, some chime, _ => .sounding chime.pitch chime.loudness
    | _, _, _, _ => .silent

end Hub

/-! ## Claim lists -/

/-- `claims` with `x` put in directly after the last claim of equal or higher level, at the head where there is none
(R24). -/
def insertClaim (x : Claim) : List Claim → List Claim
  | [] => [x]
  | y :: ys => if ((y :: ys).any fun z => decide (x.level ≤ z.level)) then y :: insertClaim x ys else x :: y :: ys

/-- The claim of `p` in a list; R23: there is at most one. -/
def claimOf (p : Port) (claims : List Claim) : Option Claim := claims.find? (fun x => x.port == p)

/-- The list without the claims of `p` (R25). -/
def withoutPort (p : Port) (claims : List Claim) : List Claim := claims.filter (fun x => x.port != p)

/-- The place of the claim of `p` in its list, 1 for the winner (R29). -/
def placeOf (p : Port) (claims : List Claim) : Nat := claims.findIdx (fun x => x.port == p) + 1

/-- The grant's reorder (R85): within the level of the two claims, the requester's claim goes to the head and the
holder's directly behind it; the other claims keep their relative order. -/
def grantReorder (requester holder : Port) (claims : List Claim) : List Claim :=
  match claimOf requester claims, claimOf holder claims with
  | some r, some d =>
    claims.filter (fun x => decide (r.level < x.level)) ++ [r, d] ++
      claims.filter (fun x => decide (x.level = r.level) && x.port != requester && x.port != holder) ++
      claims.filter (fun x => decide (x.level < r.level))
  | _, _ => claims

namespace Hub

/-- How many claims a port holds, LIVE and ORPHANED alike (R22). -/
def holding (h : Hub) (p : Port) : Nat :=
  ((List.finRange 23).map fun c => ((h.chan c).claims.filter (fun x => x.port == p)).length).sum

/-- How many entries of the claim pool are in use (R21). -/
def poolCount (h : Hub) : Nat := ((List.finRange 23).map fun c => (h.chan c).claims.length).sum

/-- The port holds a claim on the channel. -/
def holdsClaim (h : Hub) (p : Port) (c : Fin 23) : Bool := (claimOf p (h.chan c).claims).isSome

/-- The channels on which a port holds a claim, in ascending channel number. -/
def channelsOf (h : Hub) (p : Port) : List (Fin 23) := (List.finRange 23).filter (h.holdsClaim p)

/-! ## Interlock groups -/

/-- The group names the relay (R97). -/
def namesRelay (h : Hub) (g : Fin 4) (r : Fin 12) : Bool := h.work.groups[g].members.getLsbD r.val

/-- The group is in use: its member list is not empty (R97). -/
def groupInUse (h : Hub) (g : Fin 4) : Bool := h.work.groups[g].members != 0

/-- The members of a group, in ascending channel number. -/
def members (h : Hub) (g : Fin 4) : List (Fin 12) := (List.finRange 12).filter (h.namesRelay g)

/-- The group a relay belongs to; `none` for an ungrouped relay (R93). -/
def groupOf (h : Hub) (r : Fin 12) : Option (Fin 4) := (List.finRange 4).find? (fun g => h.namesRelay g r)

/-! ## Responses and the arrival of a request -/

/-- The response buffer of the port takes a response (R185). -/
def respond (p : Port) (result : Result) (body : List Byte) (h : Hub) : Hub :=
  h.modPort p fun t => { t with resp := some ⟨result, body⟩ }

/-- The ordered checks of a request: the first that fails gives the response; if none fails, `taken` (R26, R79 and the
like). -/
def refuseFirst (p : Port) (checks : List (Bool × Result)) (h : Hub) (taken : Hub) : Hub :=
  match checks.find? (fun x => x.1) with
  | some x => h.respond p x.2 []
  | none => taken

/-- The first two checks of every request but ATTACH, DETACH and QUERY_HUB (R72). -/
def standing (h : Hub) (p : Port) : List (Bool × Result) :=
  [(h.mode == .startup, .starting), (!h.attached p, .notAttached)]

/-- The lease run that starts or restarts now, its length read from the working copy (R60). -/
def newLease (h : Hub) (p : Port) : LeaseRun :=
  ⟨Config.tenths (h.portItem p).lease, Config.tenths (h.portItem p).lease, .pending, false⟩

/-- The lease restart at a good frame from an ATTACHED port, which cuts the old run short (R61, log 26). -/
def restartLease (p : Port) (h : Hub) : Hub :=
  if h.attached p then
    h.modPort p fun t =>
      { t with
        tenancy := .attached { h.newLease p with cut := true }
        flags := t.flags &&& ~~~(BitVec.twoPow 14 Flag.leaseLow.bit) }
  else h

end Hub

/-- The arrival of a good request frame: discarded while the port takes no frames (R71, R169); else the lease restarts
(R61) and the request is decided whole (R184). -/
def onRequest (p : Port) (decided : Hub → Hub) (s : State) : Host.Outcome State Fault Refusal :=
  if s.hub.takesFrames p then .next { s with hub := decided (Hub.restartLease p s.hub) } else .next s

/-- An event of the part itself. -/
def onEvent (effect : Hub → Hub) (s : State) : Host.Outcome State Fault Refusal := .next { s with hub := effect s.hub }

end Sys2Proof.Machine
end

