-- ==== Sys2Proof/Machine/Flags.lean ====
section
/-! DEFINITION. The notice flags, the change set and the asked set of a port (R43, R73, R186). -/

namespace Sys2Proof.Machine

/-- The flag's bit in the notice word (R191). -/
def Flag.word (f : Flag) : BitVec 14 := BitVec.twoPow 14 f.bit

/-- The channel's bit in a channel set (R191). -/
def channelBit (c : Fin 23) : BitVec 23 := BitVec.twoPow 23 c.val

namespace Hub

/-- A flag due to a port is set when the port is ATTACHED, and not otherwise (R73, R186). -/
def giveFlag (p : Port) (f : Flag) (h : Hub) : Hub :=
  if h.attached p then h.modPort p fun t => { t with flags := t.flags ||| f.word } else h

/-- A flag that names a channel: the flag is set and the channel joins the change set, when the port is ATTACHED
(R43, R73). -/
def giveFlagOn (p : Port) (f : Flag) (c : Fin 23) (h : Hub) : Hub :=
  if h.attached p then
    h.modPort p fun t => { t with flags := t.flags ||| f.word, change := t.change ||| channelBit c }
  else h

/-- A flag given to every ATTACHED port (R164, R168). -/
def giveAll (f : Flag) (h : Hub) : Hub := Port.all.foldl (fun x p => x.giveFlag p f) h

/-- HANDOVER_ASKED is given to the holder and the channel joins its asked set (R81). -/
def giveAsked (p : Port) (c : Fin 23) (h : Hub) : Hub :=
  (h.giveFlag p .handoverAsked).modPort p fun t => { t with asked := t.asked ||| channelBit c }

/-- The channel leaves the asked set of a port (R86). -/
def dropAsked (p : Port) (c : Fin 23) (h : Hub) : Hub :=
  h.modPort p fun t => { t with asked := t.asked &&& ~~~(channelBit c) }

/-- CHIME_DONE for each of a list of chimes, in order (R140, R143, R145). -/
def giveChimesDone (chimes : List Chime) (h : Hub) : Hub :=
  chimes.foldl (fun x d => x.giveFlag d.port .chimeDone) h

end Hub
end Sys2Proof.Machine
end

