-- ==== Sys2Proof/Machine/Operands.lean ====
section
/-! DEFINITION. How values stand in bytes (R191, R195): command values, sources, numbers, and the bits of a record to
which the manual gives no content (log 14). -/

namespace Sys2Proof.Machine

/-! ## Command values and fallbacks (R191) -/

/-- Decay nibble of a TONE (R191). -/
def decayOf (n : Nat) : Option Decay :=
  match n with
  | 0 => some .none
  | 1 => some .fast
  | 2 => some .slow
  | _ => none

/-- The code of a decay (R191). -/
def Decay.code : Decay → Nat
  | .none => 0
  | .fast => 1
  | .slow => 2

/-- The value three bytes spell: form byte, A, B. None for an unknown form byte or a non-zero value where the table of
R191 gives zero; ranges are left to the check of R3. -/
def parseValue (v : BitVec 24) : Option Fallback :=
  let a := v.toNat / 256 % 256
  let b := v.toNat % 256
  let ab := v.toNat % 65536
  match v.toNat / 65536 with
  | 0 => if ab = 0 then some (.command .off) else none
  | 1 => if ab = 0 then some (.command .on) else none
  | 2 => if b = 0 then some (.command (.steady a)) else none
  | 3 => if b = 0 then some (.command (.slow a)) else none
  | 4 => if b = 0 then some (.command (.fast a)) else none
  | 5 => (decayOf (b % 16)).map fun d => .command (.tone a (b / 16) d)
  | 6 => some (.command (.target (ab % 4096) (ab / 4096)))
  | 7 => if ab = 0 then some .stay else none
  | 8 => if ab < 4096 then some (.position ab) else none
  | _ => none

/-- The three bytes of a command value (R191). -/
def Command.bits (c : Command) : BitVec 24 :=
  match c with
  | .off => 0
  | .on => 0x010000
  | .steady b => BitVec.ofNat 24 (2 * 65536 + b * 256)
  | .slow b => BitVec.ofNat 24 (3 * 65536 + b * 256)
  | .fast b => BitVec.ofNat 24 (4 * 65536 + b * 256)
  | .tone p l d => BitVec.ofNat 24 (5 * 65536 + p * 256 + l * 16 + d.code)
  | .target p r => BitVec.ofNat 24 (6 * 65536 + r * 4096 + p)

/-- The three bytes of a fallback (R191). -/
def Fallback.bits (f : Fallback) : BitVec 24 :=
  match f with
  | .command c => c.bits
  | .stay => 0x070000
  | .position p => BitVec.ofNat 24 (8 * 65536 + p)

/-- The command value a request gives, when it passes the check of R3 for the channel: STAY and POSITION are no command
values. -/
def commandFor (w : Blocks) (c : Fin 23) (v : BitVec 24) : Option Command :=
  match parseValue v with
  | some (.command x) => if commandFits (kindOf c) (w.travelOf c) x then some x else none
  | some .stay => none
  | some (.position _) => none
  | none => none

/-- Lapse policy byte of CLAIM (R193). -/
def policyOf (b : Byte) : Option Policy :=
  if b = 0 then some .drop else if b = 1 then some .keep else none

/-- Length byte of CHIME (R193). -/
def lengthOf (b : Byte) : Option ChimeLength :=
  if b = 0 then some .short else if b = 1 then some .long else none

/-- A byte that names one of `n` things. -/
def indexOf (n : Nat) (b : Byte) : Option (Fin n) :=
  if h : b.toNat < n then some ⟨b.toNat, h⟩ else none

/-- A signed number within the limit of R149. -/
def withinLimit (x : Int) : Bool := decide (-Config.valueLimit ≤ x ∧ x ≤ Config.valueLimit)

/-! ## Numbers in a body (R191) -/

/-- Two bytes, most significant first. -/
def be16 (x : BitVec 16) : List Byte := [x.extractLsb' 8 8, x.extractLsb' 0 8]

/-- Three bytes, most significant first. -/
def be24 (x : BitVec 24) : List Byte := [x.extractLsb' 16 8, x.extractLsb' 8 8, x.extractLsb' 0 8]

/-- Four bytes, most significant first. -/
def be32 (x : BitVec 32) : List Byte :=
  [x.extractLsb' 24 8, x.extractLsb' 16 8, x.extractLsb' 8 8, x.extractLsb' 0 8]

/-- One byte of a small number. -/
def byteOf (n : Nat) : Byte := BitVec.ofNat 8 n

/-- A signed four-byte value, two's complement (R191). -/
def signed32 (x : Int) : List Byte := be32 (BitVec.ofInt 32 x)

/-- A channel set: three bytes, bit 23 zero (R191). -/
def channelSet (x : BitVec 23) : List Byte := be24 (x.setWidth 24)

/-- The notice word: bits 14 and 15 zero (R191). -/
def noticeWord (x : BitVec 14) : List Byte := be16 (x.setWidth 16)

/-- A time in 100 ms units, rounded up (R92, R166, R195). -/
def tenthsUp (left : Nat) : Nat := (left + (Config.tenths 1 - 1)) / Config.tenths 1

/-! ## Records with bits the manual gives no content (log 14) -/

/-- A byte of a record: the bits of `mask` carry `val`; the others have no content in R195. -/
structure LayoutByte where
  mask : Byte
  val : Byte
  deriving DecidableEq, Repr

/-- A byte every bit of which has its content. -/
def known (b : Byte) : LayoutByte := ⟨0xFF, b⟩

/-- Bytes every bit of which has its content. -/
def knownAll (bs : List Byte) : List LayoutByte := bs.map known

/-- A byte without content. -/
def noContent : LayoutByte := ⟨0, 0⟩

/-- The byte sent: where the manual gives a bit no content, a free value. -/
def LayoutByte.sent (n : Nat) (x : LayoutByte) : Byte :=
  if x.mask = 0xFF then x.val else (x.val &&& x.mask) ||| (Config.unstatedBits n &&& ~~~x.mask)

/-- The bytes of a record, its free values numbered from `n`. -/
def sentBytes (n : Nat) (xs : List LayoutByte) : List Byte :=
  match xs with
  | [] => []
  | x :: rest => x.sent n :: sentBytes (n + 1) rest

/-- A response whose body is a record; the free values it uses are used up. -/
def Hub.respondRecord (p : Port) (record : List LayoutByte) (h : Hub) : Hub :=
  { h.respond p .ok (sentBytes h.freeCount record) with freeCount := h.freeCount + record.length }

/-- A source byte: type in bits 7-6, port in bits 5-4, level in bits 2-0 (R191). -/
def sourceByte (s : Option Source) : LayoutByte :=
  match s with
  | none => ⟨0xC0, 0⟩
  | some (.port p l) => ⟨0xF7, byteOf (64 + 16 * p.idx.val + l)⟩
  | some .localLayer => ⟨0xC0, 0x80⟩
  | some .fallback => ⟨0xC0, 0xC0⟩

/-- A command value with its source, or their absence (R195). -/
def pairBytes (x : Option Pair) : List LayoutByte :=
  match x with
  | some y => knownAll (be24 y.command.bits) ++ [sourceByte (some y.source)]
  | none => [noContent, noContent, noContent, sourceByte none]

end Sys2Proof.Machine
end

