-- ==== Sys2Proof/Decode.lean ====
section
/-! DEFINITION. From bytes to commands and back: the table's words (it gives no bits), request frames on each port
(R181 to R184), the frame of a request, and the response frame a master reads (R185). -/

namespace Sys2Proof

/-- The command a word spells by the table's bits: the table gives no row any bits, so none. -/
def decodeTableWord (_nbits _w : Nat) : Option Instr := none

namespace Machine

/-- The command a request frame is, on the port it arrives at: total on any bytes (R183, R184). -/
def commandOfFrame (p : Port) (bytes : List Byte) : Instr :=
  match openFrame bytes with
  | none => .badFrame p bytes
  | some (code, body) => (requestOf p code body).getD (.badRequest p code body)

/-- The command of an SPI transaction on P0 or P1: 01h and a frame; any other first byte, or none after it, is no
request (R181). -/
def commandOfSpi (p : Port) (bytes : List Byte) : Option Instr :=
  match bytes with
  | 0x01 :: frame => if frame.isEmpty then none else some (commandOfFrame p frame)
  | _ => none

/-- The command of an I2C write on P2; a write with no data byte is ignored (R182). -/
def commandOfI2c (bytes : List Byte) : Option Instr := if bytes.isEmpty then none else some (commandOfFrame .p2 bytes)

/-- The request code and body of a command that is a request of the table (R193). -/
def requestBody (i : Instr) : Option (Port × Byte × List Byte) :=
  match i with
  | .attach p => some (p, 0x01, [])
  | .detach p => some (p, 0x02, [])
  | .keep p => some (p, 0x03, [])
  | .queryHub p => some (p, 0x04, [])
  | .readNotices p => some (p, 0x05, [])
  | .clearNotices p flags c => some (p, 0x06, be16 flags ++ [c])
  | .setMask p mask => some (p, 0x07, be16 mask)
  | .claim p ch lv v pol => some (p, 0x10, [ch, lv] ++ be24 v ++ [pol])
  | .release p ch => some (p, 0x11, [ch])
  | .releaseAll p => some (p, 0x12, [])
  | .clearOrphans p ch => some (p, 0x13, [ch])
  | .queryClaims p ch => some (p, 0x14, [ch])
  | .queryChannel p ch => some (p, 0x15, [ch])
  | .handover p ch => some (p, 0x16, [ch])
  | .answer p ch a => some (p, 0x17, [ch, a])
  | .chime p pi lo le => some (p, 0x20, [pi, lo, le])
  | .silence p => some (p, 0x21, [])
  | .reference p ch => some (p, 0x22, [ch])
  | .sample p k raw => some (p, 0x30, k :: be32 raw)
  | .zero p k amount => some (p, 0x31, k :: be32 amount)
  | .ackSetpoint p n => some (p, 0x32, [n])
  | .querySlot p k => some (p, 0x33, [k])
  | .querySetpoints p => some (p, 0x34, [])
  | .hold p => some (p, 0x40, [])
  | .resume p => some (p, 0x41, [])
  | .acceptFault p => some (p, 0x42, [])
  | .clearFirstFault p => some (p, 0x43, [])
  | .resetHub p => some (p, 0x44, [])
  | .configRead p b i f => some (p, 0x45, [b, i, f])
  | .configWrite p b i f v => some (p, 0x46, [b, i, f] ++ be32 v)
  | .store p b => some (p, 0x47, [b])
  | .badRequest p code body => some (p, code, body)
  | _ => none

/-- The port and the bytes by which a command reaches the part; none for an event of the part itself. -/
def encodeFrame (i : Instr) : Option (Port × List Byte) :=
  match i with
  | .badFrame p frame => some (p, frame)
  | _ => (requestBody i).map fun x => (x.1, frameOf x.2.1 x.2.2)

/-- The bytes of the response frame a read shifts out: NONE while RESET_N or PRSTn_N is held low (R71, R169, R185). -/
def responseFrame (h : Hub) (p : Port) : List Byte :=
  if h.takesFrames p then
    match (h.port p).resp with
    | some r => frameOf r.result.code r.body
    | none => frameOf 0x00 []
  else frameOf 0x00 []

/-- Byte `n` of a read, FFh after the response frame (R181, R182). -/
def readByte (h : Hub) (p : Port) (n : Nat) : Byte := ((responseFrame h p)[n]?).getD 0xFF

end Machine
end Sys2Proof
end

