-- ==== Sys2Proof/Machine/LampUnit.lean ====
section
/-! DEFINITION. The Lamp unit and the common flash clock (R131 to R134). -/

namespace Sys2Proof.Machine

/-- The slow cycle is in its lit half: clock 0 to 499 ms (R132). A STOPPED clock stands at 0. -/
def slowLit (flash : Option Nat) : Bool := decide (flash.getD 0 < Config.ms 500)

/-- The fast cycle is in its lit half: the first 125 ms of each quarter (R132). -/
def fastLit (flash : Option Nat) : Bool := decide (flash.getD 0 % Config.ms 250 < Config.ms 125)

/-- The physical output a taken command asks of a lamp (R131). -/
def lampDrive (flash : Option Nat) (taken : Option Pair) : LampOutput :=
  match taken with
  | none => .dark
  | some x =>
    match x.command with
    | .steady b => .lit b
    | .slow b => if slowLit flash then .lit b else .dark
    | .fast b => if fastLit flash then .lit b else .dark
    | .off => .dark
    | .on => .dark
    | .tone _ _ _ => .dark
    | .target _ _ => .dark

namespace Hub

/-- A lamp shows its taken command (R133). -/
def showLamp (l : Fin 8) (h : Hub) : Hub := h.setLamp l (lampDrive h.flash (h.chan (lampChannel l)).taken)

/-- Every lamp follows the flash clock (R131, R132). -/
def showLamps (h : Hub) : Hub :=
  { h with lamps := Vector.ofFn fun l => lampDrive h.flash (h.chan (lampChannel l)).taken }

/-- The next boundary of a lit half after a count, back to 0 after 999 ms (R132). -/
def nextBoundary (n : Nat) : Nat := (n / Config.flashBoundary + 1) * Config.flashBoundary % Config.flashRound

/-- The running flash clock comes to its next boundary, and the lamps with it (R132). -/
def flashBoundaryPasses (h : Hub) : Hub :=
  match h.flash with
  | some n => showLamps { h with flash := some (nextBoundary n) }
  | none => h

/-- The hub reset of the Lamp unit (R134). -/
def resetLamps (h : Hub) : Hub := { h with lamps := Vector.replicate 8 .dark, flash := none }

end Hub
end Sys2Proof.Machine
end

