-- ==== Sys2Proof/Machine/RelayUnit.lean ====
section
/-! DEFINITION. The Relay unit: min-times (R94), relays outside groups (R95), the contest of an interlock group (R99 to
R103), INTERLOCK (R104), freeze (R106), thaw (R107) and reset (R108). -/

namespace Sys2Proof.Machine.Hub

/-- The taken command of the relay asks for ON. -/
def asksOn (h : Hub) (r : Fin 12) : Bool :=
  match (h.chan (relayChannel r)).taken with
  | some x => x.command == .on
  | none => false

/-- The source level of a relay (R93). -/
def sourceLevel (h : Hub) (r : Fin 12) : Nat :=
  match (h.chan (relayChannel r)).taken with
  | some x => x.source.level
  | none => 0

/-- The port of the source of a relay's taken command. -/
def sourcePort (h : Hub) (r : Fin 12) : Option Port :=
  match (h.chan (relayChannel r)).taken with
  | some x => x.source.port?
  | none => none

/-- The relay's mark holds a running MIN_ON run (R94). -/
def minOnRunning (h : Hub) (r : Fin 12) : Bool :=
  match (h.relay r).mark with
  | .minOn _ => true
  | .minOff _ => false
  | .expired => false
  | .fromReset => false

/-- The relay's mark holds a running MIN_OFF run (R94, R108). -/
def minOffRunning (h : Hub) (r : Fin 12) : Bool :=
  match (h.relay r).mark with
  | .minOff _ => true
  | .fromReset => true
  | .minOn _ => false
  | .expired => false

/-- A MIN_OFF run of a length; a run of length 0 is EXPIRED (R94). -/
def minOffRun (length : Nat) : MinMark := if length = 0 then .expired else .minOff length

/-- A MIN_ON run of a length (R94). -/
def minOnRun (length : Nat) : MinMark := if length = 0 then .expired else .minOn length

/-- A dead timer of a length; 0 leaves it EXPIRED (R98). `cut`: it cuts an earlier run short (log 26). -/
def deadRun (length : Nat) (cut : Bool) : DeadTimer := if length = 0 then .expired else .running length cut

/-- A run of the group's dead timer is in progress. -/
def deadRunning (h : Hub) (g : Fin 4) : Bool :=
  match h.deadTimer g with
  | .running _ _ => true
  | .expired => false
  | .fromReset => false

/-- The relay's state and leave reason are set. -/
def setRelayState (r : Fin 12) (x : RelayState) (why : Option LeaveReason) (h : Hub) : Hub :=
  h.modRelay r fun t => { t with state := x, leave := why }

/-- The dead timer of a group starts with the dead time read now (R98, R111); a run in progress is cut short (log 26). -/
def startDeadTimer (g : Fin 4) (h : Hub) : Hub :=
  h.setDead g (deadRun (Config.hundredths h.work.groups[g].deadTime) (h.deadRunning g))

/-- A relay is switched ON: a MIN_ON run starts (R94). -/
def switchOn (r : Fin 12) (h : Hub) : Hub :=
  h.modRelay r fun _ => ⟨.on, none, true, minOnRun (Config.tenths h.work.relays[r].minOn)⟩

/-- A relay is switched OFF into a state: a MIN_OFF run starts (R94), and its group's dead timer (R98). -/
def switchOff (r : Fin 12) (into : RelayState) (h : Hub) : Hub :=
  let opened := h.modRelay r fun _ => ⟨into, none, false, minOffRun (Config.tenths h.work.relays[r].minOff)⟩
  match h.groupOf r with
  | some g => opened.startDeadTimer g
  | none => opened

/-! ## Relays outside groups (R95) -/

/-- The cell of R95 for ON taken. -/
def followOn (r : Fin 12) (h : Hub) : Hub :=
  match (h.relay r).state with
  | .on => h
  | .waitMinOff => h
  | .waitMinOn => h.setRelayState r .on none
  | .off => if h.minOffRunning r then h.setRelayState r .waitMinOff none else h.switchOn r
  | .waitDead => if h.minOffRunning r then h.setRelayState r .waitMinOff none else h.switchOn r
  | .heldOff => if h.minOffRunning r then h.setRelayState r .waitMinOff none else h.switchOn r

/-- The cell of R95 for OFF taken. -/
def followOff (r : Fin 12) (h : Hub) : Hub :=
  match (h.relay r).state with
  | .on => if h.minOnRunning r then h.setRelayState r .waitMinOn (some .command) else h.switchOff r .off
  | .waitMinOn => h
  | .off => h
  | .waitMinOff => h.setRelayState r .off none
  | .waitDead => h.setRelayState r .off none
  | .heldOff => h.setRelayState r .off none

/-- An ungrouped relay takes its taken command (R95). -/
def follow (r : Fin 12) (h : Hub) : Hub := if h.asksOn r then h.followOn r else h.followOff r

/-- The cell of R95 for the expiry of a run, the mark being EXPIRED already. -/
def followExpiry (r : Fin 12) (h : Hub) : Hub :=
  match (h.relay r).state with
  | .waitMinOff => h.switchOn r
  | .waitMinOn => h.switchOff r .off
  | .off => h
  | .on => h
  | .waitDead => h
  | .heldOff => h

/-! ## The contest (R99 to R103) -/

/-- First step, one member: leaving or withdrawing (R100). -/
def settleMember (h : Hub) (r : Fin 12) : Hub :=
  match (h.relay r).state with
  | .waitMinOn =>
    if (h.relay r).leave = some .command && h.asksOn r then h.setRelayState r .on none
    else if h.minOnRunning r then h
    else h.switchOff r (if h.asksOn r then .heldOff else .off)
  | .on =>
    if h.asksOn r then h
    else if h.minOnRunning r then h.setRelayState r .waitMinOn (some .command)
    else h.switchOff r .off
  | .waitDead => if h.asksOn r then h else h.setRelayState r .off none
  | .heldOff => if h.asksOn r then h else h.setRelayState r .off none
  | .off => h
  | .waitMinOff => if h.asksOn r then h else h.setRelayState r .off none

/-- The incumbent: the member that is ON, failing that the member in WAIT_DEAD (R101). -/
def incumbent (g : Fin 4) (h : Hub) : Option (Fin 12) :=
  match (h.members g).find? (fun r => (h.relay r).state == .on) with
  | some r => some r
  | none => (h.members g).find? (fun r => (h.relay r).state == .waitDead)

/-- Some member asks ON at a level strictly above that of member `i` and is not in WAIT_MIN_ON (R101). -/
def outranked (g : Fin 4) (i : Fin 12) (h : Hub) : Bool :=
  (h.members g).any fun r =>
    h.asksOn r && r != i && (h.relay r).state != .waitMinOn && decide (h.sourceLevel i < h.sourceLevel r)

/-- An incumbent is forced out (R101). -/
def forceOut (i : Fin 12) (h : Hub) : Hub :=
  if (h.relay i).state == .on then
    if h.minOnRunning i then h.setRelayState i .waitMinOn (some .preempted) else h.switchOff i .heldOff
  else h.setRelayState i .heldOff none

/-- Second step: preemption. The incumbent that remains, if any (R101). An equal level does not preempt, so of two hand-overs
at one level the first to close keeps its place, which the last row of R105's table denies (log 28). -/
def preemption (g : Fin 4) (h : Hub) : Hub × Option (Fin 12) :=
  match h.incumbent g with
  | some i => if h.work.groups[g].preempt && h.outranked g i then (h.forceOut i, none) else (h, some i)
  | none => (h, none)

/-- A member the third step may choose: asks ON and is neither ON nor in WAIT_MIN_ON (R102). -/
def eligible (h : Hub) (r : Fin 12) : Bool :=
  h.asksOn r && (h.relay r).state != .on && (h.relay r).state != .waitMinOn

/-- Of two members the one of the higher source level, of two at one level the one met first (R102). -/
def stronger (h : Hub) (best : Option (Fin 12)) (r : Fin 12) : Option (Fin 12) :=
  match best with
  | none => some r
  | some b => if h.sourceLevel b < h.sourceLevel r then some r else some b

/-- Third step: the member chosen (R102). -/
def choose (g : Fin 4) (h : Hub) : Option (Fin 12) := ((h.members g).filter h.eligible).foldl h.stronger none

/-- Third and fourth step: the incumbent stays or a member is chosen into WAIT_DEAD; the other eligible members become
HELD_OFF (R102). -/
def chooseAndHold (g : Fin 4) (remains : Option (Fin 12)) (h : Hub) : Hub :=
  let keeps := match remains with
    | some i => some i
    | none => h.choose g
  let chosen := match remains, keeps with
    | none, some r => h.setRelayState r .waitDead none
    | _, _ => h
  ((h.members g).filter fun r => chosen.eligible r && keeps != some r).foldl
    (fun x r => x.setRelayState r .heldOff none) chosen

/-- A member in WAIT_DEAD may close now (R103). -/
def mayClose (g : Fin 4) (r : Fin 12) (h : Hub) : Bool :=
  !((h.members g).any fun q => q != r && (h.relay q).output) && h.deadTimer g == .expired && !h.minOffRunning r

/-- Fifth step: the member in WAIT_DEAD closes when it may (R103). -/
def closeChosen (g : Fin 4) (h : Hub) : Hub :=
  match (h.members g).find? (fun r => (h.relay r).state == .waitDead) with
  | some r => if h.mayClose g r then h.switchOn r else h
  | none => h

/-- The physical outputs of two states differ: a step switched a relay. -/
def switched (before after : Hub) : Bool := before.relays.map (·.output) != after.relays.map (·.output)

/-- One pass of the contest, and whether it switched any member (R99). -/
def contestPass (g : Fin 4) (h : Hub) : Hub × Bool :=
  let settled := (h.members g).foldl settleMember h
  let preempted := settled.preemption g
  let held := preempted.1.chooseAndHold g preempted.2
  let closed := held.closeChosen g
  (closed, switched h settled || switched settled preempted.1 || switched held closed)

/-- Passes until one switches nothing (R99), at most `fuel` of them (log 20). -/
def contestPasses (g : Fin 4) (fuel : Nat) (h : Hub) : Hub :=
  match fuel with
  | 0 => h
  | n + 1 =>
    let pass := h.contestPass g
    if pass.2 then pass.1.contestPasses g n else pass.1

/-- A member gives INTERLOCK at the end of a run: HELD_OFF, and it was not before the event or its source's port differs
from the port before; the notice goes to the port of its source (R104). -/
def interlockNotice (before : Hub) (h : Hub) (r : Fin 12) : Hub :=
  if (h.relay r).state == .heldOff &&
      ((before.relay r).state != .heldOff || h.sourcePort r != before.sourcePort r) then
    match h.sourcePort r with
    | some p => h.giveFlagOn p .interlock (relayChannel r)
    | none => h
  else h

/-- A run of the contest of a group in use, with its notices; `before` is the part before the event (R99, R104). -/
def contest (g : Fin 4) (h before : Hub) : Hub :=
  let ran := h.contestPasses g 32
  (h.members g).foldl (interlockNotice before) ran

/-! ## Events of the unit -/

/-- A hand-over to a relay, recorded already; `before` is the part before the hand-over (R96). -/
def relayTakes (r : Fin 12) (commandChange : Bool) (h before : Hub) : Hub :=
  match h.relayCond with
  | .frozen => h
  | .running =>
    match h.groupOf r with
    | some g => h.contest g before
    | none => if commandChange then h.follow r else h

/-- The end of a min-time run: the mark is EXPIRED, and the relay acts where the unit is RUNNING (R94). -/
def endRun (r : Fin 12) (h : Hub) : Hub :=
  let ended := h.modRelay r fun t => { t with mark := .expired }
  match h.relayCond with
  | .frozen => ended
  | .running =>
    match h.groupOf r with
    | some g => ended.contest g h
    | none => ended.followExpiry r

/-- The expiry of a min-time run, where one runs (R94). -/
def relayRunExpires (r : Fin 12) (h : Hub) : Hub :=
  match (h.relay r).mark with
  | .minOn _ => h.endRun r
  | .minOff _ => h.endRun r
  | .expired => h
  | .fromReset => h

/-- The end of a dead timer's run (R98). -/
def endDead (g : Fin 4) (h : Hub) : Hub :=
  let ended := h.setDead g .expired
  match h.relayCond with
  | .frozen => ended
  | .running => if h.groupInUse g then ended.contest g h else ended

/-- The expiry of a group's dead timer, where it runs (R98). That of a run which a command has cut short at this moment does
not happen: R105 has no such pair, and the choice is the model's (log 26). -/
def deadTimerExpires (g : Fin 4) (h : Hub) : Hub :=
  match h.deadTimer g with
  | .running left true => h.setDead g (.running left false)
  | .running _ false => h.endDead g
  | .expired => h
  | .fromReset => h

/-- One relay freezes: its state gives the physical output alone (R106). -/
def freezeRelay (t : Relay) : Relay :=
  match t.state with
  | .off => { t with state := .off, leave := none }
  | .waitMinOff => { t with state := .off, leave := none }
  | .waitDead => { t with state := .off, leave := none }
  | .heldOff => { t with state := .off, leave := none }
  | .on => { t with state := .on, leave := none }
  | .waitMinOn => { t with state := .on, leave := none }

/-- The Relay unit freezes (R106). -/
def freezeRelays (h : Hub) : Hub := { h with relayCond := .frozen, relays := h.relays.map freezeRelay }

/-- The Relay unit thaws: ungrouped relays follow their taken commands, each group in use runs its contest, notices
measured against the frozen states (R107). -/
def thawRelays (h : Hub) : Hub :=
  let running := { h with relayCond := .running }
  let followed := ((List.finRange 12).filter fun r => (h.groupOf r).isNone).foldl (fun x r => x.follow r) running
  ((List.finRange 4).filter h.groupInUse).foldl (fun x g => x.contest g h) followed

/-- The hub reset of the Relay unit (R108). -/
def resetRelays (h : Hub) : Hub :=
  { h with
    relayCond := .frozen
    relays := Vector.replicate 12 ⟨.off, none, false, .fromReset⟩
    dead := Vector.replicate 4 .fromReset }

/-- The end of the load reads the lengths of the runs the reset started, counted from the reset (R108). -/
def readRelayRuns (h : Hub) : Hub :=
  { h with
    relays := Vector.ofFn fun r =>
      { h.relay r with mark := minOffRun (Config.tenths h.work.relays[r].minOff - h.loadElapsed) }
    dead := Vector.ofFn fun g =>
      if h.groupInUse g then deadRun (Config.hundredths h.work.groups[g].deadTime - h.loadElapsed) false else .expired }

end Sys2Proof.Machine.Hub
end

