-- ==== Sys2Proof/Machine/SounderUnit.lean ====
section
/-! DEFINITION. The Sounder unit: the tone and its envelope (R136, R137), the chime engine (R139 to R143), freeze, thaw
and reset (R145, R146). -/

namespace Sys2Proof.Machine

/-- The time between falls of the envelope (R136). -/
def Decay.period : Decay → Option Nat
  | .none => Option.none
  | .fast => some (Config.ms 100)
  | .slow => some (Config.ms 250)

/-- The decay timer at a level: STOPPED at level 1 and with decay NONE (R136). -/
def decayTimer (d : Decay) (level : Nat) : Option Nat := if 1 < level then d.period else none

/-- The length of a chime (R138). -/
def ChimeLength.time : ChimeLength → Nat
  | .short => Config.ms 40
  | .long => Config.ms 160

namespace Hub

/-- The command the Sounder unit has taken. -/
def soundCommand (h : Hub) : Option Command := (h.chan soundChannel).taken.map (·.command)

/-- The envelope of a taken TONE begins at the commanded loudness: the start of R136 and the renewal of R137. A run of the
decay timer in progress, of the same TONE or of the one it replaces, is cut short (R147, log 26). -/
def startTone (h : Hub) : Hub :=
  match h.soundCommand with
  | some (.tone _ l d) =>
    h.modSounder fun x =>
      { x with tone := .sounding, level := l, decay := decayTimer d l, decayCut := x.decay.isSome }
  | some .off => h
  | some .on => h
  | some (.steady _) => h
  | some (.slow _) => h
  | some (.fast _) => h
  | some (.target _ _) => h
  | none => h

/-- The tone goes silent, its decay timer STOPPED (R136). The envelope level, without meaning now, keeps its number
(log 25). -/
def silenceTone (h : Hub) : Hub := h.modSounder fun x => { x with tone := .silent, decay := none }

/-- The queue is emptied, each record's port given CHIME_DONE in queue order, and the engine is READY (R143, R145). -/
def emptyChimes (h : Hub) : Hub :=
  (h.giveChimesDone h.sounder.queue).modSounder fun x => { x with queue := [], engine := .ready }

/-- A hand-over to the Sounder unit, recorded already (R137): a command change to TONE takes the sounder over (R143) and
starts, one to OFF silences the tone. -/
def sounderTakes (commandChange : Bool) (h : Hub) : Hub :=
  match h.sounder.cond with
  | .frozen => h
  | .running =>
    if commandChange then
      if (h.soundCommand.map (·.isTone)).getD false then
        startTone (if h.sounder.engine == .ready then h else h.emptyChimes)
      else h.silenceTone
    else h

/-- A renewal (R13, R137): the envelope of a taken TONE restarts. -/
def sounderRenewed (h : Hub) : Hub :=
  match h.sounder.cond with
  | .frozen => h
  | .running => h.startTone

/-- The decay timer expires: the level falls by one (R136). The expiry of a run that a renewal, or a start of another TONE,
has cut short at this moment does not happen (R147, log 26). -/
def decayExpires (h : Hub) : Hub :=
  match h.sounder.tone, h.sounder.decay, h.soundCommand with
  | .sounding, some _, some (.tone _ _ d) =>
    h.modSounder fun x =>
      if x.decayCut then { x with decayCut := false }
      else { x with level := x.level - 1, decay := decayTimer d (x.level - 1) }
  | _, _, _ => h

/-- The chime at the head of the queue starts playing (R140). -/
def startChime (h : Hub) : Hub :=
  match h.sounder.queue.head? with
  | some c => h.modSounder fun x => { x with engine := .playing c.length.time, chimeCut := false }
  | none => h.modSounder fun x => { x with engine := .ready }

/-- The playing chime ends (R140). The end of a length that a retrigger has cut short at this moment does not happen
(R147, log 26). -/
def playingEnds (h : Hub) : Hub :=
  match h.sounder.engine, h.sounder.queue with
  | .playing _, c :: rest =>
    if h.sounder.chimeCut then h.modSounder fun x => { x with chimeCut := false }
    else
      (h.modSounder fun x =>
        { x with queue := rest, engine := if rest.isEmpty then .ready else .gap Config.chimeGap }).giveFlag
          c.port .chimeDone
  | _, _ => h

/-- The gap ends (R140). -/
def gapEnds (h : Hub) : Hub :=
  match h.sounder.engine with
  | .gap _ => h.startChime
  | .ready => h
  | .playing _ => h

/-- A chime joins the queue, and starts where the engine was READY (R139, R140). -/
def appendChime (c : Chime) (h : Hub) : Hub :=
  let joined := h.modSounder fun x => { x with queue := x.queue ++ [c] }
  if h.sounder.engine == .ready then joined.startChime else joined

/-- The playing chime is the port's, of the pitch given (check 7 of R139). -/
def retriggers (p : Port) (pitch : Nat) (h : Hub) : Bool :=
  match h.sounder.engine, h.sounder.queue.head? with
  | .playing _, some c => c.port == p && c.pitch == pitch
  | _, _ => false

/-- The playing chime restarts with a new loudness and length (R141). -/
def retrigger (loudness : Nat) (length : ChimeLength) (h : Hub) : Hub :=
  match h.sounder.queue with
  | c :: rest =>
    h.modSounder fun x =>
      { x with
        queue := { c with loudness := loudness, length := length } :: rest, engine := .playing length.time
        chimeCut := true }
  | [] => h

/-- The chimes of a port leave the queue (R142). -/
def withdrawChimes (p : Port) (h : Hub) : Hub :=
  let rest := h.sounder.queue.filter (fun c => c.port != p)
  let own := (h.sounder.queue.head?.map (fun c => c.port == p)).getD false
  let engine := match h.sounder.engine with
    | .ready => ChimeEngine.ready
    | .playing t => if own then (if rest.isEmpty then .ready else .gap Config.chimeGap) else .playing t
    | .gap t => if rest.isEmpty then .ready else .gap t
  (h.modSounder fun x => { x with queue := rest, engine := engine }).giveFlag p .chimeDone

/-- The Sounder unit freezes (R145). -/
def freezeSounder (h : Hub) : Hub := h.emptyChimes.silenceTone.modSounder fun x => { x with cond := .frozen }

/-- The Sounder unit thaws: a TONE it holds starts afresh (R145). -/
def thawSounder (h : Hub) : Hub := startTone (h.modSounder fun x => { x with cond := .running })

/-- The hub reset of the Sounder unit (R146). -/
def resetSounder (h : Hub) : Hub := { h with sounder := Sounder.afterReset h.muteValue }

end Hub
end Sys2Proof.Machine
end

