-- ==== Sys2Proof/Machine/StepperUnit.lean ====
section
/-! DEFINITION. The Stepper units: decisions (R116), steps (R118, R122), referencing (R121 to R123), STEP_INHIBIT
(R124), drain and thaw (R125 to R127) and reset (R128). -/

namespace Sys2Proof.Machine

/-- The other direction. -/
def Dir.opposite : Dir → Dir
  | .up => .down
  | .down => .up

namespace Hub

/-- The configuration fields of a stepper, from the working copy (R113). -/
def stepperItem (h : Hub) (u : Fin 2) : StepperItem := h.work.steppers[u]

/-- The position a unit pursues: its target, or the travel limit where the target exceeds it (R113). A unit that has
taken no TARGET pursues the place where it stands. -/
def pursued (h : Hub) (u : Fin 2) : Nat :=
  match (h.chan (stepperChannel u)).taken with
  | some ⟨.target p _, _⟩ => min p (h.stepperItem u).travel
  | _ => (h.stepper u).pos

/-- The rate index of the taken command (R112). -/
def takenRate (h : Hub) (u : Fin 2) : Nat :=
  match (h.chan (stepperChannel u)).taken with
  | some ⟨.target _ r, _⟩ => r
  | _ => (h.stepperItem u).refRate

/-- A step toward the target starts; STPn_DIR is set (R112, R116). -/
def startStep (u : Fin 2) (d : Dir) (h : Hub) : Hub :=
  h.modStepper u fun t => { t with engine := .moving d (Config.stepTime (h.takenRate u)), dirUp := d == .up }

/-- ARRIVED is given to the port of a PORT source (R119). -/
def giveArrived (u : Fin 2) (h : Hub) : Hub :=
  match (h.chan (stepperChannel u)).taken with
  | some ⟨_, .port p _⟩ => h.giveFlagOn p .arrived (stepperChannel u)
  | _ => h

/-- The engine stands PAUSED (R116, R124). -/
def pauseStepper (u : Fin 2) (h : Hub) : Hub := h.modStepper u fun t => { t with engine := .paused, lastDir := none }

/-- An arrival (R116, R119). -/
def arrive (u : Fin 2) (h : Hub) : Hub :=
  giveArrived u (h.modStepper u fun t => { t with engine := .idle, lastDir := none })

/-- The decision of R116; an UNREFERENCED stepper makes none. -/
def decision (u : Fin 2) (h : Hub) : Hub :=
  let t := h.stepper u
  let d := if t.pos < h.pursued u then Dir.up else Dir.down
  if t.ref != .referenced then h
  else if t.pos = h.pursued u then h.arrive u
  else if h.stepInhibit then h.pauseStepper u
  else if t.lastDir = some d.opposite then h.modStepper u fun x => { x with engine := .reversing Config.reversalPause }
  else h.startStep u d

/-- The next step of a referencing run starts, or the run pauses (R122, R124). -/
def startRunStep (u : Fin 2) (h : Hub) : Hub :=
  if h.stepInhibit then h.pauseStepper u
  else
    h.modStepper u fun t =>
      { t with engine := .referencing (Config.stepTime (h.stepperItem u).refRate), dirUp := false }

/-- A referencing run starts (R122): after an UP step with the reversal pause, STEP_INHIBIT asserted or not, though R124 has the
engine PAUSED at the completion of that step (log 32, the model's reading). -/
def startRun (u : Fin 2) (h : Hub) : Hub :=
  let i := h.stepperItem u
  let begun := h.modStepper u fun t =>
    { t with ref := .referencing, runCount := i.travel + i.overtravel, refReq := false }
  if (h.stepper u).lastDir = some .up then
    begun.modStepper u fun t => { t with engine := .reversing Config.reversalPause }
  else begun.startRunStep u

/-- An engine that stands with a step due, or at the end of a pause, goes on (R117, R124). -/
def goOn (u : Fin 2) (h : Hub) : Hub :=
  if (h.stepper u).ref == .referencing then h.startRunStep u
  else if (h.stepper u).refReq then h.startRun u
  else h.decision u

/-- A hand-over to a Stepper unit, recorded already (R115). -/
def stepperTakes (u : Fin 2) (commandChange : Bool) (h : Hub) : Hub :=
  if commandChange && (h.stepper u).cond == .running then
    match (h.stepper u).engine with
    | .idle => h.decision u
    | .paused => if (h.stepper u).refReq then h else h.decision u
    | .moving _ _ => h
    | .referencing _ => h
    | .reversing _ => h
  else h

/-- A unit comes to rest in a drain (R125). -/
def comeToRest (u : Fin 2) (h : Hub) : Hub :=
  h.modStepper u fun t => { t with engine := .idle, lastDir := none, refReq := false, cond := .stopped }

/-- A run is aborted (R125). -/
def abortRun (u : Fin 2) (h : Hub) : Hub := h.modStepper u fun t => { t with ref := .unreferenced, runCount := 0 }

/-- The step of a drain completes: ARRIVED where it reaches the pursued position with no request waiting (R121, R125,
log 15). -/
def drainStep (u : Fin 2) (h : Hub) : Hub :=
  let rested := h.comeToRest u
  if (h.stepper u).pos = h.pursued u && !(h.stepper u).refReq then rested.giveArrived u else rested

/-- A step toward a target completes (R118). -/
def stepCompletes (u : Fin 2) (h : Hub) : Hub :=
  match (h.stepper u).engine with
  | .moving d _ =>
    let moved := h.modStepper u fun t =>
      { t with pos := match d with
                 | .up => t.pos + 1
                 | .down => t.pos - 1
               lastDir := some d
               pulses := t.pulses + 1 }
    match (h.stepper u).cond with
    | .running => if (h.stepper u).refReq then moved.startRun u else moved.decision u
    | .draining => moved.drainStep u
    | .stopped => moved.drainStep u
  | .idle => h
  | .referencing _ => h
  | .paused => h
  | .reversing _ => h

/-- The end of a referencing run (R122). -/
def endRunAtZero (u : Fin 2) (h : Hub) : Hub :=
  decision u (h.modStepper u fun t => { t with pos := 0, ref := .referenced, lastDir := some .down })

/-- A step of a referencing run completes (R122); a drain aborts the run, its last step included (log 16). -/
def referencingStepCompletes (u : Fin 2) (h : Hub) : Hub :=
  match (h.stepper u).engine with
  | .referencing _ =>
    let stepped := h.modStepper u fun t =>
      { t with runCount := t.runCount - 1, lastDir := some .down, pulses := t.pulses + 1 }
    match (h.stepper u).cond with
    | .running => if (stepped.stepper u).runCount = 0 then stepped.endRunAtZero u else stepped.startRunStep u
    | .draining => (stepped.abortRun u).comeToRest u
    | .stopped => (stepped.abortRun u).comeToRest u
  | .idle => h
  | .moving _ _ => h
  | .paused => h
  | .reversing _ => h

/-- The end of a reversal pause (R117). -/
def pauseEnds (u : Fin 2) (h : Hub) : Hub :=
  match (h.stepper u).engine with
  | .reversing _ => goOn u (h.modStepper u fun t => { t with lastDir := none })
  | .idle => h
  | .moving _ _ => h
  | .referencing _ => h
  | .paused => h

/-- One unit takes the release of STEP_INHIBIT (R124). -/
def unitReleased (u : Fin 2) (h : Hub) : Hub :=
  if (h.stepper u).cond == .running && (h.stepper u).engine == .paused then h.goOn u else h

/-- One unit begins to drain (R125). -/
def drainUnit (u : Fin 2) (h : Hub) : Hub :=
  match (h.stepper u).engine with
  | .idle => h.comeToRest u
  | .moving _ _ => h.modStepper u fun t => { t with cond := .draining }
  | .referencing _ => h.modStepper u fun t => { t with cond := .draining }
  | .paused => if (h.stepper u).ref == .referencing then (h.abortRun u).comeToRest u else h.comeToRest u
  | .reversing _ => if (h.stepper u).ref == .referencing then (h.abortRun u).comeToRest u else h.comeToRest u

/-- One unit thaws, or withdraws its drain; `changed`: a command change was handed to it in this event (R126, R127). Of a
RESUME and a step completion that arrive together R174 says that the outputs are the same in either order, and R126, that a
run goes on or is aborted by the order: the model follows R126 (log 31). -/
def thawUnit (u : Fin 2) (changed : Bool) (h : Hub) : Hub :=
  let running := h.modStepper u fun t => { t with cond := .running }
  match (h.stepper u).cond with
  | .running => h
  | .draining => running
  | .stopped =>
    if (h.stepper u).ref == .referenced && (changed || (h.stepper u).pos != h.pursued u) then running.decision u
    else running

/-- Auto-reference at an entry into RUN from STARTUP or FAULT_HOLD (R123). -/
def autoReference (u : Fin 2) (h : Hub) : Hub :=
  if (h.stepperItem u).autoRef && (h.stepper u).ref == .unreferenced then h.startRun u else h

/-- The position a STAY takes (R11): the one the step in progress will reach; 0 where the stepper is not REFERENCED. -/
def stayPosition (h : Hub) (u : Fin 2) : Nat :=
  if (h.stepper u).ref == .referenced then
    match (h.stepper u).engine with
    | .moving .up _ => (h.stepper u).pos + 1
    | .moving .down _ => (h.stepper u).pos - 1
    | .idle => (h.stepper u).pos
    | .referencing _ => (h.stepper u).pos
    | .paused => (h.stepper u).pos
    | .reversing _ => (h.stepper u).pos
  else 0

/-- The hub reset of one unit; `keep`: the cause is RESET_HUB (R128). The level of STPn_DIR: log 8. -/
def resetUnit (u : Fin 2) (keep : Bool) (h : Hub) : Hub :=
  h.modStepper u fun t =>
    { ref := if keep && t.ref == .referenced then .referenced else .unreferenced
      engine := .idle, pos := t.pos, lastDir := none, runCount := 0, refReq := false, cond := .stopped
      dirUp := keep && t.dirUp, pulses := t.pulses }

/-- The end of the load compares a kept reference with the loaded travel limit (R128). -/
def checkReference (u : Fin 2) (h : Hub) : Hub :=
  if (h.stepper u).ref == .referenced && decide ((h.stepperItem u).travel < (h.stepper u).pos) then
    h.modStepper u fun t => { t with ref := .unreferenced }
  else h

end Hub
end Sys2Proof.Machine
end

