-- ==== Sys2Proof/Machine/Arbiter.lean ====
section
/-! DEFINITION. The Arbiter: the forming of a channel (R40), the stay value (R49), WON and LOST (R41, R42), and the
hand-over of a command to an engine (R13 to R15). -/

namespace Sys2Proof.Machine

/-- What causes a forming, as far as R49 tells causes apart. -/
inductive FormCause where
  /-- An edit of the claim list or a granted handover. -/
  | edit
  /-- A pass of local input; `toStay`: it carries a fallback written to STAY from POSITION. -/
  | pass (toStay : Bool)
  /-- A write of the reference rate index. -/
  | rateWrite
  /-- The pass at the end of the start-up load. -/
  | load
  deriving DecidableEq, Repr

namespace Hub

/-- The reference rate index of a channel's stepper; 0 on channels that have none. -/
def refRateOf (h : Hub) (c : Fin 23) : Nat :=
  match outputOf c with
  | .stepper u => (h.stepperItem u).refRate
  | .relay _ => 0
  | .lamp _ => 0
  | .sounder => 0

/-- The value STAY takes now (R11): the stepper's position with the reference rate index. -/
def stayNow (h : Hub) (c : Fin 23) : Command :=
  match outputOf c with
  | .stepper u => .target (h.stayPosition u) (h.refRateOf c)
  | .relay _ => .off
  | .lamp _ => .off
  | .sounder => .off

/-- The source of a channel's effective command (R12). -/
def sourceOf (h : Hub) (c : Fin 23) : Source :=
  match (h.chan c).claims with
  | x :: _ => .port x.port x.level
  | [] => if (h.chan c).input.driven then .localLayer else .fallback

/-- A stay value with another rate index (R49, case 3). -/
def withRate (v : Command) (rate : Nat) : Command :=
  match v with
  | .target q _ => .target q rate
  | .off => .off
  | .on => .on
  | .steady b => .steady b
  | .slow b => .slow b
  | .fast b => .fast b
  | .tone p l d => .tone p l d

/-- The stay value after a forming (R49): present exactly while the fallback STAY is the source. -/
def stayAfter (h : Hub) (c : Fin 23) (cause : FormCause) : Option Command :=
  if h.sourceOf c = .fallback && (h.chan c).input.value == .stay then
    match (h.chan c).stay, cause with
    | none, _ => some (h.stayNow c)
    | some _, .load => some (h.stayNow c)
    | some _, .pass true => some (h.stayNow c)
    | some v, .rateWrite => some (withRate v (h.refRateOf c))
    | some v, .edit => some (if (h.chan c).eff.source = .fallback then v else h.stayNow c)
    | some v, .pass false => some (if (h.chan c).eff.source = .fallback then v else h.stayNow c)
  else none

/-- The local input as a command value (R11). -/
def inputCommand (h : Hub) (c : Fin 23) (stay : Option Command) : Command :=
  match (h.chan c).input.value with
  | .command v => v
  | .position p => .target p (h.refRateOf c)
  | .stay => stay.getD (h.stayNow c)

/-- The effective command and source a forming gives (R12). -/
def formedPair (h : Hub) (c : Fin 23) (stay : Option Command) : Pair :=
  match (h.chan c).claims with
  | x :: _ => ⟨x.value, .port x.port x.level⟩
  | [] => ⟨h.inputCommand c stay, h.sourceOf c⟩

/-- The port of a channel's winner (R41). -/
def winnerPort (h : Hub) (c : Fin 23) : Option Port := (h.chan c).claims.head?.map (·.port)

/-- WON and LOST at a change of winner (R41, R42): each only to an ATTACHED port. The event that changes a tenancy has
changed it before its formings. -/
def winnerNotices (c : Fin 23) (h : Hub) : Hub :=
  match (h.chan c).winner, h.winnerPort c with
  | none, none => h
  | none, some n => h.giveFlagOn n .won c
  | some m, none => h.giveFlagOn m .lost c
  | some m, some n => if m = n then h else (h.giveFlagOn m .lost c).giveFlagOn n .won c

/-- A pair is handed to the channel's engine with its sort told (R13, R15). -/
def handOverAs (c : Fin 23) (commandChange : Bool) (pair : Pair) (h : Hub) : Hub :=
  let taken := h.modChan c fun x => { x with taken := some pair }
  match outputOf c with
  | .relay r => taken.relayTakes r commandChange h
  | .lamp l => if commandChange then taken.showLamp l else taken
  | .sounder => taken.sounderTakes commandChange
  | .stepper u => taken.stepperTakes u commandChange

/-- A hand-over of `pair` is a command change: the value differs from the taken command's (R13). NONE differs from every
command (R16). -/
def isCommandChange (h : Hub) (c : Fin 23) (pair : Pair) : Bool :=
  (h.chan c).taken.map (·.command) != some pair.command

/-- A hand-over whose sort follows from the taken command (R13). -/
def handOver (c : Fin 23) (pair : Pair) (h : Hub) : Hub := h.handOverAs c (h.isCommandChange c pair) pair

/-- The step after a forming: R13 in RUN, R14 in every other mode. -/
def passOn (c : Fin 23) (pair : Pair) (h : Hub) : Hub :=
  if h.mode = .run then
    if (h.chan c).taken = some pair then h else h.handOver c pair
  else h.modChan c fun x => { x with pendingEff := if x.taken = some pair then none else some pair }

/-- The forming of a channel (R40). -/
def form (c : Fin 23) (cause : FormCause) (h : Hub) : Hub :=
  let stay := h.stayAfter c cause
  let pair := h.formedPair c stay
  passOn c pair
    ((h.winnerNotices c).modChan c fun x => { x with winner := h.winnerPort c, stay := stay, eff := pair })

/-- A pass of local input from the Setpoint unit: written into the channel record, then a forming (R10, R48). -/
def passInput (c : Fin 23) (input : LocalInput) (cause : FormCause) (h : Hub) : Hub :=
  form c cause (h.modChan c fun x => { x with input := input })

/-- The renewal on SND (R13): in RUN only. -/
def renewSound (h : Hub) : Hub := if h.mode = .run then h.sounderRenewed else h

/-- A hand-over of the pass of R15 on a channel: every channel with its effective command, as a command change, from
STARTUP or FAULT_HOLD; the pending-effective command, where present, from HOLDING or HELD. -/
def handWaiting (everyChannel : Bool) (h : Hub) (c : Fin 23) : Hub :=
  if everyChannel then
    h.handOverAs c true (h.chan c).eff |>.modChan c fun x => { x with pendingEff := none }
  else
    match (h.chan c).pendingEff with
    | some pair => h.handOver c pair |>.modChan c fun x => { x with pendingEff := none }
    | none => h

/-- The hand-over that R15 makes to a stepper is a command change; read before the pass (R127). -/
def waitingChange (h : Hub) (everyChannel : Bool) (u : Fin 2) : Bool :=
  everyChannel ||
    match (h.chan (stepperChannel u)).pendingEff with
    | some pair => h.isCommandChange (stepperChannel u) pair
    | none => false

end Hub
end Sys2Proof.Machine
end

