-- ==== Sys2Proof/Machine/HandoverUnit.lean ====
section
/-! DEFINITION. The Handover unit: the grant (R85), resolutions (R86) and the settlement of edits (R87, R88). -/

namespace Sys2Proof.Machine

/-- The kinds of edit the Arbiter reports (R36). -/
inductive EditKind where
  | removed
  | orphaned
  | levelChanged
  | valueChanged
  | placed
  deriving DecidableEq, Repr

namespace Hub

/-- A resolution (R86): the last outcome is written and the record is NONE, the channel leaves the holder's asked set,
and the requester is given HANDOVER_DONE. -/
def resolve (c : Fin 23) (outcome : HandoverOutcome) (requester holder : Port) (h : Hub) : Hub :=
  ((h.modChan c fun x => { x with handover := ⟨none, some ⟨outcome, requester, holder⟩⟩ }).dropAsked holder
    c).giveFlagOn requester .handoverDone c

/-- The reorder of a grant (R85). -/
def reorder (c : Fin 23) (requester holder : Port) (h : Hub) : Hub :=
  h.modChan c fun x => { x with claims := grantReorder requester holder x.claims }

/-- The default outcome of the channel is GRANT, read now (R78). -/
def defaultGrants (h : Hub) (c : Fin 23) : Bool := h.work.handovers[c].grant

/-- The outcome that the default outcome gives (R80, R83, R88). -/
def defaultOutcome (h : Hub) (c : Fin 23) : HandoverOutcome :=
  if h.defaultGrants c then .timedOutGranted else .timedOutDenied

/-- The default outcome with its reorder and its forming, then the report (R80, R83). -/
def resolveByDefault (c : Fin 23) (requester holder : Port) (h : Hub) : Hub :=
  let settled := if h.defaultGrants c then (h.reorder c requester holder).form c .edit else h
  settled.resolve c (h.defaultOutcome c) requester holder

/-- The default outcome inside a lapse: the lapse itself forms the channel afterwards (R88). -/
def settleByDefault (c : Fin 23) (requester holder : Port) (h : Hub) : Hub :=
  let ordered := if h.defaultGrants c then h.reorder c requester holder else h
  ordered.resolve c (h.defaultOutcome c) requester holder

/-- The settlement of a pending handover at an edit of a claim of port `p` (R87, R88). -/
def settleEdit (c : Fin 23) (p : Port) (kind : EditKind) (h : Hub) : Hub :=
  match (h.chan c).handover.pending with
  | none => h
  | some w =>
    if p = w.holder then
      match kind with
      | .removed => h.resolve c .vacated w.requester w.holder
      | .orphaned => h.settleByDefault c w.requester w.holder
      | .levelChanged => h.resolve c .cancelled w.requester w.holder
      | .valueChanged => h
      | .placed => h
    else if p = w.requester then
      match kind with
      | .removed => h.resolve c .cancelled w.requester w.holder
      | .orphaned => h.resolve c .cancelled w.requester w.holder
      | .levelChanged => h.resolve c .cancelled w.requester w.holder
      | .valueChanged => h
      | .placed => h
    else h

/-- An edit of a channel's claim list: the edit, its report, the forming (R29, R36). -/
def editClaims (c : Fin 23) (p : Port) (kind : EditKind) (edit : List Claim → List Claim) (h : Hub) : Hub :=
  form c .edit (settleEdit c p kind (h.modChan c fun x => { x with claims := edit x.claims }))

/-- The claim of a port leaves a channel (R30). -/
def removeClaim (p : Port) (h : Hub) (c : Fin 23) : Hub := h.editClaims c p .removed (withoutPort p)

/-- Every claim of a port leaves the pool, in ascending channel number (R31, R34). -/
def removeClaims (p : Port) (h : Hub) : Hub := (h.channelsOf p).foldl (removeClaim p) h

/-- A lapsing port's claim on one channel: DROP is removed, KEEP becomes ORPHANED in its place (R33). -/
def lapseClaim (p : Port) (h : Hub) (c : Fin 23) : Hub :=
  match claimOf p (h.chan c).claims with
  | none => h
  | some x =>
    match x.policy with
    | .drop => h.removeClaim p c
    | .keep =>
      h.editClaims c p .orphaned fun xs => xs.map fun y => if y.port = p then { y with state := .orphaned } else y

/-- The Arbiter's part of a lapse, in ascending channel number (R33). -/
def lapseClaims (p : Port) (h : Hub) : Hub := (h.channelsOf p).foldl (lapseClaim p) h

/-- Adoption: the claims of a port return to LIVE in their places (R35). -/
def adoptClaims (p : Port) (h : Hub) : Hub :=
  { h with
    channels := h.channels.map fun x =>
      { x with claims := x.claims.map fun y => if y.port = p then { y with state := .live } else y } }

/-- The port's claim on the channel is ORPHANED (R35). -/
def hasOrphan (h : Hub) (p : Port) (c : Fin 23) : Bool :=
  (h.chan c).claims.any fun x => x.port == p && x.state == .orphaned

end Hub
end Sys2Proof.Machine
end

