-- ==== Sys2Proof/Machine/SetpointUnit.lean ====
section
/-! DEFINITION. The Setpoint unit: samples (R151), conditions (R157), setpoint states (R158, R160), the local layer
(R163) and SETPOINT (R164). -/

namespace Sys2Proof.Machine

/-- ACTIVE, BREAKING and LATCHED are the driving states (R155). -/
def SetpointState.drives : SetpointState → Bool
  | .inactive => false
  | .making => false
  | .active => true
  | .breaking => true
  | .latched => true

/-- A setpoint after a reset (R155, R161). -/
def Setpoint.inactive : Setpoint := ⟨.inactive, false, none, false⟩

/-- The condition of a setpoint, judged on a value from the mark it held (R157). -/
def judge (i : SetpointItem) (value : Int) (mark : Bool) : Bool :=
  match i.sense with
  | .above => if i.threshold < value then true else if value ≤ i.threshold - i.hysteresis then false else mark
  | .below => if value < i.threshold then true else if i.threshold + i.hysteresis ≤ value then false else mark

/-- Where a setpoint stands after its break delay (R158). -/
def afterBreak (i : SetpointItem) : SetpointState := if i.latch then .latched else .inactive

/-- The condition mark goes TRUE (R158). -/
def Setpoint.goesTrue (i : SetpointItem) (x : Setpoint) : Setpoint :=
  match x.state with
  | .inactive => if 0 < i.makeDelay then ⟨.making, true, some (Config.tenths i.makeDelay), false⟩ else ⟨.active, true, none, false⟩
  | .breaking => ⟨.active, true, none, false⟩
  | .latched => ⟨.active, true, none, false⟩
  | .making => { x with mark := true }
  | .active => { x with mark := true }

/-- The condition mark goes FALSE (R158). -/
def Setpoint.goesFalse (i : SetpointItem) (x : Setpoint) : Setpoint :=
  match x.state with
  | .making => ⟨.inactive, false, none, false⟩
  | .active =>
    if 0 < i.breakDelay then ⟨.breaking, false, some (Config.tenths i.breakDelay), false⟩ else ⟨afterBreak i, false, none, false⟩
  | .inactive => { x with mark := false }
  | .breaking => { x with mark := false }
  | .latched => { x with mark := false }

/-- An evaluation on a value (R157): a change of the mark is taken by R158. -/
def Setpoint.evaluated (i : SetpointItem) (value : Int) (x : Setpoint) : Setpoint :=
  if judge i value x.mark = x.mark then x
  else if x.mark then x.goesFalse i else x.goesTrue i

/-- The fail state (R160). -/
def failed (i : SetpointItem) : Setpoint := if i.failActive then ⟨.active, true, none, false⟩ else ⟨.inactive, false, none, false⟩

/-- The delay timer expires (R158). -/
def Setpoint.delayEnds (i : SetpointItem) (x : Setpoint) : Setpoint :=
  match x.state with
  | .making => { x with state := .active, timer := none }
  | .breaking => { x with state := afterBreak i, timer := none }
  | .inactive => x
  | .active => x
  | .latched => x

/-- A value within the limit of a slot (R151). -/
def clampValue (x : Int) : Int := max (-Config.valueLimit) (min Config.valueLimit x)

/-- raw × gain / 1000, rounded to the nearest integer, a half away from zero (R151). -/
def scaleRaw (raw : Int) (gain : Nat) : Int :=
  if 0 ≤ raw then (raw * gain + 500) / 1000 else -((-raw * gain + 500) / 1000)

/-- The new value of a slot at a SAMPLE (R151). -/
def sampledValue (i : SlotItem) (k : CalibrationItem) (old raw : Int) : Int :=
  match i.mode with
  | .level => clampValue (scaleRaw raw k.gain + k.offset)
  | .total => clampValue (old + scaleRaw raw k.gain)

/-- The new value of a slot at a ZERO (R153). -/
def zeroedValue (old amount : Int) : Int := if amount = 0 then 0 else clampValue (old - amount)

namespace Hub

/-- The SETPOINTS item of a setpoint. -/
def setpointItem (h : Hub) (n : Fin 16) : SetpointItem := h.work.setpoints[n]

/-- The SLOTS item of a slot. -/
def slotItem (h : Hub) (k : Fin 8) : SlotItem := h.work.slots[k]

/-- The setpoint stands in a driving state. -/
def driving (h : Hub) (n : Fin 16) : Bool := (h.setpoint n).state.drives

/-- The enabled setpoints on a slot, in ascending number (R157). -/
def setpointsOn (h : Hub) (k : Fin 8) : List (Fin 16) :=
  (List.finRange 16).filter fun n => (h.setpointItem n).enabled && (h.setpointItem n).slot == k

/-! ## The local layer -/

/-- The setpoints that drive a channel, in ascending number (R163). -/
def driversOf (h : Hub) (c : Fin 23) : List (Fin 16) :=
  (List.finRange 16).filter fun n => h.driving n && targetChannel (h.setpointItem n).target == c

/-- The order of lamp forms, and within a form of brightness (R163). -/
def lampStrength : Command → Nat
  | .fast b => 3000 + b
  | .slow b => 2000 + b
  | .steady b => 1000 + b
  | .off => 0
  | .on => 0
  | .tone _ _ _ => 0
  | .target _ _ => 0

/-- The stronger of two lamp commands (R163). -/
def strongerLamp (x y : Command) : Command := if lampStrength x < lampStrength y then y else x

/-- The combination of the driving setpoints' commands by kind (R163). -/
def combine (k : Kind) (commands : List Command) : Command :=
  match k with
  | .relay => if commands.any (fun x => x == .on) then .on else .off
  | .lamp => commands.foldl strongerLamp .off
  | .sounder => commands.head?.getD .off
  | .stepper => .off

/-- The local layer of a channel (R163, R10): a stepper has no setpoints. -/
def localLayer (h : Hub) (c : Fin 23) : LocalInput :=
  if (h.driversOf c).isEmpty || kindOf c == .stepper then ⟨h.work.fallbacks[c], false⟩
  else ⟨.command (combine (kindOf c) ((h.driversOf c).map fun n => (h.setpointItem n).command)), true⟩

/-- The cause of a pass: whether it carries a fallback written to STAY from POSITION (R49, case 2). -/
def passCause (old new : LocalInput) : FormCause :=
  match old.value, new.value with
  | .position _, .stay => .pass true
  | _, _ => .pass false

/-- The local layer of a channel is formed again, and passed where it differs from that last passed (R163). -/
def formLayer (h : Hub) (c : Fin 23) : Hub :=
  let new := h.localLayer c
  if new = (h.chan c).input then h else h.passInput c new (passCause (h.chan c).input new)

/-- The setpoint passed between a driving and a non-driving state (R164). -/
def drivingChanged (before after : Hub) (n : Fin 16) : Bool := before.driving n != after.driving n

/-- The channels whose local layer an event forms again: those of setpoints that passed into or out of a driving state,
and `also`; in ascending channel number (R163). -/
def channelsTouched (before after : Hub) (also : List (Fin 21)) : List (Fin 23) :=
  ((List.finRange 21).filter fun t =>
    also.contains t ||
      (List.finRange 16).any fun n => (after.setpointItem n).target == t && drivingChanged before after n).map
    targetChannel

/-- The end of an event that changed setpoints, `before` being the part before it: the passes of R163, then SETPOINT by
R164. -/
def settleSetpoints (h before : Hub) (also : List (Fin 21)) : Hub :=
  let passed := (channelsTouched before h also).foldl formLayer h
  if (List.finRange 16).any (drivingChanged before h) then passed.giveAll .setpoint else passed

/-! ## Events -/

/-- A setpoint is evaluated against its slot (R157). -/
def evaluate (h : Hub) (n : Fin 16) : Hub :=
  h.setSetpoint n ((h.setpoint n).evaluated (h.setpointItem n) (h.slot (h.setpointItem n).slot).value)

/-- The setpoints on a slot are evaluated, and what follows (R157). -/
def evaluateSlot (k : Fin 8) (h : Hub) : Hub := ((h.setpointsOn k).foldl evaluate h).settleSetpoints h []

/-- An accepted SAMPLE; it cuts short a run of the freshness timer in progress (R151, R152, log 26). -/
def takeSample (k : Fin 8) (raw : Int) (h : Hub) : Hub :=
  let i := h.slotItem k
  let value := sampledValue i h.work.calibration[k] (h.slot k).value raw
  let timer := if i.freshness = 0 then none else some (Config.tenths i.freshness)
  evaluateSlot k (h.setSlot k ⟨.fresh, value, timer, (h.slot k).timer.isSome⟩)

/-- An accepted ZERO (R153). -/
def takeZero (k : Fin 8) (amount : Int) (h : Hub) : Hub :=
  let x := h.slot k
  let zeroed := h.setSlot k { x with value := zeroedValue x.value amount }
  if x.state = .fresh then zeroed.evaluateSlot k else zeroed

/-- A setpoint enters its fail state (R160). -/
def failSetpoint (h : Hub) (n : Fin 16) : Hub := h.setSetpoint n (failed (h.setpointItem n))

/-- The freshness timer of a FRESH slot runs out (R152, R160). The end of a run which a sample has cut short at this moment
does not happen (R152, log 26). A timer left running at a limit written to 0 runs out too (log 33). -/
def freshnessExpires (k : Fin 8) (h : Hub) : Hub :=
  let x := h.slot k
  match x.timer with
  | some _ =>
    if x.cut then h.setSlot k { x with cut := false } else
    let stale := (h.setSlot k { x with state := .stale, timer := none }).giveFlag (h.slotItem k).source .slotStale
    ((h.setpointsOn k).foldl failSetpoint stale).settleSetpoints h []
  | none => h

/-- A delay timer expires (R158). The expiry of a run which a CONFIG_WRITE has discarded at this moment does not happen, and
the run that the write started goes on: R162 has no such pair, and the choice is the model's (log 26). -/
def delayExpires (n : Fin 16) (h : Hub) : Hub :=
  match (h.setpoint n).timer with
  | some _ =>
    if (h.setpoint n).cut then h.setSetpoint n { h.setpoint n with cut := false }
    else (h.setSetpoint n ((h.setpoint n).delayEnds (h.setpointItem n))).settleSetpoints h []
  | none => h

/-- A LATCHED setpoint is acknowledged (R159). -/
def acknowledge (n : Fin 16) (h : Hub) : Hub := (h.setSetpoint n .inactive).settleSetpoints h []

/-- A slot is emptied and its enabled setpoints are reset (R154). -/
def emptySlot (k : Fin 8) (h : Hub) : Hub :=
  let emptied := h.setSlot k ⟨.empty, 0, none, false⟩
  ((h.setpointsOn k).foldl (fun x n => x.setSetpoint n .inactive) emptied).settleSetpoints h []

/-- The state an enabled setpoint takes from its slot at a configuration change (R161). -/
def enterFromSlot (n : Fin 16) (h : Hub) : Setpoint :=
  let i := h.setpointItem n
  if i.enabled then
    match (h.slot i.slot).state with
    | .fresh => Setpoint.inactive.evaluated i (h.slot i.slot).value
    | .stale => failed i
    | .empty => .inactive
  else .inactive

/-- A configuration change of a setpoint, its item written already; `before` is the part before the write (R161). A delay
that it starts where one ran cuts the old run short (log 26). -/
def setpointChanged (n : Fin 16) (h before : Hub) : Hub :=
  let entered := h.enterFromSlot n
  let cut := (before.setpoint n).timer.isSome && entered.timer.isSome
  (h.setSetpoint n { entered with cut := cut }).settleSetpoints before
    [(before.setpointItem n).target, (h.setpointItem n).target]

end Hub
end Sys2Proof.Machine
end

