-- ==== Sys2Proof/Machine/ConfigStore.lean ====
section
/-! DEFINITION. The configuration store: reading a field (R176), writing one with every refusal of its rule and its
effects on the running blocks (R177), and the store write (R178). -/

namespace Sys2Proof.Machine

/-- Yes and on are 1, no and off are 0 (R193). -/
def ofBool (b : Bool) : BitVec 32 := if b then 1 else 0

/-- A natural number as a value field. -/
def ofNat32 (n : Nat) : BitVec 32 := BitVec.ofNat 32 n

/-- A yes or no, on or off, of a value field. -/
def boolOf (v : BitVec 32) : Option Bool := if v = 0 then some false else if v = 1 then some true else none

/-- A number of a value field, from `low` to `high`. -/
def natIn (low high : Nat) (v : BitVec 32) : Option Nat := if low ≤ v.toNat ∧ v.toNat ≤ high then some v.toNat else none

/-- A signed number of a value field, within `limit` of 0. -/
def intWithin (limit : Int) (v : BitVec 32) : Option Int :=
  if -limit ≤ v.toInt ∧ v.toInt ≤ limit then some v.toInt else none

/-- A number of a value field that names one of `n` things. -/
def finOf (n : Nat) (v : BitVec 32) : Option (Fin n) := if h : v.toNat < n then some ⟨v.toNat, h⟩ else none

/-- A command value or fallback in the low three bytes, the high byte zero (R193). -/
def valueOf (v : BitVec 32) : Option Fallback := if v.toNat < 16777216 then parseValue (v.setWidth 24) else none

/-! ## Reading (R176) -/

/-- A field of a PORTS item. -/
def PortItem.field (i : PortItem) (field : Nat) : Option (BitVec 32) :=
  match field with
  | 0 => some (ofBool i.configGrant)
  | 1 => some (ofBool i.protectedGrant)
  | 2 => some (ofNat32 i.quota)
  | 3 => some (ofNat32 i.lease)
  | _ => none

/-- A field of a CHANNELS item: fields 0 to 2 for every kind, the others by kind (R193). -/
def Blocks.channelField (w : Blocks) (c : Fin 23) (field : Nat) : Option (BitVec 32) :=
  match field with
  | 0 => some (w.fallbacks[c].bits.setWidth 32)
  | 1 => some (ofNat32 w.handovers[c].timeout)
  | 2 => some (ofBool w.handovers[c].grant)
  | n =>
    match outputOf c, n with
    | .relay r, 3 => some (ofNat32 w.relays[r].minOn)
    | .relay r, 4 => some (ofNat32 w.relays[r].minOff)
    | .sounder, 3 => some (ofBool w.soundMotion)
    | .stepper u, 3 => some (ofNat32 w.steppers[u].travel)
    | .stepper u, 4 => some (ofNat32 w.steppers[u].overtravel)
    | .stepper u, 5 => some (ofNat32 w.steppers[u].refRate)
    | .stepper u, 6 => some (ofBool w.steppers[u].autoRef)
    | _, _ => none

/-- A field of a GROUPS item. -/
def GroupItem.field (i : GroupItem) (field : Nat) : Option (BitVec 32) :=
  match field with
  | 0 => some (i.members.setWidth 32)
  | 1 => some (ofNat32 i.deadTime)
  | 2 => some (ofBool i.preempt)
  | _ => none

/-- A field of a SLOTS item. -/
def SlotItem.field (i : SlotItem) (field : Nat) : Option (BitVec 32) :=
  match field with
  | 0 => some (ofBool (i.mode == .total))
  | 1 => some (ofNat32 i.source.idx.val)
  | 2 => some (ofNat32 i.freshness)
  | _ => none

/-- A field of a SETPOINTS item. -/
def SetpointItem.field (i : SetpointItem) (field : Nat) : Option (BitVec 32) :=
  match field with
  | 0 => some (ofBool i.enabled)
  | 1 => some (ofNat32 i.slot.val)
  | 2 => some (ofBool (i.sense == .below))
  | 3 => some (BitVec.ofInt 32 i.threshold)
  | 4 => some (BitVec.ofInt 32 i.hysteresis)
  | 5 => some (ofNat32 i.makeDelay)
  | 6 => some (ofNat32 i.breakDelay)
  | 7 => some (ofNat32 i.target.val)
  | 8 => some (i.command.bits.setWidth 32)
  | 9 => some (ofBool i.latch)
  | 10 => some (ofBool i.failActive)
  | _ => none

/-- A field of a CALIBRATION item. -/
def CalibrationItem.field (i : CalibrationItem) (field : Nat) : Option (BitVec 32) :=
  match field with
  | 0 => some (ofNat32 i.gain)
  | 1 => some (BitVec.ofInt 32 i.offset)
  | _ => none

/-- One field of a block, or nothing where the item or the field does not exist (R176). -/
def Blocks.read (w : Blocks) (b : Block) (item field : Byte) : Option (BitVec 32) :=
  match b with
  | .ports => (indexOf 3 item).bind fun n => w.ports[n].field field.toNat
  | .channels => (indexOf 23 item).bind fun c => w.channelField c field.toNat
  | .groups => (indexOf 4 item).bind fun g => w.groups[g].field field.toNat
  | .slots => (indexOf 8 item).bind fun k => w.slots[k].field field.toNat
  | .setpoints => (indexOf 16 item).bind fun n => w.setpoints[n].field field.toNat
  | .calibration => (indexOf 8 item).bind fun k => w.calibration[k].field field.toNat

namespace Hub

/-! ## Writing (R177): `none` is a refusal with BAD_CONFIG. -/

/-- The working copies changed by `f`. -/
def modWork (f : Blocks → Blocks) (h : Hub) : Hub := { h with work := f h.work }

/-- The PORTS item of `p` changed by `f`. -/
def modPortItem (p : Port) (f : PortItem → PortItem) (h : Hub) : Hub :=
  h.modWork fun w => { w with ports := w.ports.set p.idx (f w.ports[p.idx]) }

/-- The fallback of a channel set. -/
def setFallback (c : Fin 23) (x : Fallback) (h : Hub) : Hub :=
  h.modWork fun w => { w with fallbacks := w.fallbacks.set c x }

/-- The handover fields of a channel changed by `f`. -/
def modHandoverItem (c : Fin 23) (f : HandoverItem → HandoverItem) (h : Hub) : Hub :=
  h.modWork fun w => { w with handovers := w.handovers.set c (f w.handovers[c]) }

/-- The relay fields of a relay changed by `f`. -/
def modRelayItem (r : Fin 12) (f : RelayItem → RelayItem) (h : Hub) : Hub :=
  h.modWork fun w => { w with relays := w.relays.set r (f w.relays[r]) }

/-- The stepper fields of a stepper changed by `f`. -/
def modStepperItem (u : Fin 2) (f : StepperItem → StepperItem) (h : Hub) : Hub :=
  h.modWork fun w => { w with steppers := w.steppers.set u (f w.steppers[u]) }

/-- The GROUPS item of `g` changed by `f`. -/
def modGroupItem (g : Fin 4) (f : GroupItem → GroupItem) (h : Hub) : Hub :=
  h.modWork fun w => { w with groups := w.groups.set g (f w.groups[g]) }

/-- The SLOTS item of `k` changed by `f`. -/
def modSlotItem (k : Fin 8) (f : SlotItem → SlotItem) (h : Hub) : Hub :=
  h.modWork fun w => { w with slots := w.slots.set k (f w.slots[k]) }

/-- The SETPOINTS item of `n` changed by `f`. -/
def modSetpointItem (n : Fin 16) (f : SetpointItem → SetpointItem) (h : Hub) : Hub :=
  h.modWork fun w => { w with setpoints := w.setpoints.set n (f w.setpoints[n]) }

/-- The CALIBRATION item of `k` changed by `f`. -/
def modCalibrationItem (k : Fin 8) (f : CalibrationItem → CalibrationItem) (h : Hub) : Hub :=
  h.modWork fun w => { w with calibration := w.calibration.set k (f w.calibration[k]) }

/-- Another port holds the configuration grant in the working copy (R177). -/
def grantElsewhere (h : Hub) (p : Port) : Bool := Port.all.any fun q => q != p && (h.portItem q).configGrant

/-- A write to a PORTS item (R175, R22, R60, R177). -/
def writePort (p : Port) (field : Nat) (v : BitVec 32) (h : Hub) : Option Hub :=
  match field with
  | 0 =>
    (boolOf v).bind fun x =>
      if !x && !h.grantElsewhere p then none else some (h.modPortItem p fun i => { i with configGrant := x })
  | 1 => (boolOf v).map fun x => h.modPortItem p fun i => { i with protectedGrant := x }
  | 2 =>
    (natIn 0 48 v).bind fun x =>
      if x < h.holding p then none else some (h.modPortItem p fun i => { i with quota := x })
  | 3 => (natIn 1 255 v).map fun x => h.modPortItem p fun i => { i with lease := x }
  | _ => none

/-- A claim of a channel asks for a position above `limit` (R177). -/
def targetAbove (limit : Nat) (x : Command) : Bool :=
  match x with
  | .target p _ => decide (limit < p)
  | .off => false
  | .on => false
  | .steady _ => false
  | .slow _ => false
  | .fast _ => false
  | .tone _ _ _ => false

/-- A fallback POSITION above `limit` (R9). -/
def fallbackAbove (limit : Nat) (x : Fallback) : Bool :=
  match x with
  | .position p => decide (limit < p)
  | .stay => false
  | .command _ => false

/-- A travel limit below the position of a REFERENCED stepper, a claim target or a POSITION fallback (R177, R9). -/
def travelTooLow (h : Hub) (u : Fin 2) (limit : Nat) : Bool :=
  ((h.stepper u).ref == .referenced && decide (limit < (h.stepper u).pos)) ||
    ((h.chan (stepperChannel u)).claims.any fun x => targetAbove limit x.value) ||
    fallbackAbove limit h.work.fallbacks[stepperChannel u]

/-- A write to a stepper's own fields (R9, R129, R177). -/
def writeStepper (u : Fin 2) (field : Nat) (v : BitVec 32) (h : Hub) : Option Hub :=
  match field with
  | 3 =>
    (natIn 1 4095 v).bind fun x =>
      if h.travelTooLow u x then none else some (h.modStepperItem u fun i => { i with travel := x })
  | 4 => (natIn 0 255 v).map fun x => h.modStepperItem u fun i => { i with overtravel := x }
  | 5 =>
    (natIn 0 8 v).map fun x => form (stepperChannel u) .rateWrite (h.modStepperItem u fun i => { i with refRate := x })
  | 6 => (boolOf v).map fun x => h.modStepperItem u fun i => { i with autoRef := x }
  | _ => none

/-- A write to a relay's own fields (R9, R111). -/
def writeRelay (r : Fin 12) (field : Nat) (v : BitVec 32) (h : Hub) : Option Hub :=
  match field with
  | 3 => (natIn 0 255 v).map fun x => h.modRelayItem r fun i => { i with minOn := x }
  | 4 => (natIn 0 255 v).map fun x => h.modRelayItem r fun i => { i with minOff := x }
  | _ => none

/-- A write to the sounder's own field; the mute mark is set afresh (R144). -/
def writeSounder (field : Nat) (v : BitVec 32) (h : Hub) : Option Hub :=
  match field with
  | 3 => (boolOf v).map fun x => refreshMute (h.modWork fun w => { w with soundMotion := x })
  | _ => none

/-- A write to a CHANNELS item (R9, R10, R78). -/
def writeChannel (c : Fin 23) (field : Nat) (v : BitVec 32) (h : Hub) : Option Hub :=
  match field with
  | 0 =>
    (valueOf v).bind fun x => if h.work.fallbackFits c x then some (formLayer (h.setFallback c x) c) else none
  | 1 => (natIn 5 127 v).map fun x => h.modHandoverItem c fun i => { i with timeout := x }
  | 2 => (boolOf v).map fun x => h.modHandoverItem c fun i => { i with grant := x }
  | n =>
    match outputOf c with
    | .relay r => h.writeRelay r n v
    | .lamp _ => none
    | .sounder => h.writeSounder n v
    | .stepper u => h.writeStepper u n v

/-- Two member lists name a relay in common. -/
def sharesMember (h : Hub) (g : Fin 4) (members : BitVec 12) : Bool :=
  (List.finRange 4).any fun k => k != g && (h.work.groups[k].members &&& members) != 0

/-- A member list a write may give (R97): 2 to 4 relays or none, and none of another group. -/
def membersOf (h : Hub) (g : Fin 4) (v : BitVec 32) : Option (BitVec 12) :=
  if v.toNat < 4096 then
    let members : BitVec 12 := v.setWidth 12
    if memberListFits members && !h.sharesMember g members then some members else none
  else none

/-- A member list is written: the dead timer of a list not empty starts afresh (R111); an emptied group has none
(log 21). -/
def writeMembers (g : Fin 4) (members : BitVec 12) (h : Hub) : Hub :=
  let written := h.modGroupItem g fun i => { i with members := members }
  if members = 0 then written.setDead g .expired else written.startDeadTimer g

/-- A write to a GROUPS item (R97). -/
def writeGroup (g : Fin 4) (field : Nat) (v : BitVec 32) (h : Hub) : Option Hub :=
  match field with
  | 0 => (h.membersOf g v).map fun x => h.writeMembers g x
  | 1 => (natIn 0 255 v).map fun x => h.modGroupItem g fun i => { i with deadTime := x }
  | 2 => (boolOf v).map fun x => h.modGroupItem g fun i => { i with preempt := x }
  | _ => none

/-- A write to a SLOTS item (R154). A running freshness timer keeps its length at a freshness limit written to 0 too, though
R152 gives a slot of limit 0 no running timer (log 33, the model's reading). -/
def writeSlot (k : Fin 8) (field : Nat) (v : BitVec 32) (h : Hub) : Option Hub :=
  match field with
  | 0 => (boolOf v).map fun x => emptySlot k (h.modSlotItem k fun i => { i with mode := if x then .total else .level })
  | 1 => (finOf 3 v).map fun x => emptySlot k (h.modSlotItem k fun i => { i with source := Port.ofIdx x })
  | 2 => (natIn 0 255 v).map fun x => h.modSlotItem k fun i => { i with freshness := x }
  | _ => none

/-- A target channel is written: a target of another kind sets the command to OFF (R156). -/
def retarget (target : Fin 21) (i : SetpointItem) : SetpointItem :=
  { i with
    target := target
    command := if kindOf (targetChannel target) = kindOf (targetChannel i.target) then i.command else .off }

/-- A command a setpoint may give its target (R156). -/
def setpointCommandOf (i : SetpointItem) (v : BitVec 32) : Option Command :=
  match valueOf v with
  | some (.command x) => if commandFits (kindOf (targetChannel i.target)) 0 x then some x else none
  | some .stay => none
  | some (.position _) => none
  | none => none

/-- The SETPOINTS item a write gives (R155, R156). -/
def writtenSetpoint (i : SetpointItem) (field : Nat) (v : BitVec 32) : Option SetpointItem :=
  match field with
  | 0 => (boolOf v).map fun x => { i with enabled := x }
  | 1 => (finOf 8 v).map fun x => { i with slot := x }
  | 2 => (boolOf v).map fun x => { i with sense := if x then .below else .above }
  | 3 => (intWithin Config.valueLimit v).map fun x => { i with threshold := x }
  | 4 => (intWithin Config.valueLimit v).bind fun x => if x < 0 then none else some { i with hysteresis := x }
  | 5 => (natIn 0 255 v).map fun x => { i with makeDelay := x }
  | 6 => (natIn 0 255 v).map fun x => { i with breakDelay := x }
  | 7 => (finOf 21 v).map fun x => retarget x i
  | 8 => (setpointCommandOf i v).map fun x => { i with command := x }
  | 9 => (boolOf v).map fun x => { i with latch := x }
  | 10 => (boolOf v).map fun x => { i with failActive := x }
  | _ => none

/-- A write to a SETPOINTS item: a configuration change, taken within the write (R161). -/
def writeSetpoint (n : Fin 16) (field : Nat) (v : BitVec 32) (h : Hub) : Option Hub :=
  (writtenSetpoint (h.setpointItem n) field v).map fun x => (h.modSetpointItem n fun _ => x).setpointChanged n h

/-- A write to a CALIBRATION item (R149, R154). -/
def writeCalibration (k : Fin 8) (field : Nat) (v : BitVec 32) (h : Hub) : Option Hub :=
  match field with
  | 0 => (natIn 1 65535 v).map fun x => h.modCalibrationItem k fun i => { i with gain := x }
  | 1 => (intWithin 1000000 v).map fun x => h.modCalibrationItem k fun i => { i with offset := x }
  | _ => none

/-- The write of one field with its effects; nothing where its rule refuses it with BAD_CONFIG (R177, check 6). -/
def write (b : Block) (item field : Byte) (v : BitVec 32) (h : Hub) : Option Hub :=
  match b with
  | .ports => (indexOf 3 item).bind fun n => h.writePort (Port.ofIdx n) field.toNat v
  | .channels => (indexOf 23 item).bind fun c => h.writeChannel c field.toNat v
  | .groups => (indexOf 4 item).bind fun g => h.writeGroup g field.toNat v
  | .slots => (indexOf 8 item).bind fun k => h.writeSlot k field.toNat v
  | .setpoints => (indexOf 16 item).bind fun n => h.writeSetpoint n field.toNat v
  | .calibration => (indexOf 8 item).bind fun k => h.writeCalibration k field.toNat v

/-- A GROUPS member list that names two relays physically ON (R177, check 7). -/
def closesTwo (h : Hub) (b : Block) (field : Byte) (v : BitVec 32) : Bool :=
  b == .groups && field == 0 &&
    decide (2 ≤ ((List.finRange 12).filter fun r => v.getLsbD r.val && (h.relay r).output).length)

/-- The store operation is WRITING the block (R177, check 5). -/
def writingBlock (h : Hub) (b : Block) : Bool :=
  match h.storeOp with
  | some x => x.1 == b
  | none => false

/-! ## The store write (R178) -/

/-- The checksum of a block's stored copy made good or bad. -/
def markStored (b : Block) (good : Bool) (h : Hub) : Hub := { h with storedGood := h.storedGood.set b.idx good }

/-- A block mark set. -/
def setMark (b : Block) (m : BlockMark) (h : Hub) : Hub := { h with marks := h.marks.set b.idx m }

/-- A store write is abandoned by a hub reset: the stored copy is left with a bad checksum (R178) and the contents it had
(log 29). -/
def abandonWrite (h : Hub) : Hub :=
  match h.storeOp with
  | some x => h.markStored x.1 false
  | none => h

/-- The write succeeded (R178). -/
def writeSucceeds (b : Block) (h : Hub) : Hub :=
  setMark b .good
    (markStored b true
      { h with
        stored := Blocks.copyBlock b h.work h.stored
        faults := h.faults &&& ~~~(BitVec.twoPow 8 b.code)
        lastStore := some ⟨true, b⟩ })

/-- The write failed: the stored copy is left with a bad checksum (R178) and the contents it had (log 29). -/
def writeFails (b : Block) (h : Hub) : Hub :=
  setMark b .bad (markStored b false { h with lastStore := some ⟨false, b⟩ })

/-- The completion of the write in flight; with code 7 in the fault set every write fails (R178). -/
def writeCompletes (verified : Bool) (h : Hub) : Hub :=
  match h.storeOp with
  | some x =>
    let ended := if verified && !h.faults.getLsbD 7 then h.writeSucceeds x.1 else h.writeFails x.1
    { ended with storeOp := none }.giveFlag x.2 .storeDone
  | none => h

end Hub
end Sys2Proof.Machine
end

