-- ==== Sys2Proof/Machine/ModeController.lean ====
section
/-! DEFINITION. The Mode controller: the entries into RUN, HOLDING and HELD (R168), hub resets (R169) and the end of the
start-up load (R170). -/

namespace Sys2Proof.Machine.Hub

/-- The thaws of an entry into RUN, `changed` telling which steppers were handed a command change (R107, R145, R127). -/
def thaw (changed : Fin 2 → Bool) (h : Hub) : Hub :=
  (h.thawRelays.thawSounder.thawUnit 0 (changed 0)).thawUnit 1 (changed 1)

/-- The hub reset or fault that ended lies behind: the mode is STARTUP or FAULT_HOLD. -/
def starting (h : Hub) : Bool := h.mode == .startup || h.mode == .faultHold

/-- An entry into RUN (R168): the hand-overs of R15, the thaws, and from STARTUP or FAULT_HOLD the auto-reference
runs. -/
def enterRun (h : Hub) : Hub :=
  let handed := (List.finRange 23).foldl (handWaiting h.starting) { h with mode := .run }
  let thawed := handed.thaw (h.waitingChange h.starting)
  if h.starting then (thawed.autoReference 0).autoReference 1 else thawed

/-- Both Stepper units are at rest (R114, R125). -/
def atRest (h : Hub) : Bool := (h.stepper 0).engine == .idle && (h.stepper 1).engine == .idle

/-- The passage from HOLDING to HELD, when both units are at rest (R168). -/
def checkHeld (h : Hub) : Hub :=
  if h.mode == .holding && h.atRest then giveAll .holdEffective { h with mode := .held } else h

/-- The entry into HOLDING (R168). -/
def enterHolding (h : Hub) : Hub :=
  ((({ h with mode := .holding }.freezeRelays.freezeSounder).drainUnit 0).drainUnit 1).checkHeld

/-! ## Hub resets -/

/-- A channel record after a hub reset, the steppers having taken it (R16, R39). -/
def channelAfterReset (h : Hub) (c : Fin 23) : Channel :=
  let command := match factoryFallback c with
    | .command v => v
    | .stay => h.stayNow c
    | .position p => .target p (h.refRateOf c)
  { claims := [], input := ⟨factoryFallback c, false⟩, eff := ⟨command, .fallback⟩
    pendingEff := some ⟨command, .fallback⟩, taken := none, winner := none
    stay := if factoryFallback c == .stay then some command else none, handover := ⟨none, none⟩ }

/-- The I2C address the pins give (R182). -/
def addressOfPins (h : Hub) : BitVec 7 := BitVec.ofNat 7 (0x48 + 2 * h.adr1.toNat + h.adr0.toNat)

/-- The Mode controller's record after a hub reset (R167); the start-up load begins. -/
def resetController (cause : ResetCause) (h : Hub) : Hub :=
  { h with
    mode := .startup, cause := cause, faults := 0, marks := Vector.replicate 6 .unread
    storeOp := none, lastStore := none, loadElapsed := 0 }

/-- Every port after a hub reset; a PRSTn_N held low stays low (R71, R76). -/
def resetPorts (h : Hub) : Hub := { h with ports := h.ports.map PortUnit.afterReset }

/-- Every channel record after a hub reset (R16, R38, R39, R77). -/
def resetChannels (h : Hub) : Hub := { h with channels := Vector.ofFn h.channelAfterReset }

/-- The Setpoint unit after a hub reset (R149, R155). -/
def resetSetpoints (h : Hub) : Hub :=
  { h with slots := Vector.replicate 8 ⟨.empty, 0, none, false⟩, setpoints := Vector.replicate 16 .inactive }

/-- The address pins are read, at the end of a hub reset (R182); a RESET_N held low keeps the reset from ending (R169). -/
def readAddress (h : Hub) : Hub := if h.resetNLow then h else { h with i2cAddr := h.addressOfPins }

/-- A hub reset (R169), but for the address pins, which its end reads. The working copies, the stored copies and the
first-fault record are kept. -/
def hubReset (cause : ResetCause) (h : Hub) : Hub :=
  let controlled := resetController cause h.abandonWrite
  let stopped := (controlled.resetUnit 0 (cause == .software)).resetUnit 1 (cause == .software)
  stopped.resetPorts.resetChannels.resetRelays.resetLamps.resetSounder.resetSetpoints

/-! ## The start-up load -/

/-- A block passes the load: the store answers, its checksum agrees and every field lies within its range (R170). -/
def blockPasses (h : Hub) (storeAnswers : Bool) (b : Block) : Bool :=
  storeAnswers && h.storedGood[b.idx] && h.stored.inRange b

/-- One block of the load: its working copy and its mark (R170). -/
def loadBlock (storeAnswers : Bool) (h : Hub) (b : Block) : Hub :=
  if h.blockPasses storeAnswers b then
    setMark b .good { h with work := Blocks.copyBlock b h.stored h.work }
  else
    setMark b .bad { h with work := Blocks.copyBlock b factoryBlocks h.work }

/-- The codes the load finds: those of the blocks that fail, or 7 alone where the store does not answer (R170). -/
def faultsFound (h : Hub) (storeAnswers : Bool) : List Nat :=
  if storeAnswers then (Block.all.filter fun b => !h.blockPasses true b).map (·.code) else [7]

/-- A fault code joins the current fault set; a first-fault record of 0 takes it (R170). -/
def recordFault (h : Hub) (code : Nat) : Hub :=
  { h with faults := h.faults ||| BitVec.twoPow 8 code, firstFault := if h.firstFault = 0 then code else h.firstFault }

/-- The results of the load: working copies, marks, fault set and first-fault record (R170, step 1). -/
def loadResults (storeAnswers : Bool) (h : Hub) : Hub :=
  refreshMute ((h.faultsFound storeAnswers).foldl recordFault (Block.all.foldl (loadBlock storeAnswers) h))

/-- The pass of a channel's loaded fallback at the end of the load (R16, R170, step 3). -/
def passLoaded (h : Hub) (c : Fin 23) : Hub := h.passInput c (h.localLayer c) .load

/-- The current fault set holds a code other than 6 (R170, step 5). -/
def hardFault (h : Hub) : Bool := h.faults &&& ~~~(BitVec.twoPow 8 6) != 0

/-- The end of the start-up load (R170). -/
def endLoad (storeAnswers : Bool) (h : Hub) : Hub :=
  let loaded := (h.loadResults storeAnswers).readRelayRuns
  let compared := (loaded.checkReference 0).checkReference 1
  let passed := (List.finRange 23).foldl passLoaded compared
  let lit := showLamps { passed with flash := some 0 }
  if lit.hardFault then { lit with mode := .faultHold } else lit.enterRun

end Sys2Proof.Machine.Hub
end

