-- ==== Sys2Proof/Machine/Clock.lean ====
section
/-! DEFINITION. The passing of one unit of time, 1/12 ms: every running timer counts down, and the events whose timers
have run out are due, in a fixed order (logs 2 and 3). -/

namespace Sys2Proof.Machine

/-- A timer, or STOPPED, one unit later. -/
def tickTimer (t : Option Nat) : Option Nat := t.map (· - 1)

/-- A tenancy one unit later: the lease timer counts down, and no restart lies at the new moment (R59, log 26). -/
def tickTenancy (t : Tenancy) : Tenancy :=
  match t with
  | .attached run => .attached { run with left := run.left - 1, cut := false }
  | .detached => .detached
  | .lapsed => .lapsed

/-- A min-time mark one unit later (R94); a run whose length is not yet read is counted by the load (R108). -/
def tickMark (m : MinMark) : MinMark :=
  match m with
  | .minOn t => .minOn (t - 1)
  | .minOff t => .minOff (t - 1)
  | .expired => .expired
  | .fromReset => .fromReset

/-- A dead timer one unit later (R98); no restart lies at the new moment (log 26). -/
def tickDead (d : DeadTimer) : DeadTimer :=
  match d with
  | .running t _ => .running (t - 1) false
  | .expired => .expired
  | .fromReset => .fromReset

/-- The chime engine one unit later (R140). -/
def tickChime (e : ChimeEngine) : ChimeEngine :=
  match e with
  | .playing t => .playing (t - 1)
  | .gap t => .gap (t - 1)
  | .ready => .ready

/-- The sounder one unit later: its timers count down, and no restart lies at the new moment (R136, R140, log 26). -/
def tickSounder (d : Sounder) : Sounder :=
  { d with decay := tickTimer d.decay, engine := tickChime d.engine, decayCut := false, chimeCut := false }

/-- A stepper engine one unit later (R112, R117). -/
def tickEngine (e : StepEngine) : StepEngine :=
  match e with
  | .moving d t => .moving d (t - 1)
  | .referencing t => .referencing (t - 1)
  | .reversing t => .reversing (t - 1)
  | .idle => .idle
  | .paused => .paused

/-- A pending handover one unit later (R77). -/
def tickHandover (w : PendingHandover) : PendingHandover := { w with left := w.left - 1 }

/-- The next count of the flash clock is a boundary of a lit half (R132). -/
def atBoundary (n : Nat) : Bool := (n + 1) % Config.flashBoundary == 0

/-- The flash clock one unit later; the event of a boundary makes the count that reaches it (R132). -/
def tickFlash (n : Nat) : Nat := if atBoundary n then n else n + 1

namespace Hub

/-- Every running timer counts one unit down. -/
def countDown (h : Hub) : Hub :=
  { h with
    ports := h.ports.map fun t => { t with tenancy := tickTenancy t.tenancy }
    channels := h.channels.map fun c =>
      { c with handover := { c.handover with pending := c.handover.pending.map tickHandover } }
    relays := h.relays.map fun r => { r with mark := tickMark r.mark }
    dead := h.dead.map tickDead
    flash := h.flash.map tickFlash
    sounder := tickSounder h.sounder
    steppers := h.steppers.map fun t => { t with engine := tickEngine t.engine }
    slots := h.slots.map fun k => { k with timer := tickTimer k.timer, cut := false }
    setpoints := h.setpoints.map fun n => { n with timer := tickTimer n.timer, cut := false }
    loadElapsed := if h.mode == .startup && !h.resetNLow then h.loadElapsed + 1 else h.loadElapsed }

/-- The half point of a lease run is reached (R62). -/
def leaseLowDue (h : Hub) (p : Port) : Bool :=
  match (h.port p).tenancy with
  | .attached run => run.mark == .pending && decide (2 * run.left ≤ run.duration)
  | .detached => false
  | .lapsed => false

/-- A lease has run out (R63). -/
def lapseDue (h : Hub) (p : Port) : Bool :=
  match (h.port p).tenancy with
  | .attached run => run.left == 0
  | .detached => false
  | .lapsed => false

/-- A handover timer has run out (R83). -/
def handoverDue (h : Hub) (c : Fin 23) : Bool := (h.chan c).handover.pending.any fun w => w.left == 0

/-- A min-time run has run out (R94). -/
def minTimeDue (h : Hub) (r : Fin 12) : Bool := (h.relay r).mark == .minOn 0 || (h.relay r).mark == .minOff 0

/-- A dead timer has run out (R98). -/
def deadDue (h : Hub) (g : Fin 4) : Bool :=
  match h.deadTimer g with
  | .running left _ => left == 0
  | .expired => false
  | .fromReset => false

/-- The decay timer has run out (R136). -/
def decayDue (h : Hub) : Bool := h.sounder.tone == .sounding && h.sounder.decay == some 0

/-- A step toward a target is complete (R118). -/
def stepDue (h : Hub) (u : Fin 2) : Bool :=
  match (h.stepper u).engine with
  | .moving _ t => t == 0
  | .idle => false
  | .referencing _ => false
  | .paused => false
  | .reversing _ => false

/-- An event whose timer has run out. -/
def due (h : Hub) (i : Instr) : Bool :=
  match i with
  | .leaseLow p => h.leaseLowDue p
  | .lapse p => h.lapseDue p
  | .handoverTimerExpiry c => h.handoverDue c
  | .minTimeExpiry r => h.minTimeDue r
  | .deadTimerExpiry g => h.deadDue g
  | .decayTimerExpiry => h.decayDue
  | .chimeEnd => h.sounder.engine == .playing 0
  | .gapEnd => h.sounder.engine == .gap 0
  | .freshnessExpiry k => (h.slot k).timer == some 0
  | .delayTimerExpiry n => (h.setpoint n).timer == some 0
  | .stepCompletion u => h.stepDue u
  | .referencingStepCompletion u => (h.stepper u).engine == .referencing 0
  | .reversalPauseEnd u => (h.stepper u).engine == .reversing 0
  | .flashClockLitHalfChange => h.flash.any atBoundary
  | _ => false

end Hub

/-- The order in which events due together are taken: a choice of the model (log 3). The flash clock comes last. -/
def dueOrder : List Instr :=
  Port.all.map .leaseLow ++ Port.all.map .lapse ++ (List.finRange 23).map .handoverTimerExpiry ++
    (List.finRange 12).map .minTimeExpiry ++ (List.finRange 4).map .deadTimerExpiry ++
    (List.finRange 8).map .freshnessExpiry ++ (List.finRange 16).map .delayTimerExpiry ++
    (List.finRange 2).map .stepCompletion ++ (List.finRange 2).map .referencingStepCompletion ++
    (List.finRange 2).map .reversalPauseEnd ++ [.decayTimerExpiry, .chimeEnd, .gapEnd]

/-- The events that may fall in the unit of time that begins at `h`: those of `dueOrder`, and the flash clock's where its
next count is a boundary. -/
def Hub.unitEvents (h : Hub) : List Instr :=
  dueOrder ++ if h.flash.any atBoundary then [.flashClockLitHalfChange] else []

end Sys2Proof.Machine
end

