-- ==== Sys2Proof/Machine/Claims.lean ====
section
/-! DEFINITION. Meanings of CLAIM, RELEASE, RELEASE_ALL, CLEAR_ORPHANS and QUERY_CLAIMS (chapter 2). -/

namespace Sys2Proof.Machine

namespace Hub

/-- The hub is in FAULT_HOLD. -/
def inFaultHold (h : Hub) : Bool := h.mode == .faultHold

/-- The checks of a request that names a claim's channel: R72, STARTUP_FAULT, BAD_CHANNEL (R26, R30, R32). -/
def claimChecks (h : Hub) (p : Port) (channel : Byte) : List (Bool × Result) :=
  h.standing p ++ [(h.inFaultHold, .startupFault), ((channelNo channel).isNone, .badChannel)]

/-- The channel and what a CLAIM puts on it, where the checks of R2, R3 and the policy pass. -/
def claimAsked (h : Hub) (channel : Byte) (value : BitVec 24) (policy : Byte) : Option (Fin 23 × Command × Policy) :=
  (channelNo channel).bind fun c =>
    (commandFor h.work c value).bind fun v => (policyOf policy).map fun x => (c, v, x)

/-- The edit of a CLAIM answered REPLACED (R27): same level in place, another level at the tail of its group. -/
def replaceEdit (p : Port) (level : Nat) (value : Command) (policy : Policy) (claims : List Claim) : List Claim :=
  match claimOf p claims with
  | some old =>
    let new := { old with level := level, value := value, policy := policy }
    if old.level = level then claims.map fun x => if x.port = p then new else x
    else insertClaim new (withoutPort p claims)
  | none => claims

/-- The response to PLACED and REPLACED: place and count (R29). -/
def respondPlace (p : Port) (c : Fin 23) (result : Result) (h : Hub) : Hub :=
  h.respond p result [byteOf (placeOf p (h.chan c).claims), byteOf (h.chan c).claims.length]

/-- The renewal of R13: on SND, the value is equal to the one it replaces and the claim is the winner (log 17). `before` is
the part before the edit: where another command was taken there, the edit's own hand-over has started the TONE. -/
def renewIfEqual (p : Port) (c : Fin 23) (old new : Command) (h before : Hub) : Hub :=
  let held := (before.chan c).taken.map (·.command) == some new
  if c = soundChannel && old == new && held && h.winnerPort c == some p then h.renewSound else h

/-- CLAIM on a channel where the port holds claim `old` (R27). -/
def replaceClaim (p : Port) (c : Fin 23) (level : Nat) (value : Command) (policy : Policy) (old : Claim)
    (h : Hub) : Hub :=
  let edit := replaceEdit p level value policy
  let edited :=
    if old.level ≠ level then h.editClaims c p .levelChanged edit
    else if old.value = value ∧ old.policy = policy then h.form c .edit
    else h.editClaims c p .valueChanged edit
  (edited.renewIfEqual p c old.value value h).respondPlace p c .replaced

/-- CLAIM on a channel where the port holds no claim (R28). -/
def placeClaim (p : Port) (c : Fin 23) (level : Nat) (value : Command) (policy : Policy) (h : Hub) : Hub :=
  h.refuseFirst p
    [(decide ((h.portItem p).quota ≤ h.holding p), .quota), (decide (Config.poolSize ≤ h.poolCount), .poolFull)]
    ((h.editClaims c p .placed (insertClaim ⟨p, level, value, policy, .live⟩)).respondPlace p c .placed)

/-- CLAIM (R26 to R29). -/
def decideClaim (p : Port) (channel level : Byte) (value : BitVec 24) (policy : Byte) (h : Hub) : Hub :=
  let fits := (channelNo channel).bind fun c => commandFor h.work c value
  h.refuseFirst p
    (h.claimChecks p channel ++
      [(decide (level.toNat < 1 ∨ 7 < level.toNat), .badLevel),
        (decide (5 < level.toNat) && !(h.portItem p).protectedGrant, .levelDenied),
        (fits.isNone, .badValue), ((policyOf policy).isNone, .badValue)])
    (match h.claimAsked channel value policy with
     | some (c, v, x) =>
       match claimOf p (h.chan c).claims with
       | some old => h.replaceClaim p c level.toNat v x old
       | none => h.placeClaim p c level.toNat v x
     | none => h)

/-- What a request does on the channel it names, the check of R2 having passed. -/
def onChannel (channel : Byte) (f : Fin 23 → Hub → Hub) (h : Hub) : Hub :=
  match channelNo channel with
  | some c => f c h
  | none => h

/-- The port holds no claim on the channel named. -/
def lacksClaim (h : Hub) (p : Port) (channel : Byte) : Bool :=
  match channelNo channel with
  | some c => !h.holdsClaim p c
  | none => false

/-- RELEASE (R30). -/
def decideRelease (p : Port) (channel : Byte) (h : Hub) : Hub :=
  h.refuseFirst p (h.claimChecks p channel ++ [(h.lacksClaim p channel, .noClaim)])
    (h.onChannel channel fun c x => (x.removeClaim p c).respond p .ok [])

/-- RELEASE_ALL (R31). -/
def decideReleaseAll (p : Port) (h : Hub) : Hub :=
  h.refuseFirst p (h.standing p ++ [(h.inFaultHold, .startupFault)])
    ((h.removeClaims p).respond p .ok [byteOf (h.holding p)])

/-- The highest usable level of a port (R32). -/
def highestLevel (h : Hub) (p : Port) : Nat := if (h.portItem p).protectedGrant then 7 else 5

/-- A claim CLEAR_ORPHANS removes (R32). -/
def clearable (limit : Nat) (x : Claim) : Bool := x.state == .orphaned && decide (x.level ≤ limit)

/-- CLEAR_ORPHANS on a channel (R32): the removals, their reports, one forming. -/
def clearChannel (p : Port) (c : Fin 23) (h : Hub) : Hub :=
  let limit := h.highestLevel p
  let gone := (h.chan c).claims.filter (clearable limit)
  let removed := h.modChan c fun x => { x with claims := x.claims.filter fun y => !clearable limit y }
  let reported := gone.foldl (fun x y => x.settleEdit c y.port .removed) removed
  (if gone.isEmpty then h else reported.form c .edit).respond p .ok [byteOf gone.length]

/-- CLEAR_ORPHANS (R32). -/
def decideClearOrphans (p : Port) (channel : Byte) (h : Hub) : Hub :=
  h.refuseFirst p (h.claimChecks p channel) (h.onChannel channel (clearChannel p))

/-- Code of a lapse policy and a state in a claim's last byte; bits 7 to 2 have no content (R193). -/
def claimByte (x : Claim) : LayoutByte :=
  ⟨0x03, (if x.policy = .keep then 1 else 0) ||| (if x.state = .orphaned then 2 else 0)⟩

/-- One claim of the response to QUERY_CLAIMS (R193). -/
def claimBytes (c : Fin 23) (x : Claim) : List LayoutByte :=
  knownAll ([byteOf c.val, byteOf x.port.idx.val, byteOf x.level] ++ be24 x.value.bits) ++ [claimByte x]

/-- The body of the response to QUERY_CLAIMS (R37, R193). -/
def claimsRecord (h : Hub) (c : Fin 23) : List LayoutByte :=
  known (byteOf (h.chan c).claims.length) :: (h.chan c).claims.flatMap (claimBytes c)

/-- QUERY_CLAIMS (R37). -/
def decideQueryClaims (p : Port) (channel : Byte) (h : Hub) : Hub :=
  h.refuseFirst p (h.standing p ++ [((channelNo channel).isNone, .badChannel)])
    (h.onChannel channel fun c x => x.respondRecord p (x.claimsRecord c))

end Hub

/-- CLAIM. -/
def execClaim (p : Port) (channel level : Byte) (value : BitVec 24) (policy : Byte) (s : State) :
    Host.Outcome State Fault Refusal :=
  onRequest p (Hub.decideClaim p channel level value policy) s

/-- RELEASE. -/
def execRelease (p : Port) (channel : Byte) (s : State) : Host.Outcome State Fault Refusal :=
  onRequest p (Hub.decideRelease p channel) s

/-- RELEASE_ALL. -/
def execReleaseAll (p : Port) (s : State) : Host.Outcome State Fault Refusal := onRequest p (Hub.decideReleaseAll p) s

/-- CLEAR_ORPHANS. -/
def execClearOrphans (p : Port) (channel : Byte) (s : State) : Host.Outcome State Fault Refusal :=
  onRequest p (Hub.decideClearOrphans p channel) s

/-- QUERY_CLAIMS. -/
def execQueryClaims (p : Port) (channel : Byte) (s : State) : Host.Outcome State Fault Refusal :=
  onRequest p (Hub.decideQueryClaims p channel) s

end Sys2Proof.Machine
end

