-- ==== Sys2Proof/Machine/Handovers.lean ====
section
/-! DEFINITION. Meanings of HANDOVER, ANSWER and HANDOVER_TIMER_EXPIRY (chapter 5). -/

namespace Sys2Proof.Machine

namespace Hub

/-- The winner is the port's own claim, or its level differs from that of the port's claim (check 7 of R79). -/
def notContested (h : Hub) (p : Port) (c : Fin 23) : Bool :=
  match (h.chan c).claims.head?, claimOf p (h.chan c).claims with
  | some w, some own => w.port == p || w.level != own.level
  | _, _ => true

/-- HANDOVER against an ORPHANED winner of port `w` (R80). -/
def handoverAtOnce (p w : Port) (c : Fin 23) (h : Hub) : Hub :=
  (h.resolveByDefault c p w).respond p .ok [byteOf w.idx.val, (h.defaultOutcome c).code]

/-- HANDOVER against a LIVE winner of port `w` (R81). -/
def startHandover (p w : Port) (c : Fin 23) (h : Hub) : Hub :=
  let timeout := h.work.handovers[c].timeout
  let pending := h.modChan c fun x =>
    { x with handover := { x.handover with pending := some ⟨p, w, Config.tenths timeout⟩ } }
  (pending.giveAsked w c).respond p .started [byteOf w.idx.val, byteOf timeout]

/-- HANDOVER past its checks (R80, R81). -/
def askHandover (p : Port) (c : Fin 23) (h : Hub) : Hub :=
  match (h.chan c).claims with
  | w :: _ =>
    match w.state with
    | .orphaned => h.handoverAtOnce p w.port c
    | .live => h.startHandover p w.port c
  | [] => h

/-- A handover is pending on the channel named. -/
def handoverPending (h : Hub) (channel : Byte) : Bool :=
  match channelNo channel with
  | some c => (h.chan c).handover.pending.isSome
  | none => false

/-- HANDOVER (R79). -/
def decideHandover (p : Port) (channel : Byte) (h : Hub) : Hub :=
  let uncontested := match channelNo channel with
    | some c => h.notContested p c
    | none => false
  h.refuseFirst p
    (h.claimChecks p channel ++
      [(h.lacksClaim p channel, .noClaim), (h.handoverPending channel, .handoverBusy), (uncontested, .notContested)])
    (h.onChannel channel (askHandover p))

/-- The port is the holder of the handover pending on the channel named (check 6 of R82). -/
def isHolder (h : Hub) (p : Port) (channel : Byte) : Bool :=
  match (channelNo channel).bind fun c => (h.chan c).handover.pending with
  | some w => w.holder == p
  | none => false

/-- An accepted ANSWER (R82). -/
def answerHandover (p : Port) (yields : Bool) (c : Fin 23) (h : Hub) : Hub :=
  match (h.chan c).handover.pending with
  | some w =>
    let outcome := if yields then HandoverOutcome.granted else .declined
    let ordered := if yields then (h.reorder c w.requester w.holder).form c .edit else h
    (ordered.resolve c outcome w.requester w.holder).respond p .ok [outcome.code]
  | none => h

/-- ANSWER (R82). -/
def decideAnswer (p : Port) (channel answer : Byte) (h : Hub) : Hub :=
  h.refuseFirst p
    (h.claimChecks p channel ++ [(answer != 1 && answer != 2, .badValue), (!h.isHolder p channel, .noHandover)])
    (h.onChannel channel (answerHandover p (answer == 1)))

/-- The timer of a pending handover expires (R83). -/
def handoverExpires (c : Fin 23) (h : Hub) : Hub :=
  match (h.chan c).handover.pending with
  | some w => h.resolveByDefault c w.requester w.holder
  | none => h

end Hub

/-- HANDOVER. -/
def execHandover (p : Port) (channel : Byte) (s : State) : Host.Outcome State Fault Refusal :=
  onRequest p (Hub.decideHandover p channel) s

/-- ANSWER. -/
def execAnswer (p : Port) (channel answer : Byte) (s : State) : Host.Outcome State Fault Refusal :=
  onRequest p (Hub.decideAnswer p channel answer) s

/-- HANDOVER_TIMER_EXPIRY. -/
def execHandoverTimerExpiry (c : Fin 23) (s : State) : Host.Outcome State Fault Refusal :=
  onEvent (Hub.handoverExpires c) s

end Sys2Proof.Machine
end

