-- ==== Sys2Proof/Machine/SoundAndLight.lean ====
section
/-! DEFINITION. Meanings of CHIME, SILENCE, DECAY_TIMER_EXPIRY, CHIME_END, GAP_END and FLASH_CLOCK_LIT_HALF_CHANGE
(chapter 8). -/

namespace Sys2Proof.Machine

namespace Hub

/-- The modes in which HOLD keeps outputs frozen: HOLDING and HELD. -/
def onHold (h : Hub) : Bool := h.mode == .holding || h.mode == .held

/-- Pitch index above 7, loudness outside 1 to 8, or a length neither SHORT nor LONG (check 5 of R139). -/
def badChime (pitch loudness length : Byte) : Bool :=
  decide (7 < pitch.toNat ∨ loudness.toNat < 1 ∨ 8 < loudness.toNat) || (lengthOf length).isNone

/-- CHIME past its first six checks: a retrigger, a full queue, or a new record (R139, R141). -/
def askChime (p : Port) (pitch loudness : Nat) (length : ChimeLength) (h : Hub) : Hub :=
  if h.retriggers p pitch then (h.retrigger loudness length).respond p .ok [1]
  else if Config.chimeQueueSize ≤ h.sounder.queue.length then h.respond p .chimeQueueFull []
  else (h.appendChime ⟨p, pitch, loudness, length⟩).respond p .ok [byteOf (h.sounder.queue.length + 1)]

/-- CHIME (R139). -/
def decideChime (p : Port) (pitch loudness length : Byte) (h : Hub) : Hub :=
  h.refuseFirst p
    (h.standing p ++
      [(h.mode == .faultHold, .wrongMode), (h.onHold, .held), (badChime pitch loudness length, .badValue),
        ((h.chan soundChannel).eff.command != .off, .sounderBusy)])
    (match lengthOf length with
     | some x => h.askChime p pitch.toNat loudness.toNat x
     | none => h)

/-- How many chimes of a port the queue holds. -/
def chimesOf (h : Hub) (p : Port) : Nat := (h.sounder.queue.filter fun c => c.port == p).length

/-- SILENCE (R142). -/
def decideSilence (p : Port) (h : Hub) : Hub :=
  h.refuseFirst p (h.standing p ++ [(h.chimesOf p == 0, .notChiming)])
    ((h.withdrawChimes p).respond p .ok [byteOf (h.chimesOf p)])

end Hub

/-- CHIME. -/
def execChime (p : Port) (pitch loudness length : Byte) (s : State) : Host.Outcome State Fault Refusal :=
  onRequest p (Hub.decideChime p pitch loudness length) s

/-- SILENCE. -/
def execSilence (p : Port) (s : State) : Host.Outcome State Fault Refusal := onRequest p (Hub.decideSilence p) s

/-- DECAY_TIMER_EXPIRY. -/
def execDecayTimerExpiry (s : State) : Host.Outcome State Fault Refusal := onEvent Hub.decayExpires s

/-- CHIME_END. -/
def execChimeEnd (s : State) : Host.Outcome State Fault Refusal := onEvent Hub.playingEnds s

/-- GAP_END. -/
def execGapEnd (s : State) : Host.Outcome State Fault Refusal := onEvent Hub.gapEnds s

/-- FLASH_CLOCK_LIT_HALF_CHANGE. -/
def execFlashClockLitHalfChange (s : State) : Host.Outcome State Fault Refusal := onEvent Hub.flashBoundaryPasses s

end Sys2Proof.Machine
end

