-- ==== Sys2Proof/Machine/HubModes.lean ====
section
/-! DEFINITION. Meanings of HOLD, ENTER_HELD, RESUME, ACCEPT_FAULT, CLEAR_FIRST_FAULT, RESET_HUB, POWER_ON,
RESET_N_ASSERT, RESET_N_RELEASE, END_OF_LOAD, and of the configuration commands CONFIG_READ, CONFIG_WRITE, STORE and
STORE_COMPLETION (chapter 10). -/

namespace Sys2Proof.Machine

namespace Hub

/-- The first three checks of a request that needs the configuration grant (R171 to R174, R177, R178). -/
def granted (h : Hub) (p : Port) : List (Bool × Result) :=
  h.standing p ++ [(!(h.portItem p).configGrant, .noGrant)]

/-- HOLD (R173). -/
def decideHold (p : Port) (h : Hub) : Hub :=
  h.refuseFirst p (h.granted p ++ [(h.mode == .faultHold, .wrongMode), (h.onHold, .already)])
    (h.enterHolding.respond p .started [])

/-- RESUME (R174). -/
def decideResume (p : Port) (h : Hub) : Hub :=
  h.refuseFirst p (h.granted p ++ [(!h.onHold, .wrongMode), (h.storeOp.isSome, .storeBusy)])
    (h.enterRun.respond p .ok [])

/-- ACCEPT_FAULT (R171). -/
def decideAcceptFault (p : Port) (h : Hub) : Hub :=
  h.refuseFirst p (h.granted p ++ [(h.mode != .faultHold, .wrongMode), (h.storeOp.isSome, .storeBusy)])
    (h.enterRun.respond p .ok [])

/-- CLEAR_FIRST_FAULT (R172). -/
def decideClearFirstFault (p : Port) (h : Hub) : Hub :=
  h.refuseFirst p (h.granted p) ({ h with firstFault := 0 }.respond p .ok [])

/-- RESET_HUB (R169): the response is not kept. -/
def decideResetHub (p : Port) (h : Hub) : Hub := h.refuseFirst p (h.granted p) (h.hubReset .software).readAddress

/-- Power-on (R169): the reset ends within it, but where RESET_N is held low (log 18). -/
def powerComesOn (h : Hub) : Hub := (h.hubReset .powerOn).readAddress

/-- The field CONFIG_READ names (R176). -/
def fieldNamed (h : Hub) (block item field : Byte) : Option (BitVec 32) :=
  (Block.ofByte block).bind fun b => h.work.read b item field

/-- CONFIG_READ (R176). -/
def decideConfigRead (p : Port) (block item field : Byte) (h : Hub) : Hub :=
  match h.fieldNamed block item field with
  | some v => h.refuseFirst p (h.standing p) (h.respond p .ok (be32 v))
  | none => h.refuseFirst p (h.standing p ++ [(true, .badValue)]) h

/-- The hub mode is not HELD or FAULT_HOLD (check 4 of R177 and R178). -/
def notWritable (h : Hub) : Bool := h.mode != .held && h.mode != .faultHold

/-- The part after a CONFIG_WRITE that its field's rule accepts (R177). -/
def fieldWritten (h : Hub) (block item field : Byte) (v : BitVec 32) : Option Hub :=
  (Block.ofByte block).bind fun b => h.write b item field v

/-- CONFIG_WRITE (R177). -/
def decideConfigWrite (p : Port) (block item field : Byte) (v : BitVec 32) (h : Hub) : Hub :=
  let busy := (Block.ofByte block).any h.writingBlock
  let closes := (Block.ofByte block).any fun b => h.closesTwo b field v
  let checks := h.granted p ++ [(h.notWritable, .wrongMode), (busy, .storeBusy)]
  match h.fieldWritten block item field v with
  | some written => h.refuseFirst p (checks ++ [(closes, .interlockConflict)]) (written.respond p .ok [])
  | none => h.refuseFirst p (checks ++ [(true, .badConfig)]) h

/-- STORE (R178). -/
def decideStore (p : Port) (block : Byte) (h : Hub) : Hub :=
  h.refuseFirst p
    (h.granted p ++
      [(h.notWritable, .wrongMode), ((Block.ofByte block).isNone, .badValue), (h.storeOp.isSome, .storeBusy)])
    ({ h with storeOp := (Block.ofByte block).map fun b => (b, p) }.respond p .started [])

/-- RESET_N goes low: a hub reset, in which the part then stays (R169), the I2C address as it was (log 22). A pin that is low
already makes no change (log 18). -/
def resetNFalls (h : Hub) : Hub := if h.resetNLow then h else { h.hubReset .pin with resetNLow := true }

/-- RESET_N goes high: the reset ends, the address pins are read, the load begins (R169, R182). -/
def resetNRises (h : Hub) : Hub :=
  if h.resetNLow then { h with resetNLow := false, loadElapsed := 0 }.readAddress else h

/-- A load is in progress: STARTUP with RESET_N released (R169, R170). -/
def loading (h : Hub) : Bool := h.mode == .startup && !h.resetNLow

/-- The end of the load in progress (R170). -/
def loadEnds (storeAnswers : Bool) (h : Hub) : Hub := if h.loading then h.endLoad storeAnswers else h

end Hub

/-- HOLD. -/
def execHold (p : Port) (s : State) : Host.Outcome State Fault Refusal := onRequest p (Hub.decideHold p) s

/-- ENTER_HELD: the passage of R168, where the hub is HOLDING with both units at rest (log 19). -/
def execEnterHeld (s : State) : Host.Outcome State Fault Refusal := onEvent Hub.checkHeld s

/-- RESUME. -/
def execResume (p : Port) (s : State) : Host.Outcome State Fault Refusal := onRequest p (Hub.decideResume p) s

/-- ACCEPT_FAULT. -/
def execAcceptFault (p : Port) (s : State) : Host.Outcome State Fault Refusal :=
  onRequest p (Hub.decideAcceptFault p) s

/-- CLEAR_FIRST_FAULT. -/
def execClearFirstFault (p : Port) (s : State) : Host.Outcome State Fault Refusal :=
  onRequest p (Hub.decideClearFirstFault p) s

/-- RESET_HUB. -/
def execResetHub (p : Port) (s : State) : Host.Outcome State Fault Refusal := onRequest p (Hub.decideResetHub p) s

/-- CONFIG_READ. -/
def execConfigRead (p : Port) (block item field : Byte) (s : State) : Host.Outcome State Fault Refusal :=
  onRequest p (Hub.decideConfigRead p block item field) s

/-- CONFIG_WRITE. -/
def execConfigWrite (p : Port) (block item field : Byte) (value : BitVec 32) (s : State) :
    Host.Outcome State Fault Refusal :=
  onRequest p (Hub.decideConfigWrite p block item field value) s

/-- STORE. -/
def execStore (p : Port) (block : Byte) (s : State) : Host.Outcome State Fault Refusal :=
  onRequest p (Hub.decideStore p block) s

/-- STORE_COMPLETION. -/
def execStoreCompletion (verified : Bool) (s : State) : Host.Outcome State Fault Refusal :=
  onEvent (Hub.writeCompletes verified) s

/-- POWER_ON. -/
def execPowerOn (s : State) : Host.Outcome State Fault Refusal := onEvent Hub.powerComesOn s

/-- RESET_N_ASSERT. -/
def execResetNAssert (s : State) : Host.Outcome State Fault Refusal := onEvent Hub.resetNFalls s

/-- RESET_N_RELEASE. -/
def execResetNRelease (s : State) : Host.Outcome State Fault Refusal := onEvent Hub.resetNRises s

/-- END_OF_LOAD. -/
def execEndOfLoad (storeAnswers : Bool) (s : State) : Host.Outcome State Fault Refusal :=
  onEvent (Hub.loadEnds storeAnswers) s

end Sys2Proof.Machine
end

