-- ==== Sys2Proof/Machine/Measurement.lean ====
section
/-! DEFINITION. Meanings of SAMPLE, ZERO, ACK_SETPOINT, FRESHNESS_EXPIRY, DELAY_TIMER_EXPIRY, QUERY_SLOT and
QUERY_SETPOINTS (chapter 9). -/

namespace Sys2Proof.Machine

namespace Hub

/-- The port is not the source port of the slot named (R150, R153). -/
def notSource (h : Hub) (p : Port) (slot : Byte) : Bool := (indexOf 8 slot).any fun k => (h.slotItem k).source != p

/-- The response that carries a slot's value (R151, R153). -/
def respondValue (p : Port) (k : Fin 8) (h : Hub) : Hub := h.respond p .ok (signed32 (h.slot k).value)

/-- SAMPLE (R150). -/
def decideSample (p : Port) (slot : Byte) (raw : BitVec 32) (h : Hub) : Hub :=
  h.refuseFirst p
    (h.standing p ++
      [(h.mode == .faultHold, .startupFault), ((indexOf 8 slot).isNone, .badValue),
        (!withinLimit raw.toInt, .badValue), (h.notSource p slot, .notSource)])
    (match indexOf 8 slot with
     | some k => (h.takeSample k raw.toInt).respondValue p k
     | none => h)

/-- The slot named is a LEVEL slot (check 6 of R153). -/
def levelSlot (h : Hub) (slot : Byte) : Bool := (indexOf 8 slot).any fun k => (h.slotItem k).mode == .level

/-- ZERO (R153). -/
def decideZero (p : Port) (slot : Byte) (amount : BitVec 32) (h : Hub) : Hub :=
  h.refuseFirst p
    (h.standing p ++
      [(h.mode == .faultHold, .startupFault), ((indexOf 8 slot).isNone || !withinLimit amount.toInt, .badValue),
        (h.notSource p slot, .notSource), (h.levelSlot slot, .badSlotMode)])
    (match indexOf 8 slot with
     | some k => (h.takeZero k amount.toInt).respondValue p k
     | none => h)

/-- The setpoint named is not LATCHED (check 5 of R159). -/
def notLatched (h : Hub) (setpoint : Byte) : Bool :=
  (indexOf 16 setpoint).any fun n => (h.setpoint n).state != .latched

/-- ACK_SETPOINT (R159). -/
def decideAckSetpoint (p : Port) (setpoint : Byte) (h : Hub) : Hub :=
  h.refuseFirst p
    (h.standing p ++
      [(h.mode == .faultHold, .startupFault), ((indexOf 16 setpoint).isNone, .badValue),
        (h.notLatched setpoint, .notLatched)])
    (match indexOf 16 setpoint with
     | some n => (h.acknowledge n).respond p .ok []
     | none => h)

/-- The code of a slot state (R195). -/
def slotStateCode : SlotState → Byte
  | .empty => 0
  | .fresh => 1
  | .stale => 2

/-- Freshness time left, in 100 ms units rounded up; 0 while STOPPED (R166, R195). -/
def freshnessLeft (x : Slot) : Nat :=
  match x.timer with
  | some t => tenthsUp t
  | none => 0

/-- The slot record (R195); bits 6 to 2 of byte 1 have no content. -/
def slotRecord (h : Hub) (k : Fin 8) : List LayoutByte :=
  let i := h.slotItem k
  let x := h.slot k
  [known (byteOf k.val), ⟨0x83, (if i.mode = .total then 0x80 else 0) ||| byteOf i.source.idx.val⟩,
    known (byteOf i.freshness), known (slotStateCode x.state)] ++
    knownAll (signed32 x.value) ++ [known (byteOf (freshnessLeft x))]

/-- QUERY_SLOT (R166). -/
def decideQuerySlot (p : Port) (slot : Byte) (h : Hub) : Hub :=
  h.refuseFirst p (h.standing p ++ [((indexOf 8 slot).isNone, .badValue)])
    (match indexOf 8 slot with
     | some k => h.respondRecord p (h.slotRecord k)
     | none => h)

/-- The code of a setpoint state (R193). -/
def setpointCode : SetpointState → Nat
  | .inactive => 0
  | .making => 1
  | .active => 2
  | .breaking => 3
  | .latched => 4

/-- The byte of two setpoint states, the first in the high nibble (R193). -/
def statePair (h : Hub) (n : Fin 8) : Byte :=
  byteOf (16 * setpointCode (h.setpoint ⟨2 * n.val, by omega⟩).state +
    setpointCode (h.setpoint ⟨2 * n.val + 1, by omega⟩).state)

/-- The driving set, bit n for SPn (R193). -/
def drivingSet (h : Hub) : BitVec 16 :=
  (List.finRange 16).foldl (fun x n => if h.driving n then x ||| BitVec.twoPow 16 n.val else x) 0

/-- The body of the response to QUERY_SETPOINTS (R166, R193). -/
def setpointsBody (h : Hub) : List Byte := (List.finRange 8).map h.statePair ++ be16 h.drivingSet

/-- QUERY_SETPOINTS (R166). -/
def decideQuerySetpoints (p : Port) (h : Hub) : Hub :=
  h.refuseFirst p (h.standing p) (h.respond p .ok h.setpointsBody)

end Hub

/-- SAMPLE. -/
def execSample (p : Port) (slot : Byte) (raw : BitVec 32) (s : State) : Host.Outcome State Fault Refusal :=
  onRequest p (Hub.decideSample p slot raw) s

/-- ZERO. -/
def execZero (p : Port) (slot : Byte) (amount : BitVec 32) (s : State) : Host.Outcome State Fault Refusal :=
  onRequest p (Hub.decideZero p slot amount) s

/-- ACK_SETPOINT. -/
def execAckSetpoint (p : Port) (setpoint : Byte) (s : State) : Host.Outcome State Fault Refusal :=
  onRequest p (Hub.decideAckSetpoint p setpoint) s

/-- QUERY_SLOT. -/
def execQuerySlot (p : Port) (slot : Byte) (s : State) : Host.Outcome State Fault Refusal :=
  onRequest p (Hub.decideQuerySlot p slot) s

/-- QUERY_SETPOINTS. -/
def execQuerySetpoints (p : Port) (s : State) : Host.Outcome State Fault Refusal :=
  onRequest p (Hub.decideQuerySetpoints p) s

/-- FRESHNESS_EXPIRY. -/
def execFreshnessExpiry (k : Fin 8) (s : State) : Host.Outcome State Fault Refusal := onEvent (Hub.freshnessExpires k) s

/-- DELAY_TIMER_EXPIRY. -/
def execDelayTimerExpiry (n : Fin 16) (s : State) : Host.Outcome State Fault Refusal := onEvent (Hub.delayExpires n) s

end Sys2Proof.Machine
end

