-- ==== Sys2Proof/Machine/Motion.lean ====
section
/-! DEFINITION. Meanings of REFERENCE, STEP_INHIBIT_ASSERT, STEP_INHIBIT_RELEASE, STEP_COMPLETION,
REFERENCING_STEP_COMPLETION, REVERSAL_PAUSE_END (chapter 7), MIN_TIME_EXPIRY and DEAD_TIMER_EXPIRY (chapter 6). -/

namespace Sys2Proof.Machine

/-- The Stepper unit a request names by its channel; none on channels of other kinds (R2). -/
def stepperOf (channel : Byte) : Option (Fin 2) :=
  match (channelNo channel).map outputOf with
  | some (.stepper u) => some u
  | _ => none

namespace Hub

/-- The channel's list is not empty and its winner is not the port's own claim (check 6 of R120). -/
def notWinner (h : Hub) (p : Port) (u : Fin 2) : Bool :=
  match h.winnerPort (stepperChannel u) with
  | some w => w != p
  | none => false

/-- The stepper is REFERENCING, or a REFERENCE request waits (check 7 of R120). -/
def runKnown (h : Hub) (u : Fin 2) : Bool := (h.stepper u).ref == .referencing || (h.stepper u).refReq

/-- An accepted REFERENCE, by engine state (R121). -/
def takeReference (u : Fin 2) (h : Hub) : Hub :=
  match (h.stepper u).engine with
  | .idle => h.startRun u
  | .moving _ _ => h.modStepper u fun t => { t with refReq := true }
  | .reversing _ => h.modStepper u fun t => { t with refReq := true }
  | .paused => h.modStepper u fun t => { t with refReq := true }
  | .referencing _ => h

/-- REFERENCE (R120). -/
def decideReference (p : Port) (channel : Byte) (h : Hub) : Hub :=
  h.refuseFirst p
    (h.standing p ++
      [((stepperOf channel).isNone, .badChannel), (h.mode == .faultHold, .wrongMode), (h.onHold, .held),
        ((stepperOf channel).any (h.notWinner p), .notWinner), ((stepperOf channel).any h.runKnown, .already)])
    (match stepperOf channel with
     | some u => (h.takeReference u).respond p .started []
     | none => h)

/-- STEP_INHIBIT is released: each RUNNING, PAUSED unit goes on (R124). -/
def inhibitReleased (h : Hub) : Hub := ({ h with stepInhibit := false }.unitReleased 0).unitReleased 1

end Hub

/-- REFERENCE. -/
def execReference (p : Port) (channel : Byte) (s : State) : Host.Outcome State Fault Refusal :=
  onRequest p (Hub.decideReference p channel) s

/-- STEP_INHIBIT_ASSERT: the input is read where a step would start (R124). -/
def execStepInhibitAssert (s : State) : Host.Outcome State Fault Refusal :=
  onEvent (fun h => { h with stepInhibit := true }) s

/-- STEP_INHIBIT_RELEASE. -/
def execStepInhibitRelease (s : State) : Host.Outcome State Fault Refusal := onEvent Hub.inhibitReleased s

/-- STEP_COMPLETION; the hub passes to HELD where this brings the second unit to rest (R118, R125). -/
def execStepCompletion (u : Fin 2) (s : State) : Host.Outcome State Fault Refusal :=
  onEvent (fun h => (h.stepCompletes u).checkHeld) s

/-- REFERENCING_STEP_COMPLETION; likewise (R122, R125). -/
def execReferencingStepCompletion (u : Fin 2) (s : State) : Host.Outcome State Fault Refusal :=
  onEvent (fun h => (h.referencingStepCompletes u).checkHeld) s

/-- REVERSAL_PAUSE_END. -/
def execReversalPauseEnd (u : Fin 2) (s : State) : Host.Outcome State Fault Refusal := onEvent (Hub.pauseEnds u) s

/-- MIN_TIME_EXPIRY. -/
def execMinTimeExpiry (r : Fin 12) (s : State) : Host.Outcome State Fault Refusal := onEvent (Hub.relayRunExpires r) s

/-- DEAD_TIMER_EXPIRY. -/
def execDeadTimerExpiry (g : Fin 4) (s : State) : Host.Outcome State Fault Refusal := onEvent (Hub.deadTimerExpires g) s

end Sys2Proof.Machine
end

