-- ==== Sys2Proof/Machine/Notices.lean ====
section
/-! DEFINITION. Meanings of READ_NOTICES, CLEAR_NOTICES, SET_MASK, BAD_FRAME and BAD_REQUEST (chapter 11). -/

namespace Sys2Proof.Machine

namespace Hub

/-- READ_NOTICES; `flags` are those that stood at the frame's arrival (R187). -/
def decideReadNotices (p : Port) (flags : BitVec 14) (h : Hub) : Hub :=
  let t := h.port p
  h.refuseFirst p (h.standing p)
    (h.respond p .ok (noticeWord flags ++ noticeWord t.mask ++ channelSet t.change ++ channelSet t.asked))

/-- Bit 14 or 15 of a notice word is set (R188, R189). -/
def spareBits (w : BitVec 16) : Bool := w.getLsbD 14 || w.getLsbD 15

/-- CLEAR_NOTICES (R188). -/
def decideClearNotices (p : Port) (flags : BitVec 16) (clearSet : Byte) (h : Hub) : Hub :=
  let cleared := h.modPort p fun t =>
    { t with flags := t.flags &&& ~~~(flags.setWidth 14), change := if clearSet = 1 then 0 else t.change }
  h.refuseFirst p (h.standing p ++ [(spareBits flags || decide (1 < clearSet.toNat), .badValue)])
    (cleared.respond p .ok [])

/-- SET_MASK (R189). -/
def decideSetMask (p : Port) (mask : BitVec 16) (h : Hub) : Hub :=
  h.refuseFirst p (h.standing p ++ [(spareBits mask, .badValue)])
    ((h.modPort p fun t => { t with mask := mask.setWidth 14 }).respond p .ok [])

/-- A frame that fails the check, on a port that takes frames (R183). -/
def discardFrame (p : Port) (h : Hub) : Hub :=
  if h.takesFrames p then (h.giveFlag p .linkError).respond p .badFrame [] else h

end Hub

/-- READ_NOTICES. -/
def execReadNotices (p : Port) (s : State) : Host.Outcome State Fault Refusal :=
  onRequest p (Hub.decideReadNotices p (s.hub.port p).flags) s

/-- CLEAR_NOTICES. -/
def execClearNotices (p : Port) (flags : BitVec 16) (clearSet : Byte) (s : State) : Host.Outcome State Fault Refusal :=
  onRequest p (Hub.decideClearNotices p flags clearSet) s

/-- SET_MASK. -/
def execSetMask (p : Port) (mask : BitVec 16) (s : State) : Host.Outcome State Fault Refusal :=
  onRequest p (Hub.decideSetMask p mask) s

/-- BAD_FRAME: the frame is discarded whatever its bytes; no lease restarts (R183). -/
def execBadFrame (p : Port) (_frame : List Byte) (s : State) : Host.Outcome State Fault Refusal :=
  onEvent (Hub.discardFrame p) s

/-- BAD_REQUEST: answered before every other check, in every mode; the lease has restarted (R61, R184). -/
def execBadRequest (p : Port) (_code : Byte) (_body : List Byte) (s : State) : Host.Outcome State Fault Refusal :=
  onRequest p (fun h => h.respond p .badRequest []) s

end Sys2Proof.Machine
end

