-- ==== Sys2Proof/Machine/Queries.lean ====
section
/-! DEFINITION. Meanings of QUERY_HUB and QUERY_CHANNEL with the records of R195 (R18, R179). -/

namespace Sys2Proof.Machine

namespace Hub

/-! ## The channel record (R18, R195) -/

/-- Engine state of a relay, in the order of R18. -/
def relayStateCode : RelayState → Byte
  | .off => 0
  | .on => 1
  | .waitMinOff => 2
  | .waitMinOn => 3
  | .waitDead => 4
  | .heldOff => 5

/-- Engine state of a lamp: the form of its taken command, OFF while NONE (R131). -/
def lampStateCode (taken : Option Pair) : Byte :=
  match taken.map Pair.command with
  | some (.steady _) => 1
  | some (.slow _) => 2
  | some (.fast _) => 3
  | _ => 0

/-- Engine state of the sounder: SILENT, TONE or CHIMING (R148). -/
def soundStateCode (d : Sounder) : Byte :=
  match d.tone, d.engine with
  | .sounding, _ => 1
  | .silent, .playing _ => 2
  | .silent, .gap _ => 2
  | .silent, .ready => 0

/-- Engine state of a stepper, in the order of R18. -/
def stepStateCode : StepEngine → Byte
  | .idle => 0
  | .moving _ _ => 1
  | .referencing _ => 2
  | .paused => 3
  | .reversing _ => 4

/-- Physical output of a stepper (R112). -/
def stepOutputCode : StepEngine → Byte
  | .moving .up _ => 1
  | .moving .down _ => 2
  | .referencing _ => 2
  | .idle => 0
  | .paused => 0
  | .reversing _ => 0

/-- Bytes 14 to 16 of the channel record (R195). Off SND bit 7 of byte 14 has no content; byte 16 is 0 for a DARK lamp and
for a SILENT sounder. -/
def engineBytes (h : Hub) (c : Fin 23) : List LayoutByte :=
  match outputOf c with
  | .relay r => [⟨0x7F, relayStateCode (h.relay r).state⟩, known (if (h.relay r).output then 1 else 0), known 0]
  | .lamp l =>
    ⟨0x7F, lampStateCode (h.chan c).taken⟩ ::
      (match h.lamp l with
       | .dark => [known 0, known 0]
       | .lit b => [known 1, known (byteOf b)])
  | .sounder =>
    known (soundStateCode h.sounder ||| (if h.sounder.mute then 0x80 else 0)) ::
      (match h.soundOutput with
       | .silent => [known 0, known 0]
       | .sounding p l => [known 1, known (byteOf (16 * p + l))])
  | .stepper u =>
    [⟨0x7F, stepStateCode (h.stepper u).engine⟩, known (stepOutputCode (h.stepper u).engine), known 0]

/-- Bytes 18 to 20: the pending handover, its time left, the last outcome (R77, R92, R195). -/
def handoverBytes (x : HandoverRecord) : List LayoutByte :=
  (match x.pending with
   | some w => [⟨0xB3, byteOf (128 + 16 * w.requester.idx.val + w.holder.idx.val)⟩, known (byteOf (tenthsUp w.left))]
   | none => [⟨0x80, 0⟩, known 0]) ++
  (match x.last with
   | some o => [known (byteOf (16 * o.outcome.code.toNat + 4 * o.requester.idx.val + o.holder.idx.val))]
   | none => [⟨0xF0, 0⟩])

/-- The code of a reference state (R195). -/
def refCode : RefState → Nat
  | .unreferenced => 0
  | .referencing => 1
  | .referenced => 2

/-- Bytes 21 and 22 (R195). On a stepper bits 13 and 12 have no content. -/
def kindBytes (h : Hub) (c : Fin 23) : List LayoutByte :=
  match outputOf c with
  | .relay r =>
    [known (match h.groupOf r with
            | some g => byteOf (g.val + 1)
            | none => 0), known (if (h.relay r).state = .heldOff then 1 else 0)]
  | .stepper u =>
    let t := h.stepper u
    let position := if t.ref = .referenced then t.pos else 0
    [⟨0xCF, byteOf (64 * refCode t.ref + position / 256 % 16)⟩, known (byteOf (position % 256))]
  | .lamp _ => [known 0, known 0]
  | .sounder => [known 0, known 0]

/-- The channel record (R195). -/
def channelRecord (h : Hub) (c : Fin 23) : List LayoutByte :=
  let x := h.chan c
  [known (byteOf c.val), known (kindOf c).code] ++ pairBytes (some x.eff) ++ pairBytes x.pendingEff ++
    pairBytes x.taken ++ h.engineBytes c ++ [known (byteOf x.claims.length)] ++ handoverBytes x.handover ++ h.kindBytes c

/-- QUERY_CHANNEL (R18). -/
def decideQueryChannel (p : Port) (channel : Byte) (h : Hub) : Hub :=
  h.refuseFirst p (h.standing p ++ [((channelNo channel).isNone, .badChannel)])
    (match channelNo channel with
     | some c => h.respondRecord p (h.channelRecord c)
     | none => h)

/-! ## The hub record (R179, R195) -/

/-- Block marks, PORTS in bits 11-10 through CALIBRATION in bits 1-0 (R195). -/
def marksWord (h : Hub) : Nat := (List.finRange 6).foldl (fun x n => 4 * x + h.marks[n].code) 0

/-- Tenancy in bits 1-0, lease-low mark in bits 3-2; the others have no content (R195). -/
def tenancyByte (t : Tenancy) : LayoutByte :=
  ⟨0x0F, match t with
         | .detached => 0
         | .attached ⟨_, _, .pending, _⟩ => 5
         | .attached ⟨_, _, .passed, _⟩ => 9
         | .lapsed => 2⟩

/-- Holding, tenancy and mark of one port (R195). -/
def portBytes (h : Hub) (p : Port) : List LayoutByte :=
  [known (byteOf (h.holding p)), tenancyByte (h.port p).tenancy]

/-- The relay output image as a number, bit n for RLYn (R110). -/
def imageWord (h : Hub) : Nat :=
  (List.finRange 12).foldl (fun x r => if h.relayImage[r] then x + 2 ^ r.val else x) 0

/-- Byte 15: WRITING and the block (R195). -/
def storeByte (h : Hub) : LayoutByte :=
  match h.storeOp with
  | some x => ⟨0x87, byteOf (128 + x.1.code)⟩
  | none => ⟨0x80, 0⟩

/-- Byte 16: the last store outcome and its block (R195). -/
def outcomeByte (h : Hub) : LayoutByte :=
  match h.lastStore with
  | some x => ⟨0xC7, byteOf ((if x.ok then 64 else 128) + x.block.code)⟩
  | none => ⟨0xC0, 0⟩

/-- The hub record (R195). -/
def hubRecord (h : Hub) : List LayoutByte :=
  [known h.mode.code, known h.faults, known (byteOf h.firstFault), known h.cause.code,
    ⟨0x0F, byteOf (h.marksWord / 256)⟩, known (byteOf h.marksWord), known (byteOf h.poolCount)] ++
    Port.all.flatMap h.portBytes ++
    [⟨0x0F, byteOf (h.imageWord / 256)⟩, known (byteOf h.imageWord), h.storeByte, h.outcomeByte]

/-- QUERY_HUB: answered in every mode and tenancy state (R179). -/
def decideQueryHub (p : Port) (h : Hub) : Hub := h.respondRecord p h.hubRecord

end Hub

/-- QUERY_HUB. -/
def execQueryHub (p : Port) (s : State) : Host.Outcome State Fault Refusal := onRequest p (Hub.decideQueryHub p) s

/-- QUERY_CHANNEL. -/
def execQueryChannel (p : Port) (channel : Byte) (s : State) : Host.Outcome State Fault Refusal :=
  onRequest p (Hub.decideQueryChannel p channel) s

end Sys2Proof.Machine
end

