-- ==== Sys2Proof/Machine/Tenancy.lean ====
section
/-! DEFINITION. Meanings of the tenancy commands: ATTACH, DETACH, KEEP, LEASE_LOW, LAPSE, PORT_RESET and its release
(chapter 4). -/

namespace Sys2Proof.Machine

namespace Hub

/-- The tenancy record of a port. -/
def setTenancy (p : Port) (t : Tenancy) (h : Hub) : Hub := h.modPort p fun x => { x with tenancy := t }

/-- Flags, change set and asked set cleared, the mask set as given (R66, R69). -/
def clearPort (p : Port) (mask : BitVec 14) (h : Hub) : Hub :=
  h.modPort p fun x => { x with flags := 0, change := 0, asked := 0, mask := mask }

/-- FAULT is set on an attaching port while the current fault set is not empty (R66). -/
def giveFault (p : Port) (h : Hub) : Hub := if h.faults = 0 then h else h.giveFlag p .fault

/-- A port becomes ATTACHED with a fresh lease run, its flags and sets empty and every flag enabled (R66, R67). -/
def attachPort (p : Port) (h : Hub) : Hub :=
  (h.setTenancy p (.attached (h.newLease p))).clearPort p (BitVec.allOnes 14)

/-- The channels on which an orphan of the port wins: after adoption an adopted claim wins there (R35). -/
def orphanWins (h : Hub) (p : Port) : List (Fin 23) :=
  (List.finRange 23).filter fun c => h.winnerPort c == some p && h.hasOrphan p c

/-- ATTACH from LAPSED (R67). -/
def reattach (p : Port) (h : Hub) : Hub :=
  let adopted := ((List.finRange 23).filter (h.hasOrphan p)).length
  let attached := (h.adoptClaims p).attachPort p
  let told := (h.orphanWins p).foldl (fun x c => x.giveFlagOn p .won c) attached
  (told.giveFault p).respond p .ok [byteOf adopted]

/-- ATTACH (R66, R67, R68). -/
def decideAttach (p : Port) (h : Hub) : Hub :=
  h.refuseFirst p [(h.mode == .startup, .starting)]
    (match (h.port p).tenancy with
     | .detached => ((h.attachPort p).giveFault p).respond p .ok [0]
     | .lapsed => h.reattach p
     | .attached _ => h.respond p .already [0])

/-- The port leaves tenancy: its record is DETACHED, its claims go, its flags, sets and mask are cleared (R69). -/
def leave (p : Port) (h : Hub) : Hub := ((h.setTenancy p .detached).removeClaims p).clearPort p 0

/-- DETACH (R69). -/
def decideDetach (p : Port) (h : Hub) : Hub :=
  h.refuseFirst p [(h.mode == .startup, .starting), ((h.port p).tenancy == .detached, .notAttached)]
    ((h.leave p).respond p .ok [byteOf (h.holding p)])

/-- KEEP (R65). -/
def decideKeep (p : Port) (h : Hub) : Hub := h.refuseFirst p (h.standing p) (h.respond p .ok [])

/-- The half point of a lease run, whose mark is PENDING (R62). The time left is then half the duration at most
(log 4). That of a run which a frame has cut short at this moment does not happen (R62, log 26). -/
def leaseHalf (p : Port) (h : Hub) : Hub :=
  match (h.port p).tenancy with
  | .attached ⟨duration, left, .pending, false⟩ =>
    (h.setTenancy p (.attached ⟨duration, min left (duration / 2), .passed, false⟩)).giveFlag p .leaseLow
  | .attached ⟨duration, left, .pending, true⟩ => h.setTenancy p (.attached ⟨duration, left, .pending, false⟩)
  | .attached ⟨_, _, .passed, _⟩ => h
  | .detached => h
  | .lapsed => h

/-- The lapse of a port (R63). The expiry of a run which a frame has cut short at this moment does not happen (R64,
log 26). An ANSWER of the holder is such a frame; R90 lets a lapse follow it that finds no pending handover, and R64, no
lapse: the model follows R64 (log 30). -/
def lapsePort (p : Port) (h : Hub) : Hub :=
  match (h.port p).tenancy with
  | .attached run =>
    if run.cut then h.setTenancy p (.attached { run with cut := false }) else (h.setTenancy p .lapsed).lapseClaims p
  | .detached => h
  | .lapsed => h

/-- A port reset (R70): the receive and response buffers, the tenancy with its claims, the flags and sets; a request frame
still arriving is discarded and a read in progress ends (R181, R182). -/
def resetPort (p : Port) (h : Hub) : Hub :=
  (h.leave p).modPort p fun x => { x with rx := [], resp := none, resetLow := true, link := x.brokenOff }

end Hub

/-- ATTACH. -/
def execAttach (p : Port) (s : State) : Host.Outcome State Fault Refusal := onRequest p (Hub.decideAttach p) s

/-- DETACH. -/
def execDetach (p : Port) (s : State) : Host.Outcome State Fault Refusal := onRequest p (Hub.decideDetach p) s

/-- KEEP. -/
def execKeep (p : Port) (s : State) : Host.Outcome State Fault Refusal := onRequest p (Hub.decideKeep p) s

/-- LEASE_LOW. -/
def execLeaseLow (p : Port) (s : State) : Host.Outcome State Fault Refusal := onEvent (Hub.leaseHalf p) s

/-- LAPSE. -/
def execLapse (p : Port) (s : State) : Host.Outcome State Fault Refusal := onEvent (Hub.lapsePort p) s

/-- PORT_RESET: the change of PRSTn_N from high to low (R70); a pin that is low already makes no change (log 18). -/
def execPortReset (p : Port) (s : State) : Host.Outcome State Fault Refusal :=
  onEvent (fun h => if (h.port p).resetLow then h else h.resetPort p) s

/-- PORT_RESET_RELEASE: the port takes frames again (R71). -/
def execPortResetRelease (p : Port) (s : State) : Host.Outcome State Fault Refusal :=
  onEvent (fun h => h.modPort p fun x => { x with resetLow := false }) s

end Sys2Proof.Machine
end

