-- ==== Sys2Proof/Machine/Dispatch.lean ====
section
/-! DEFINITION. What each command does: one arm per command, each one call of its meaning. -/

namespace Sys2Proof.Machine

/-- The command's effect on the part, by the spec's rules. -/
def exec (i : Instr) (s : State) : Host.Outcome State Fault Refusal :=
  match i with
  | .attach p => Sys2Proof.Machine.execAttach p s
  | .detach p => Sys2Proof.Machine.execDetach p s
  | .keep p => Sys2Proof.Machine.execKeep p s
  | .queryHub p => Sys2Proof.Machine.execQueryHub p s
  | .readNotices p => Sys2Proof.Machine.execReadNotices p s
  | .clearNotices p flags clearSet => Sys2Proof.Machine.execClearNotices p flags clearSet s
  | .setMask p mask => Sys2Proof.Machine.execSetMask p mask s
  | .claim p channel level value policy => Sys2Proof.Machine.execClaim p channel level value policy s
  | .release p channel => Sys2Proof.Machine.execRelease p channel s
  | .releaseAll p => Sys2Proof.Machine.execReleaseAll p s
  | .clearOrphans p channel => Sys2Proof.Machine.execClearOrphans p channel s
  | .queryClaims p channel => Sys2Proof.Machine.execQueryClaims p channel s
  | .queryChannel p channel => Sys2Proof.Machine.execQueryChannel p channel s
  | .handover p channel => Sys2Proof.Machine.execHandover p channel s
  | .answer p channel answer => Sys2Proof.Machine.execAnswer p channel answer s
  | .handoverTimerExpiry c => Sys2Proof.Machine.execHandoverTimerExpiry c s
  | .chime p pitch loudness length => Sys2Proof.Machine.execChime p pitch loudness length s
  | .silence p => Sys2Proof.Machine.execSilence p s
  | .reference p channel => Sys2Proof.Machine.execReference p channel s
  | .sample p slot raw => Sys2Proof.Machine.execSample p slot raw s
  | .zero p slot amount => Sys2Proof.Machine.execZero p slot amount s
  | .ackSetpoint p setpoint => Sys2Proof.Machine.execAckSetpoint p setpoint s
  | .querySlot p slot => Sys2Proof.Machine.execQuerySlot p slot s
  | .querySetpoints p => Sys2Proof.Machine.execQuerySetpoints p s
  | .hold p => Sys2Proof.Machine.execHold p s
  | .enterHeld => Sys2Proof.Machine.execEnterHeld s
  | .resume p => Sys2Proof.Machine.execResume p s
  | .acceptFault p => Sys2Proof.Machine.execAcceptFault p s
  | .clearFirstFault p => Sys2Proof.Machine.execClearFirstFault p s
  | .resetHub p => Sys2Proof.Machine.execResetHub p s
  | .configRead p block item field => Sys2Proof.Machine.execConfigRead p block item field s
  | .configWrite p block item field value => Sys2Proof.Machine.execConfigWrite p block item field value s
  | .store p block => Sys2Proof.Machine.execStore p block s
  | .storeCompletion verified => Sys2Proof.Machine.execStoreCompletion verified s
  | .badFrame p frame => Sys2Proof.Machine.execBadFrame p frame s
  | .badRequest p code body => Sys2Proof.Machine.execBadRequest p code body s
  | .leaseLow p => Sys2Proof.Machine.execLeaseLow p s
  | .lapse p => Sys2Proof.Machine.execLapse p s
  | .portReset p => Sys2Proof.Machine.execPortReset p s
  | .portResetRelease p => Sys2Proof.Machine.execPortResetRelease p s
  | .powerOn => Sys2Proof.Machine.execPowerOn s
  | .resetNAssert => Sys2Proof.Machine.execResetNAssert s
  | .resetNRelease => Sys2Proof.Machine.execResetNRelease s
  | .endOfLoad storeAnswers => Sys2Proof.Machine.execEndOfLoad storeAnswers s
  | .stepInhibitAssert => Sys2Proof.Machine.execStepInhibitAssert s
  | .stepInhibitRelease => Sys2Proof.Machine.execStepInhibitRelease s
  | .stepCompletion u => Sys2Proof.Machine.execStepCompletion u s
  | .referencingStepCompletion u => Sys2Proof.Machine.execReferencingStepCompletion u s
  | .reversalPauseEnd u => Sys2Proof.Machine.execReversalPauseEnd u s
  | .minTimeExpiry r => Sys2Proof.Machine.execMinTimeExpiry r s
  | .deadTimerExpiry g => Sys2Proof.Machine.execDeadTimerExpiry g s
  | .decayTimerExpiry => Sys2Proof.Machine.execDecayTimerExpiry s
  | .chimeEnd => Sys2Proof.Machine.execChimeEnd s
  | .gapEnd => Sys2Proof.Machine.execGapEnd s
  | .freshnessExpiry k => Sys2Proof.Machine.execFreshnessExpiry k s
  | .delayTimerExpiry n => Sys2Proof.Machine.execDelayTimerExpiry n s
  | .flashClockLitHalfChange => Sys2Proof.Machine.execFlashClockLitHalfChange s

end Sys2Proof.Machine
end

