-- ==== Sys2Proof/Machine/Tick.lean ====
section
/-! DEFINITION. One unit of time: the timers count down, then each event that is due is taken as its command. -/

namespace Sys2Proof.Machine

/-- The events of a list that are due, each judged when its turn comes, taken as commands. -/
def runDue (events : List Instr) (s : State) : Host.Outcome State Fault Refusal :=
  match events with
  | [] => .next s
  | i :: rest =>
    if s.hub.due i then
      match exec i s with
      | .next t => runDue rest t
      | .fault f => .fault f
      | .refused r => .refused r
    else runDue rest s

/-- A unit of time passes (log 2). -/
def passUnit (s : State) : Host.Outcome State Fault Refusal :=
  runDue s.hub.unitEvents { s with hub := s.hub.countDown }

end Sys2Proof.Machine
end

