-- ==== Sys2Proof/Machine/Serial.lean ====
section
/-! DEFINITION. The serial lines of the ports, byte by byte: SPI on P0 and P1 (R181), I2C on P2 (R182). They are inputs
beside the queue, as the queue's sender is: a transaction fills the receive buffer and ends in a command that is taken at
its end, after those that wait, or shifts out the response frame (log 13). -/

namespace Sys2Proof.Machine

namespace Hub

/-- A transaction begins: nothing received yet (R180). -/
def openLink (p : Port) (x : Link) (h : Hub) : Hub := h.modPort p fun t => { t with rx := [], link := x }

/-- A transaction goes on. -/
def setLink (p : Port) (x : Link) (h : Hub) : Hub := h.modPort p fun t => { t with link := x }

/-- A byte of a request frame comes in: the receive buffer holds 15, and a later one makes the frame too long (R180,
R182, R183). -/
def receive (p : Port) (b : Byte) (h : Hub) : Hub :=
  if (h.port p).rx.length < Config.frameSize then h.modPort p fun t => { t with rx := t.rx ++ [b] }
  else h.setLink p (.request (some b))

/-- The command the end of the transaction brings: the frame of a request transaction, where a byte of it came
(R181, R182). -/
def arrival (h : Hub) (p : Port) : Option Instr :=
  match (h.port p).link with
  | .request beyond =>
    if (h.port p).rx.isEmpty then none else some (commandOfFrame p ((h.port p).rx ++ beyond.toList))
  | .idle => none
  | .selected => none
  | .reading _ => none
  | .dropped _ => none
  | .ignored => none

/-- The byte shifted out next: of the response frame, else FFh (R181, R182). -/
def byteOut (h : Hub) (p : Port) : Byte :=
  match (h.port p).link with
  | .reading left => left.head?.getD 0xFF
  | .idle => 0xFF
  | .selected => 0xFF
  | .request _ => 0xFF
  | .dropped _ => 0xFF
  | .ignored => 0xFF

/-- What the first byte of an SPI transaction selects: a read shifts out the response buffer as it stands now (R181). -/
def selectedBy (h : Hub) (p : Port) (b : Byte) : Link :=
  if b = 0x01 then .request none else if b = 0x02 then .reading (responseFrame h p) else .ignored

/-- A byte has been shifted in on a port's SPI lines, and one out (R181). -/
def shifted (p : Port) (b : Byte) (h : Hub) : Hub :=
  match (h.port p).link with
  | .selected => h.setLink p (h.selectedBy p b)
  | .request _ => h.receive p b
  | .reading left => h.setLink p (.reading left.tail)
  | .idle => h
  | .dropped _ => h
  | .ignored => h

end Hub

namespace State

/-- A number of steps, one after another. -/
def steps (n : Nat) (s : State) : State :=
  match n with
  | 0 => s
  | n + 1 =>
    match step s with
    | .next t => t.steps n
    | .fault _ => s
    | .refused _ => s

/-- A frame arrives on a port: its command is taken within the arrival (R184), after those that wait (log 13). -/
def arrive (i : Instr) (s : State) : State := { s with pending := s.pending ++ [i] }.steps (s.pending.length + 1)

/-- The transaction of a port ends, and the frame it carried arrives as a command (R181, R182). -/
def endTransaction (p : Port) (s : State) : State :=
  let ended := { s with hub := s.hub.openLink p .idle }
  match s.hub.arrival p with
  | some i => ended.arrive i
  | none => ended

/-! ## SPI, P0 and P1 (R181) -/

/-- CSn_N is asserted. -/
def spiSelect (p : Port) (s : State) : State := { s with hub := s.hub.openLink p .selected }

/-- A byte is shifted in, and the answer out. -/
def spiShift (p : Port) (b : Byte) (s : State) : State × Byte :=
  ({ s with hub := s.hub.shifted p b }, s.hub.byteOut p)

/-- CSn_N is released. -/
def spiRelease (p : Port) (s : State) : State := s.endTransaction p

/-- Bytes shifted in one after another, and the bytes shifted out. -/
def spiBytes (p : Port) (bytes : List Byte) (s : State) : State × List Byte :=
  match bytes with
  | [] => (s, [])
  | b :: rest =>
    let one := s.spiShift p b
    let more := one.1.spiBytes p rest
    (more.1, one.2 :: more.2)

/-- A whole transaction: CSn_N asserted, the bytes, CSn_N released; and the bytes shifted out. -/
def spiTransaction (p : Port) (bytes : List Byte) (s : State) : State × List Byte :=
  let clocked := (s.spiSelect p).spiBytes p bytes
  (clocked.1.spiRelease p, clocked.2)

/-! ## I2C, P2 (R182) -/

/-- A START or repeated START: a write in progress ends at it, its frame is taken, and an address is to come. -/
def i2cStart (s : State) : State :=
  let ended := s.endTransaction .p2
  { ended with hub := ended.hub.openLink .p2 .selected }

/-- The address after a START with its direction, and whether the part acknowledges it: a read shifts out the response
buffer as it stands now. -/
def i2cAddress (address : BitVec 7) (read : Bool) (s : State) : State × Bool :=
  match (s.hub.port .p2).link with
  | .selected =>
    if address = s.hub.i2cAddr then
      let link := if read then Link.reading (responseFrame s.hub .p2) else .request none
      ({ s with hub := s.hub.openLink .p2 link }, true)
    else ({ s with hub := s.hub.openLink .p2 .idle }, false)
  | .idle => (s, false)
  | .request _ => (s, false)
  | .reading _ => (s, false)
  | .dropped _ => (s, false)
  | .ignored => (s, false)

/-- A data byte of a write, and whether the part acknowledges it: the first 15, of a frame that a reset has discarded
too (log 13). -/
def i2cWrite (b : Byte) (s : State) : State × Bool :=
  match (s.hub.port .p2).link with
  | .request _ => ({ s with hub := s.hub.receive .p2 b }, decide ((s.hub.port .p2).rx.length < Config.frameSize))
  | .dropped n => ({ s with hub := s.hub.setLink .p2 (.dropped (n - 1)) }, decide (0 < n))
  | .idle => (s, false)
  | .selected => (s, false)
  | .reading _ => (s, false)
  | .ignored => (s, false)

/-- A byte of a read. -/
def i2cRead (s : State) : State × Byte :=
  match (s.hub.port .p2).link with
  | .reading left => ({ s with hub := s.hub.setLink .p2 (.reading left.tail) }, s.hub.byteOut .p2)
  | .idle => (s, 0xFF)
  | .selected => (s, 0xFF)
  | .request _ => (s, 0xFF)
  | .dropped _ => (s, 0xFF)
  | .ignored => (s, 0xFF)

/-- A STOP. -/
def i2cStop (s : State) : State := s.endTransaction .p2

/-- The data bytes of a write one after another, and their acknowledgements. -/
def i2cBytes (bytes : List Byte) (s : State) : State × List Bool :=
  match bytes with
  | [] => (s, [])
  | b :: rest =>
    let one := s.i2cWrite b
    let more := one.1.i2cBytes rest
    (more.1, one.2 :: more.2)

end State
end Sys2Proof.Machine
end

