-- ==== Sys2Proof/Safety.lean ====
section
/-! DEFINITION. The words the statements are made of: when a request is heard, what an event may reach, what a forming
leaves, and the invariants of the part. -/

namespace Sys2Proof.Machine
namespace Hub

/-! ## When a request comes past R72 -/

/-- The port takes frames, the hub is not in STARTUP, and the port is ATTACHED (R71, R72, R169). -/
abbrev MayAsk (p : Port) (h : Hub) : Prop := h.takesFrames p = true ∧ h.mode ≠ .startup ∧ h.attached p = true

/-- A request of `p` that needs the configuration grant comes past its first three checks (R171 to R178). -/
abbrev MayAskGranted (p : Port) (h : Hub) : Prop := h.MayAsk p ∧ (h.portItem p).configGrant = true

end Hub

/-- A request is answered with a refusal, and but for the lease restart changes nothing else. -/
def RefusedWith (i : Instr) (p : Port) (r : Result) (s : State) : Prop :=
  exec i s = .next { s with hub := (Hub.restartLease p s.hub).respond p r [] }

/-- The refusals of a request in the order of its checks: where the first check whose condition holds stands, its result is
the answer; where none holds nothing is said. -/
def RefusedInOrder (i : Instr) (p : Port) (s : State) : List (Prop × Result) → Prop
  | [] => True
  | (failing, r) :: rest => (failing → RefusedWith i p r s) ∧ (¬ failing → RefusedInOrder i p s rest)

namespace Hub

/-! ## What an event may reach -/

/-- A hand-over to a channel of `C` may move relay `r`: the relay's own channel is in `C`, or that of a relay whose group
names it (R96, R99). -/
def reachesRelay (h : Hub) (C : Fin 23 → Bool) (r : Fin 12) : Bool :=
  (List.finRange 12).any fun q => C (relayChannel q) && (q == r || (h.groupOf q).any fun g => h.namesRelay g r)

/-- A hand-over to a channel of `C` may start the dead timer of group `g` (R98). -/
def reachesGroup (h : Hub) (C : Fin 23 → Bool) (g : Fin 4) : Bool :=
  (List.finRange 12).any fun r => h.reachesRelay C r && h.groupOf r == some g

/-- From `h` to `t` nothing moved but the channel records of `C`, the outputs that hand-overs to `C` may move, and the
notice flags, change sets and asked sets of ports: flags and change sets only gain, on ATTACHED ports only; change sets
gain channels of `C` and of relays reached; asked sets differ in channels of `C` only. -/
structure Reach (C : Fin 23 → Bool) (h t : Hub) : Prop where
  rest : t = { h with
    ports := t.ports, channels := t.channels, relays := t.relays, dead := t.dead, lamps := t.lamps
    sounder := t.sounder, steppers := t.steppers }
  ports : ∀ p, t.port p =
    { h.port p with flags := (t.port p).flags, change := (t.port p).change, asked := (t.port p).asked }
  unattached : ∀ p, h.attached p = false →
    (t.port p).flags = (h.port p).flags ∧ (t.port p).change = (h.port p).change
  flagsGain : ∀ p n, (h.port p).flags.getLsbD n = true → (t.port p).flags.getLsbD n = true
  changeGains : ∀ p n, (h.port p).change.getLsbD n = true → (t.port p).change.getLsbD n = true
  changeFrom : ∀ p (c : Fin 23), (t.port p).change.getLsbD c = true →
    (h.port p).change.getLsbD c = true ∨ C c = true ∨ ∃ r, c = relayChannel r ∧ h.reachesRelay C r = true
  asked : ∀ p (c : Fin 23), C c = false → (t.port p).asked.getLsbD c = (h.port p).asked.getLsbD c
  channels : ∀ c, C c = false → t.chan c = h.chan c
  relays : ∀ r, h.reachesRelay C r = false → t.relay r = h.relay r
  dead : ∀ g, h.reachesGroup C g = false → t.deadTimer g = h.deadTimer g
  lamps : ∀ l, C (lampChannel l) = false → t.lamp l = h.lamp l
  sounder : C soundChannel = false → t.sounder = { h.sounder with mute := t.sounder.mute }
  steppers : ∀ u, C (stepperChannel u) = false → t.stepper u = h.stepper u
  mute : (∀ u, C (stepperChannel u) = false) → t.sounder.mute = h.sounder.mute

/-- The set of one channel. -/
def only (c : Fin 23) (k : Fin 23) : Bool := k == c

/-- The channels on which a port holds a claim, as a set. -/
def heldBy (h : Hub) (p : Port) (c : Fin 23) : Bool := h.holdsClaim p c

/-- What the sounder, the lamps, the relays and the steppers show and hold is the same in both. -/
structure SameOutputs (h t : Hub) : Prop where
  relays : t.relays = h.relays
  dead : t.dead = h.dead
  lamps : t.lamps = h.lamps
  sounder : t.sounder = h.sounder
  steppers : t.steppers = h.steppers

/-! ## What a forming leaves -/

/-- The effective command and source of a channel are those of R12, judged on its list and its local input. The value of
a fallback STAY is the stay value. -/
def EffectiveStands (h : Hub) (c : Fin 23) : Prop :=
  (h.chan c).eff.source = h.sourceOf c ∧
    match (h.chan c).claims with
    | x :: _ => (h.chan c).eff.command = x.value
    | [] =>
      match (h.chan c).input.value with
      | .command v => (h.chan c).eff.command = v
      | .position p => (h.chan c).eff.command = .target p (h.refRateOf c)
      | .stay => (h.chan c).input.driven = false → (h.chan c).stay = some (h.chan c).eff.command

/-- In RUN the channel's engine has taken the effective command with its source; in every other mode the pending-effective
command is that pair where it differs from the taken one, and absent where it does not (R13, R14). -/
def EnginePassed (h : Hub) (c : Fin 23) : Prop :=
  if h.mode = .run then (h.chan c).taken = some (h.chan c).eff
  else (h.chan c).pendingEff = if (h.chan c).taken = some (h.chan c).eff then none else some (h.chan c).eff

/-- The channel stands as a forming leaves it (R40). -/
structure Formed (c : Fin 23) (h : Hub) : Prop where
  winner : (h.chan c).winner = h.winnerPort c
  effective : h.EffectiveStands c
  passed : h.EnginePassed c

/-- The value R11 gives the STAY of stepper `u` at an event: TARGET of the position counter, or of the position the step in
progress will reach, or of 0 where the stepper is not REFERENCED, at the reference rate index. -/
def stayOf (h : Hub) (u : Fin 2) : Command :=
  .target
    (if (h.stepper u).ref = .referenced then
      match (h.stepper u).engine with
      | .moving .up _ => (h.stepper u).pos + 1
      | .moving .down _ => (h.stepper u).pos - 1
      | _ => (h.stepper u).pos
    else 0)
    h.work.steppers[u].refRate

/-- The list of a channel is empty and its local input is the fallback STAY: FALLBACK is the source, STAY the command
(R11, R12). -/
def RestsOnStay (h : Hub) (c : Fin 23) : Prop := (h.chan c).claims = [] ∧ (h.chan c).input = ⟨.stay, false⟩

/-- The stay value of stepper `u` after a forming of its channel with the cause given, `h` before the forming and `t` after it
(R11, R49). -/
structure StayFormed (u : Fin 2) (cause : FormCause) (h t : Hub) : Prop where
  /-- Case 1: FALLBACK has become the source. -/
  taken : h.RestsOnStay (stepperChannel u) → (h.chan (stepperChannel u)).eff.source ≠ .fallback → cause ≠ .rateWrite →
    (t.chan (stepperChannel u)).stay = some (h.stayOf u)
  /-- Cases 2 and 5: a fallback written to STAY from POSITION, and the end of the load. -/
  passed : h.RestsOnStay (stepperChannel u) → cause = .pass true ∨ cause = .load →
    (t.chan (stepperChannel u)).stay = some (h.stayOf u)
  /-- Case 3: a write of the reference rate index keeps the position. -/
  rated : h.RestsOnStay (stepperChannel u) → cause = .rateWrite → ∀ q r, (h.chan (stepperChannel u)).stay = some (.target q r) →
    (t.chan (stepperChannel u)).stay = some (.target q h.work.steppers[u].refRate)
  /-- In any other forming it is kept. -/
  kept : h.RestsOnStay (stepperChannel u) → (h.chan (stepperChannel u)).eff.source = .fallback →
    cause = .edit ∨ cause = .pass false → ∀ v, (h.chan (stepperChannel u)).stay = some v →
    (t.chan (stepperChannel u)).stay = some v
  /-- Case 4, and a fallback of POSITION. -/
  absent : ¬ h.RestsOnStay (stepperChannel u) → (t.chan (stepperChannel u)).stay = none
  /-- STAY as the source is the stay value; POSITION is its position at the reference rate index. -/
  supplies : h.RestsOnStay (stepperChannel u) → ∀ v, (t.chan (stepperChannel u)).stay = some v →
    (t.chan (stepperChannel u)).eff = ⟨v, .fallback⟩
  position : ∀ p, (h.chan (stepperChannel u)).claims = [] → (h.chan (stepperChannel u)).input = ⟨.position p, false⟩ →
    (t.chan (stepperChannel u)).eff = ⟨.target p h.work.steppers[u].refRate, .fallback⟩

/-- The stay value of a channel formed after an edit of its claim list, `h` before the edit and `t` after the event: taken
from the stepper as it stood where the list has emptied, absent where a claim stands (R49, cases 1 and 4). -/
structure StayTaken (c : Fin 23) (h t : Hub) : Prop where
  emptied : ∀ u, c = stepperChannel u → t.RestsOnStay c → (h.chan c).eff.source ≠ .fallback →
    (t.chan c).stay = some (h.stayOf u)
  claimed : (t.chan c).claims ≠ [] → (t.chan c).stay = none

/-- A port has a flag set. -/
def hasFlag (h : Hub) (p : Port) (f : Flag) : Bool := (h.port p).flags.getLsbD f.bit

/-- A port's change set holds a channel. -/
def hasChange (h : Hub) (p : Port) (c : Fin 23) : Bool := (h.port p).change.getLsbD c.val

/-! ## What handovers, setpoint events, mode changes and resets leave -/

/-- A handover on channel `c` is resolved with outcome `o` (R85, R86): the record, the asked set, HANDOVER_DONE to an
ATTACHED requester; a grant reorders the list and forms the channel, another outcome moves no output. -/
structure Resolved (c : Fin 23) (o : HandoverOutcome) (requester holder : Port) (grants : Bool) (h t : Hub) : Prop where
  record : (t.chan c).handover = ⟨none, some ⟨o, requester, holder⟩⟩
  asked : (t.port holder).asked.getLsbD c.val = false
  told : h.attached requester = true → t.hasFlag requester .handoverDone = true ∧ t.hasChange requester c = true
  claims : (t.chan c).claims =
    if grants then grantReorder requester holder (h.chan c).claims else (h.chan c).claims
  formed : grants = true → t.Formed c
  refused : grants = false → h.SameOutputs t ∧ t.chan c = { h.chan c with handover := (t.chan c).handover }
  reach : Reach (only c) h t

/-- The outcome that the removal of port `p`'s claim from channel `c` gives a handover pending there (R87, R88): VACATED where
the port is holder, CANCELLED where it is requester, none where it is neither or holds no claim there. -/
def removalOutcome (h : Hub) (p : Port) (c : Fin 23) (w : PendingHandover) : Option HandoverOutcome :=
  if h.holdsClaim p c = false then none
  else if p = w.holder then some .vacated
  else if p = w.requester then some .cancelled
  else none

/-- The outcome a lapse of port `p` gives a handover pending on channel `c` (R63, R88): a holder's DROP claim leaves it
VACATED, a KEEP claim settles it by the channel's default outcome, a requester's claim of either policy leaves it
CANCELLED. -/
def lapseOutcome (h : Hub) (p : Port) (c : Fin 23) (w : PendingHandover) : Option HandoverOutcome :=
  match claimOf p (h.chan c).claims with
  | none => none
  | some x =>
    if p = w.holder then
      some (match x.policy with
        | .drop => .vacated
        | .keep => if h.work.handovers[c].grant then .timedOutGranted else .timedOutDenied)
    else if p = w.requester then some .cancelled
    else none

/-- The handover of channel `c` is settled from `h` to `t` by the outcome given (R86 to R88): with one, the record is NONE with
it as the last outcome, the channel is out of the holder's asked set, and a requester that is ATTACHED at the end has
HANDOVER_DONE with the channel in its change set; with none, or with no handover pending, the record stays. -/
def HandoverSettled (c : Fin 23) (outcome : PendingHandover → Option HandoverOutcome) (h t : Hub) : Prop :=
  match (h.chan c).handover.pending with
  | none => (t.chan c).handover = (h.chan c).handover
  | some w =>
    match outcome w with
    | none => (t.chan c).handover = (h.chan c).handover
    | some o =>
      (t.chan c).handover = ⟨none, some ⟨o, w.requester, w.holder⟩⟩ ∧ (t.port w.holder).asked.getLsbD c.val = false ∧
        (t.attached w.requester = true →
          t.hasFlag w.requester .handoverDone = true ∧ t.hasChange w.requester c = true)

/-- An event that changed slots or setpoints is settled (R163, R164): `h` before it, `m` with its slots and setpoints
written, `t` after it. Only channels whose drivers changed are formed; the claims, winners and handovers of every channel
stay; SETPOINT goes to every ATTACHED port exactly where some setpoint passed into or out of a driving state. -/
structure Settled (h m t : Hub) : Prop where
  reach : Reach (fun c => (channelsTouched h m []).contains c) m t
  claims : ∀ c, (t.chan c).claims = (m.chan c).claims ∧ (t.chan c).handover = (m.chan c).handover
  layers : ∀ c, (channelsTouched h m []).contains c = true → (t.chan c).input = m.localLayer c
  told : (∃ n, drivingChanged h m n = true) → ∀ p, m.attached p = true → t.hasFlag p .setpoint = true
  untold : (∀ n, drivingChanged h m n = false) → t = m

/-- The hub has entered RUN (R15, R168): every unit runs, every channel's engine holds what waited for it, nothing waits;
claims, winners, handovers, tenancies, slots, setpoints, configuration and faults stay as they were. -/
structure EnteredRun (h t : Hub) : Prop where
  mode : t.mode = .run
  relays : t.relayCond = .running
  sounder : t.sounder.cond = .running
  steppers : ∀ u, (t.stepper u).cond = .running
  channels : ∀ c, t.chan c =
    { h.chan c with
      pendingEff := none
      taken := if h.starting then some (h.chan c).eff
        else ((h.chan c).pendingEff.map some).getD (h.chan c).taken }
  ports : ∀ p, t.port p = { h.port p with flags := (t.port p).flags, change := (t.port p).change }
  rest : t = { h with
    mode := t.mode, ports := t.ports, channels := t.channels, relayCond := t.relayCond, relays := t.relays
    dead := t.dead, lamps := t.lamps, sounder := t.sounder, steppers := t.steppers }

/-- The decision of R116 of a REFERENCED stepper, `h` before it and `t` after it: an arrival, a pause for STEP_INHIBIT, a
reversal pause, or a step toward the pursued position. -/
structure Decided (u : Fin 2) (h t : Hub) : Prop where
  arrival : (h.stepper u).pos = h.pursued u →
    t.stepper u = { h.stepper u with engine := .idle, lastDir := none } ∧
      ∀ v q level, (h.chan (stepperChannel u)).taken = some ⟨v, .port q level⟩ → h.attached q = true →
        t.hasFlag q .arrived = true ∧ t.hasChange q (stepperChannel u) = true
  pause : (h.stepper u).pos ≠ h.pursued u → h.stepInhibit = true →
    t.stepper u = { h.stepper u with engine := .paused, lastDir := none }
  reversal : ∀ d : Dir, (h.stepper u).pos ≠ h.pursued u → h.stepInhibit = false →
    d = (if (h.stepper u).pos < h.pursued u then .up else .down) → (h.stepper u).lastDir = some d.opposite →
    t.stepper u = { h.stepper u with engine := .reversing (Config.ms 40) }
  step : ∀ d : Dir, (h.stepper u).pos ≠ h.pursued u → h.stepInhibit = false →
    d = (if (h.stepper u).pos < h.pursued u then .up else .down) → (h.stepper u).lastDir ≠ some d.opposite →
    t.stepper u =
      { h.stepper u with engine := .moving d (Config.stepTime (h.takenRate u)), dirUp := d == .up }

/-- The part at the thaws of an entry into RUN from `h` to `t`: the hand-overs made, the steppers' conditions still to
change (R15, R168). -/
def atThaw (h t : Hub) : Hub := { h with mode := .run, channels := t.channels, lamps := t.lamps }

/-- The engines of a part that was frozen have thawed at the entry into RUN from `h` to `t` (R107, R123, R126, R127, R145,
R168). -/
structure Thawed (h t : Hub) : Prop where
  /-- An ungrouped relay takes the cell of R95 from its FROZEN state of ON or OFF. -/
  relays : ∀ r, h.groupOf r = none →
    ((h.relay r).state = .off → t.relay r =
      if t.asksOn r then
        if h.minOffRunning r then { h.relay r with state := .waitMinOff, leave := none }
        else ⟨.on, none, true, minOnRun (Config.ms (100 * h.work.relays[r].minOn))⟩
      else h.relay r) ∧
    ((h.relay r).state = .on → t.relay r =
      if t.asksOn r then h.relay r
      else if h.minOnRunning r then { h.relay r with state := .waitMinOn, leave := some .command }
      else ⟨.off, none, false, minOffRun (Config.ms (100 * h.work.relays[r].minOff))⟩)
  /-- Each group in use runs its contest. -/
  groups : t.relays = (h.atThaw t).thawRelays.relays ∧ t.dead = (h.atThaw t).thawRelays.dead
  told : ∀ p c, (h.atThaw t).thawRelays.hasFlag p .interlock = true → (h.atThaw t).thawRelays.hasChange p c = true →
    t.hasFlag p .interlock = true ∧ t.hasChange p c = true
  /-- A TONE held starts at its commanded loudness; with OFF the sounder stays as it is, the number its level holds too
  (log 25). -/
  tone : ∀ pitch loudness d, t.soundCommand = some (.tone pitch loudness d) →
    t.sounder.tone = .sounding ∧ t.sounder.level = loudness ∧ t.sounder.decay = decayTimer d loudness
  silence : t.soundCommand = some .off →
    t.sounder = { h.sounder with cond := .running, mute := t.sounder.mute }
  chimes : t.sounder.queue = h.sounder.queue ∧ t.sounder.engine = h.sounder.engine
  /-- A drain is withdrawn: the step in progress goes on. -/
  drains : ∀ u, (h.stepper u).cond = .draining → h.starting = false →
    t.stepper u = { h.stepper u with cond := .running }
  /-- A REFERENCED stepper that was handed a command change or is away from its pursued position decides. -/
  decides : ∀ u, (h.stepper u).cond = .stopped → (h.stepper u).ref = .referenced →
    h.waitingChange h.starting u = true ∨ (h.stepper u).pos ≠ (h.atThaw t).pursued u →
    Decided u ((h.atThaw t).modStepper u fun x => { x with cond := .running }) t
  stays : ∀ u, (h.stepper u).cond = .stopped →
    (h.stepper u).ref = .referenced ∧ h.waitingChange h.starting u = false ∧
        (h.stepper u).pos = (h.atThaw t).pursued u ∨
      (h.stepper u).ref = .unreferenced ∧ (h.starting = false ∨ (h.stepperItem u).autoRef = false) →
    t.stepper u = { h.stepper u with cond := .running }
  /-- An UNREFERENCED stepper with auto-reference on starts its run at an entry from STARTUP or FAULT_HOLD. -/
  references : ∀ u, h.starting = true → (h.stepperItem u).autoRef = true → (h.stepper u).ref = .unreferenced →
    (t.stepper u).ref = .referencing ∧ (t.stepper u).refReq = false ∧
      (t.stepper u).runCount = (h.stepperItem u).travel + (h.stepperItem u).overtravel ∧
      (t.stepper u).engine =
        if (h.stepper u).lastDir = some .up then .reversing (Config.ms 40)
        else if h.stepInhibit then .paused else .referencing (Config.stepTime (h.stepperItem u).refRate)

/-- The hub has been reset (R169) for `cause` from `h`: what R16, R38, R39, R76, R77, R108, R128, R134, R146, R149, R155 and
R167 say of their records. A stepper's STAY is TARGET of its kept position or 0 (R11, R16) with the reference rate index of the
working copy (log 22). The working copies and the first-fault record stay; so do the contents of the stored copies, of which a
write in flight leaves its own with a bad checksum (log 29). -/
structure WasReset (cause : ResetCause) (h t : Hub) : Prop where
  controller : t.mode = .startup ∧ t.cause = cause ∧ t.faults = 0 ∧ t.firstFault = h.firstFault ∧
    t.marks = Vector.replicate 6 .unread ∧ t.storeOp = none ∧ t.lastStore = none
  store : t.work = h.work ∧ t.stored = h.stored ∧
    ∀ b : Block, t.storedGood[b.idx] = if h.writingBlock b then false else h.storedGood[b.idx]
  ports : ∀ p, t.port p = (h.port p).afterReset
  channels : ∀ c, (t.chan c).claims = [] ∧ (t.chan c).winner = none ∧ (t.chan c).taken = none ∧
    (t.chan c).handover = ⟨none, none⟩ ∧ (t.chan c).input = ⟨factoryFallback c, false⟩ ∧
    (t.chan c).pendingEff = some (t.chan c).eff ∧ (t.chan c).eff.source = .fallback
  commands : ∀ c, kindOf c ≠ .stepper → (t.chan c).eff.command = .off ∧ (t.chan c).stay = none
  stays : ∀ u,
    let stay := Command.target (if (t.stepper u).ref = .referenced then (t.stepper u).pos else 0) h.work.steppers[u].refRate
    (t.chan (stepperChannel u)).eff.command = stay ∧ (t.chan (stepperChannel u)).stay = some stay
  relays : t.relayCond = .frozen ∧
    ∀ r, (t.relay r).state = .off ∧ (t.relay r).output = false ∧ (t.relay r).mark = .fromReset
  /-- Every group's dead time is counted from the reset (R108). -/
  dead : ∀ g, t.deadTimer g = .fromReset
  lamps : (∀ l, t.lamp l = .dark) ∧ t.flash = none
  sounder : t.sounder.cond = .frozen ∧ t.sounder.tone = .silent ∧ t.sounder.decay = none ∧ t.sounder.queue = [] ∧
    t.sounder.engine = .ready ∧ t.sounder.mute = false
  steppers : ∀ u, (t.stepper u).engine = .idle ∧ (t.stepper u).cond = .stopped ∧ (t.stepper u).lastDir = none ∧
    (t.stepper u).runCount = 0 ∧ (t.stepper u).refReq = false ∧
    (t.stepper u).ref = (if cause = .software ∧ (h.stepper u).ref = .referenced then .referenced else .unreferenced) ∧
    ((t.stepper u).ref = .referenced → (t.stepper u).pos = (h.stepper u).pos)
  /-- The load, and with it the MIN_OFF runs and dead times of R108, are counted from the reset. -/
  elapsed : t.loadElapsed = 0
  measurement : (∀ k, t.slot k = ⟨.empty, 0, none, false⟩) ∧ ∀ n, t.setpoint n = ⟨.inactive, false, none, false⟩
  pins : t.stepInhibit = h.stepInhibit ∧ t.adr0 = h.adr0 ∧ t.adr1 = h.adr1 ∧ t.freeCount = h.freeCount

/-- The start-up load has ended, from `h` to `m`, short of its change of mode (R170, steps 1 to 4): `m.work` is the loaded
configuration. -/
structure Loaded (h m : Hub) : Prop where
  rest : m = { h with
    work := m.work, marks := m.marks, faults := m.faults, firstFault := m.firstFault, ports := m.ports
    channels := m.channels, relays := m.relays, dead := m.dead, lamps := m.lamps, flash := m.flash
    sounder := m.sounder, steppers := m.steppers }
  ports : ∀ p, m.port p = { h.port p with flags := (m.port p).flags, change := (m.port p).change }
  /-- The MIN_OFF runs the reset started take their loaded lengths, counted from the reset (R108). -/
  relays : ∀ r, m.relay r =
    { h.relay r with mark := minOffRun (Config.ms (100 * m.work.relays[r].minOff) - h.loadElapsed) }
  /-- So do the dead timers of the groups in use; a group not in use has its own EXPIRED (R108, log 21). -/
  dead : ∀ g, m.deadTimer g =
    if m.groupInUse g then deadRun (Config.ms (10 * m.work.groups[g].deadTime) - h.loadElapsed) false else .expired
  /-- A kept reference above the loaded travel limit is lost (R128). -/
  steppers : ∀ u, m.stepper u = { h.stepper u with
    ref := if (h.stepper u).ref = .referenced ∧ m.work.steppers[u].travel < (h.stepper u).pos then .unreferenced
      else (h.stepper u).ref }
  sounder : m.sounder = { h.sounder with mute := m.muteValue }
  /-- Every channel takes the local layer of the loaded configuration and is formed (R16, R170). -/
  channels : ∀ c, (m.chan c).claims = (h.chan c).claims ∧ (m.chan c).taken = (h.chan c).taken ∧
    (m.chan c).handover = (h.chan c).handover ∧ (m.chan c).input = m.localLayer c ∧ m.Formed c
  /-- A fallback STAY that is the source takes the position of the stepper as it now stands (R11, R49). -/
  stays : ∀ u,
    let x := m.chan (stepperChannel u)
    (x.claims = [] ∧ x.input.value = .stay → (h.stepper u).engine = .idle →
      x.stay = some (.target (if (m.stepper u).ref = .referenced then (m.stepper u).pos else 0)
        m.work.steppers[u].refRate)) ∧
    (¬ (x.claims = [] ∧ x.input.value = .stay) → x.stay = none)
  lamps : m.flash = some 0 ∧ ∀ l, m.lamp l = lampDrive (some 0) (h.chan (lampChannel l)).taken

/-! ## What a configuration write may not give -/

/-- The low three bytes of a value spell a command value of a kind that fallbacks and setpoints give, each field within its
range (R3 to R6, R191); the high byte is zero (R193). -/
def CommandWord (k : Kind) (n : Nat) : Prop :=
  match k with
  | .relay => n = 0 ∨ n = 0x010000
  | .lamp => n = 0 ∨ ∃ form b, 2 ≤ form ∧ form ≤ 4 ∧ 1 ≤ b ∧ b ≤ 8 ∧ n = 65536 * form + 256 * b
  | .sounder => n = 0 ∨ ∃ pitch loudness decay, pitch ≤ 7 ∧ 1 ≤ loudness ∧ loudness ≤ 8 ∧ decay ≤ 2 ∧
      n = 0x050000 + 256 * pitch + 16 * loudness + decay
  | .stepper => False

/-- A value spells a fallback that channel `c` takes (R9): on a stepper STAY, or POSITION up to the travel limit. -/
def FallbackWord (h : Hub) (c : Fin 23) (n : Nat) : Prop :=
  match outputOf c with
  | .relay _ => CommandWord .relay n
  | .lamp _ => CommandWord .lamp n
  | .sounder => CommandWord .sounder n
  | .stepper u => n = 0x070000 ∨ ∃ p, p ≤ h.work.steppers[u].travel ∧ p < 4096 ∧ n = 0x080000 + p

/-- A travel limit of `n` for stepper `u` is out of range, or below the position of a REFERENCED stepper, a claim target or a
POSITION fallback (R9, R177). -/
def TravelRefused (h : Hub) (u : Fin 2) (n : Nat) : Prop :=
  n < 1 ∨ 4095 < n ∨ ((h.stepper u).ref = .referenced ∧ n < (h.stepper u).pos) ∨
    (∃ x ∈ (h.chan (stepperChannel u)).claims, ∃ p r, x.value = .target p r ∧ n < p) ∨
    ∃ p, h.work.fallbacks[stepperChannel u] = .position p ∧ n < p

/-- A PORTS write is refused: R22, R60, R175, R193, and the last configuration grant of R177. -/
def PortRefuses (h : Hub) (p : Port) (field : Nat) (v : BitVec 32) : Prop :=
  match field with
  | 0 => 1 < v.toNat ∨ (v.toNat = 0 ∧ ∀ q, q ≠ p → (h.portItem q).configGrant = false)
  | 1 => 1 < v.toNat
  | 2 => 48 < v.toNat ∨ v.toNat < h.holding p
  | 3 => v.toNat < 1 ∨ 255 < v.toNat
  | _ => True

/-- A CHANNELS write is refused: R3, R9, R78, R193. -/
def ChannelRefuses (h : Hub) (c : Fin 23) (field : Nat) (v : BitVec 32) : Prop :=
  match field with
  | 0 => ¬ h.FallbackWord c v.toNat
  | 1 => v.toNat < 5 ∨ 127 < v.toNat
  | 2 => 1 < v.toNat
  | 3 =>
    match outputOf c with
    | .relay _ => 255 < v.toNat
    | .lamp _ => True
    | .sounder => 1 < v.toNat
    | .stepper u => h.TravelRefused u v.toNat
  | 4 =>
    match outputOf c with
    | .relay _ => 255 < v.toNat
    | .stepper _ => 255 < v.toNat
    | _ => True
  | 5 =>
    match outputOf c with
    | .stepper _ => 8 < v.toNat
    | _ => True
  | 6 =>
    match outputOf c with
    | .stepper _ => 1 < v.toNat
    | _ => True
  | _ => True

/-- A GROUPS write is refused: R97, R193. -/
def GroupRefuses (h : Hub) (g : Fin 4) (field : Nat) (v : BitVec 32) : Prop :=
  let named := ((List.finRange 12).filter fun r => v.getLsbD r.val).length
  match field with
  | 0 => 4095 < v.toNat ∨ named = 1 ∨ 4 < named ∨
      ∃ k : Fin 4, k ≠ g ∧ ∃ r : Fin 12, h.namesRelay k r = true ∧ v.getLsbD r.val = true
  | 1 => 255 < v.toNat
  | 2 => 1 < v.toNat
  | _ => True

/-- A SLOTS write is refused: R149, R193. -/
def SlotRefuses (field : Nat) (v : BitVec 32) : Prop :=
  match field with
  | 0 => 1 < v.toNat
  | 1 => 2 < v.toNat
  | 2 => 255 < v.toNat
  | _ => True

/-- A SETPOINTS write is refused: R155, R156, R193. -/
def SetpointRefuses (h : Hub) (n : Fin 16) (field : Nat) (v : BitVec 32) : Prop :=
  match field with
  | 0 => 1 < v.toNat
  | 1 => 7 < v.toNat
  | 2 => 1 < v.toNat
  | 3 => v.toInt < -2000000000 ∨ 2000000000 < v.toInt
  | 4 => v.toInt < 0 ∨ 2000000000 < v.toInt
  | 5 => 255 < v.toNat
  | 6 => 255 < v.toNat
  | 7 => 20 < v.toNat
  | 8 => ¬ CommandWord (kindOf (targetChannel h.work.setpoints[n].target)) v.toNat
  | 9 => 1 < v.toNat
  | 10 => 1 < v.toNat
  | _ => True

/-- A CALIBRATION write is refused: R149, R193. -/
def CalibrationRefuses (field : Nat) (v : BitVec 32) : Prop :=
  match field with
  | 0 => v.toNat < 1 ∨ 65535 < v.toNat
  | 1 => v.toInt < -1000000 ∨ 1000000 < v.toInt
  | _ => True

/-- Check 6 of R177 refuses a write to a block: the item does not exist, or its rule refuses the write. -/
def Unwritable (h : Hub) (b : Block) (item field : Byte) (v : BitVec 32) : Prop :=
  match b with
  | .ports => ∀ p : Port, item.toNat = p.idx.val → h.PortRefuses p field.toNat v
  | .channels => ∀ c : Fin 23, item.toNat = c.val → h.ChannelRefuses c field.toNat v
  | .groups => ∀ g : Fin 4, item.toNat = g.val → h.GroupRefuses g field.toNat v
  | .slots => ∀ k : Fin 8, item.toNat = k.val → SlotRefuses field.toNat v
  | .setpoints => ∀ n : Fin 16, item.toNat = n.val → h.SetpointRefuses n field.toNat v
  | .calibration => ∀ k : Fin 8, item.toNat = k.val → CalibrationRefuses field.toNat v

/-! ## Records shown -/

/-- A body shows a record: it has the record's length, and each bit the record gives a content holds it. The others are
free (log 14). -/
def Shows (record : List LayoutByte) (body : List Byte) : Prop :=
  body.length = record.length ∧
    ∀ (n : Nat) (x : LayoutByte) (b : Byte), record[n]? = some x → body[n]? = some b → b &&& x.mask = x.val &&& x.mask

/-! ## Bodies as R191, R193 and R195 lay them out -/

/-- Byte `n` of a body. -/
def byteAt (body : List Byte) (n : Nat) : Byte := body[n]?.getD 0

/-- The number in the `width` bits of byte `n` of a body that begin at bit `low`. -/
def bitsAt (body : List Byte) (n low width : Nat) : Nat := ((byteAt body n).extractLsb' low width).toNat

/-- Bytes `n` and `n + 1` as one number, most significant byte first (R191). -/
def wordAt (body : List Byte) (n : Nat) : Nat := 256 * (byteAt body n).toNat + (byteAt body (n + 1)).toNat

/-- Byte `n` is a count; a number above 255 has no such byte. -/
def CountAt (body : List Byte) (n count : Nat) : Prop := count < 256 → (byteAt body n).toNat = count

/-- Byte `n` is a time of `left` in 100 ms units rounded up; a longer time has no such byte. -/
def TenthsAt (body : List Byte) (n left : Nat) : Prop :=
  left ≤ Config.ms (100 * 255) →
    left ≤ Config.ms (100 * (byteAt body n).toNat) ∧ Config.ms (100 * (byteAt body n).toNat) < left + Config.ms 100

/-- Bytes `n` to `n + 2` spell a command value by the table of R191, its fields within their bits. -/
def CommandAt (body : List Byte) (n : Nat) (v : Command) : Prop :=
  let form := (byteAt body n).toNat
  let a := (byteAt body (n + 1)).toNat
  let b := (byteAt body (n + 2)).toNat
  match v with
  | .off => form = 0 ∧ a = 0 ∧ b = 0
  | .on => form = 1 ∧ a = 0 ∧ b = 0
  | .steady x => x < 256 → form = 2 ∧ a = x ∧ b = 0
  | .slow x => x < 256 → form = 3 ∧ a = x ∧ b = 0
  | .fast x => x < 256 → form = 4 ∧ a = x ∧ b = 0
  | .tone pitch loudness decay =>
    pitch < 256 → loudness < 16 → form = 5 ∧ a = pitch ∧ b / 16 = loudness ∧
      b % 16 = (match decay with
        | .none => 0
        | .fast => 1
        | .slow => 2)
  | .target position rate =>
    position < 4096 → rate < 16 → form = 6 ∧ a / 16 = rate ∧ 256 * (a % 16) + b = position

/-- Byte `n` is the source byte of R191. -/
def SourceAt (body : List Byte) (n : Nat) (s : Source) : Prop :=
  match s with
  | .port p level => level < 8 → bitsAt body n 6 2 = 1 ∧ bitsAt body n 4 2 = p.idx.val ∧ bitsAt body n 0 3 = level
  | .localLayer => bitsAt body n 6 2 = 2
  | .fallback => bitsAt body n 6 2 = 3

/-- Bytes `n` to `n + 3` are a command value with its source, or the type 0 of its absence (R195). -/
def PairAt (body : List Byte) (n : Nat) (x : Option Pair) : Prop :=
  match x with
  | some y => CommandAt body n y.command ∧ SourceAt body (n + 3) y.source
  | none => bitsAt body (n + 3) 6 2 = 0

/-- The hub record of R195. -/
structure HubRecordIs (h : Hub) (body : List Byte) : Prop where
  length : body.length = 17
  mode : (byteAt body 0).toNat = match h.mode with
    | .startup => 0
    | .faultHold => 1
    | .run => 2
    | .holding => 3
    | .held => 4
  faults : byteAt body 1 = h.faults
  firstFault : CountAt body 2 h.firstFault
  cause : (byteAt body 3).toNat = match h.cause with
    | .powerOn => 0
    | .pin => 1
    | .software => 2
  marks : ∀ n : Fin 6, wordAt body 4 / 4 ^ (5 - n.val) % 4 = match h.marks[n] with
    | .unread => 0
    | .good => 1
    | .bad => 2
  pool : CountAt body 6 h.poolCount
  holdings : ∀ p : Port, CountAt body (7 + 2 * p.idx.val) (h.holding p)
  tenancies : ∀ p : Port, bitsAt body (8 + 2 * p.idx.val) 0 2 = match (h.port p).tenancy with
    | .detached => 0
    | .attached _ => 1
    | .lapsed => 2
  leases : ∀ p : Port, bitsAt body (8 + 2 * p.idx.val) 2 2 = match (h.port p).tenancy with
    | .attached ⟨_, _, .pending, _⟩ => 1
    | .attached ⟨_, _, .passed, _⟩ => 2
    | .detached => 0
    | .lapsed => 0
  image : ∀ r : Fin 12, (wordAt body 13).testBit r.val = (h.relay r).output
  store : match h.storeOp with
    | some x => bitsAt body 15 7 1 = 1 ∧ bitsAt body 15 0 3 = x.1.code
    | none => bitsAt body 15 7 1 = 0
  lastStore : match h.lastStore with
    | some x => bitsAt body 16 6 2 = (if x.ok then 1 else 2) ∧ bitsAt body 16 0 3 = x.block.code
    | none => bitsAt body 16 6 2 = 0

/-- The part of the channel record of R195 that every kind has. -/
structure ChannelRecordIs (h : Hub) (c : Fin 23) (body : List Byte) : Prop where
  length : body.length = 23
  number : (byteAt body 0).toNat = c.val
  kind : (byteAt body 1).toNat = if c.val < 12 then 0 else if c.val < 20 then 1 else if c.val = 20 then 2 else 3
  effective : PairAt body 2 (some (h.chan c).eff)
  pendingEffective : PairAt body 6 (h.chan c).pendingEff
  taken : PairAt body 10 (h.chan c).taken
  claims : CountAt body 17 (h.chan c).claims.length
  handover : match (h.chan c).handover.pending with
    | some w => bitsAt body 18 7 1 = 1 ∧ bitsAt body 18 4 2 = w.requester.idx.val ∧ bitsAt body 18 0 2 = w.holder.idx.val ∧
        TenthsAt body 19 w.left
    | none => bitsAt body 18 7 1 = 0 ∧ byteAt body 19 = 0
  outcome : match (h.chan c).handover.last with
    | some o => bitsAt body 20 4 4 = o.outcome.code.toNat ∧ bitsAt body 20 2 2 = o.requester.idx.val ∧
        bitsAt body 20 0 2 = o.holder.idx.val
    | none => bitsAt body 20 4 4 = 0

/-- Engine state, physical output, group and interlock hold of a relay in its channel record (R18, R195). -/
structure RelayRecordIs (h : Hub) (r : Fin 12) (body : List Byte) : Prop where
  engine : bitsAt body 14 0 7 = match (h.relay r).state with
    | .off => 0
    | .on => 1
    | .waitMinOff => 2
    | .waitMinOn => 3
    | .waitDead => 4
    | .heldOff => 5
  output : byteAt body 15 = if (h.relay r).output then 1 else 0
  rest : byteAt body 16 = 0
  group : (byteAt body 21).toNat = match h.groupOf r with
    | some g => g.val + 1
    | none => 0
  hold : byteAt body 22 = if (h.relay r).state = .heldOff then 1 else 0

/-- Engine state and physical output of a lamp in its channel record (R18, R195). -/
structure LampRecordIs (h : Hub) (l : Fin 8) (body : List Byte) : Prop where
  engine : bitsAt body 14 0 7 = match (h.chan (lampChannel l)).taken with
    | some ⟨.steady _, _⟩ => 1
    | some ⟨.slow _, _⟩ => 2
    | some ⟨.fast _, _⟩ => 3
    | _ => 0
  output : match h.lamp l with
    | .dark => byteAt body 15 = 0
    | .lit b => byteAt body 15 = 1 ∧ CountAt body 16 b
  rest : byteAt body 21 = 0 ∧ byteAt body 22 = 0

/-- Engine state, mute mark and physical output of the sounder in its channel record (R18, R195). -/
structure SoundRecordIs (h : Hub) (body : List Byte) : Prop where
  engine : bitsAt body 14 0 7 =
    if h.sounder.tone = .sounding then 1 else if h.sounder.engine = .ready then 0 else 2
  mute : bitsAt body 14 7 1 = if h.sounder.mute then 1 else 0
  output : match h.soundOutput with
    | .silent => byteAt body 15 = 0
    | .sounding pitch loudness => byteAt body 15 = 1 ∧
        (pitch < 16 → loudness < 16 → bitsAt body 16 4 4 = pitch ∧ bitsAt body 16 0 4 = loudness)
  rest : byteAt body 21 = 0 ∧ byteAt body 22 = 0

/-- Engine state, physical output, reference state and position of a stepper in its channel record (R18, R195). -/
structure StepperRecordIs (h : Hub) (u : Fin 2) (body : List Byte) : Prop where
  engine : bitsAt body 14 0 7 = match (h.stepper u).engine with
    | .idle => 0
    | .moving _ _ => 1
    | .referencing _ => 2
    | .paused => 3
    | .reversing _ => 4
  output : (byteAt body 15).toNat = match (h.stepper u).engine with
    | .moving .up _ => 1
    | .moving .down _ => 2
    | .referencing _ => 2
    | .idle => 0
    | .paused => 0
    | .reversing _ => 0
  rest : byteAt body 16 = 0
  reference : bitsAt body 21 6 2 = match (h.stepper u).ref with
    | .unreferenced => 0
    | .referencing => 1
    | .referenced => 2
  position : (h.stepper u).pos < 4096 → 256 * bitsAt body 21 0 4 + (byteAt body 22).toNat =
    if (h.stepper u).ref = .referenced then (h.stepper u).pos else 0

/-- The body of QUERY_CLAIMS as R193 lays it out. -/
structure ClaimsBodyIs (h : Hub) (c : Fin 23) (body : List Byte) : Prop where
  length : body.length = 1 + 7 * (h.chan c).claims.length
  count : CountAt body 0 (h.chan c).claims.length
  claims : ∀ (n : Nat) (x : Claim), (h.chan c).claims[n]? = some x →
    (byteAt body (1 + 7 * n)).toNat = c.val ∧ (byteAt body (2 + 7 * n)).toNat = x.port.idx.val ∧
      CountAt body (3 + 7 * n) x.level ∧ CommandAt body (4 + 7 * n) x.value ∧
      bitsAt body (7 + 7 * n) 0 1 = (if x.policy = .keep then 1 else 0) ∧
      bitsAt body (7 + 7 * n) 1 1 = if x.state = .orphaned then 1 else 0

/-- The slot record of R195. -/
structure SlotRecordIs (h : Hub) (k : Fin 8) (body : List Byte) : Prop where
  length : body.length = 9
  number : (byteAt body 0).toNat = k.val
  mode : bitsAt body 1 7 1 = if h.work.slots[k].mode = .total then 1 else 0
  source : bitsAt body 1 0 2 = h.work.slots[k].source.idx.val
  freshness : CountAt body 2 h.work.slots[k].freshness
  state : (byteAt body 3).toNat = match (h.slot k).state with
    | .empty => 0
    | .fresh => 1
    | .stale => 2
  value : (h.slot k).value.natAbs ≤ 2000000000 →
    (byteAt body 4 ++ byteAt body 5 ++ byteAt body 6 ++ byteAt body 7).toInt = (h.slot k).value
  left : match (h.slot k).timer with
    | some left => TenthsAt body 8 left
    | none => byteAt body 8 = 0

/-- The body of QUERY_SETPOINTS as R193 lays it out. -/
structure SetpointsBodyIs (h : Hub) (body : List Byte) : Prop where
  length : body.length = 10
  states : ∀ n : Fin 16, bitsAt body (n.val / 2) (if n.val % 2 = 0 then 4 else 0) 4 = match (h.setpoint n).state with
    | .inactive => 0
    | .making => 1
    | .active => 2
    | .breaking => 3
    | .latched => 4
  driving : ∀ n : Fin 16, (wordAt body 8).testBit n.val = true ↔
    ((h.setpoint n).state = .active ∨ (h.setpoint n).state = .breaking ∨ (h.setpoint n).state = .latched)

/-! ## Invariants -/

/-- One claim list: at most one claim of a port (R23), levels not rising (R24) and within 1 to 7 (R19), values the channel
takes (R3), each claim ORPHANED exactly while its port is LAPSED and none of a DETACHED port (R19, R69). -/
structure ListStands (h : Hub) (c : Fin 23) : Prop where
  onePerPort : ((h.chan c).claims.map (·.port)).Nodup
  sorted : (h.chan c).claims.Pairwise fun x y => y.level ≤ x.level
  levels : ∀ x ∈ (h.chan c).claims, 1 ≤ x.level ∧ x.level ≤ 7
  values : ∀ x ∈ (h.chan c).claims, commandFits (kindOf c) (h.work.travelOf c) x.value = true
  orphans : ∀ x ∈ (h.chan c).claims, (x.state = .orphaned ↔ h.isLapsed x.port = true)
  tenants : ∀ x ∈ (h.chan c).claims, (h.port x.port).tenancy ≠ .detached

/-- A pending handover joins two LIVE claims of two ports at one level, and its channel is in the asked set of its holder
and of no other port (R77, R81, R86, R87). -/
structure HandoverStands (h : Hub) (c : Fin 23) : Prop where
  parties : ∀ w, (h.chan c).handover.pending = some w → w.requester ≠ w.holder ∧
    ∃ x ∈ (h.chan c).claims, ∃ y ∈ (h.chan c).claims, x.port = w.requester ∧ y.port = w.holder ∧ x.level = y.level ∧
      x.state = .live ∧ y.state = .live
  asked : ∀ p, (h.port p).asked.getLsbD c.val = (h.chan c).handover.pending.any fun w => w.holder == p

/-- The claim pool stands as chapters 2, 4 and 5 leave it. -/
structure PoolStands (h : Hub) : Prop where
  lists : ∀ c, h.ListStands c
  handovers : ∀ c, h.HandoverStands c
  size : h.poolCount ≤ Config.poolSize
  quotas : ∀ p, h.holding p ≤ (h.portItem p).quota
  emptyBeforeRun : h.mode = .startup ∨ h.mode = .faultHold → ∀ c, (h.chan c).claims = []

/-- No relay is a member of two groups (R97). -/
def GroupsApart (w : Blocks) : Prop :=
  ∀ g k : Fin 4, g ≠ k → ∀ r : Fin 12, ¬ (w.groups[g].members.getLsbD r.val = true ∧ w.groups[k].members.getLsbD r.val = true)

/-- Never two members of a group physically ON at once (R103), with what makes that so: no relay in two groups, in the
working or the stored copy; the Relay unit RUNNING exactly in RUN; every relay OFF during STARTUP. -/
structure InterlockStands (h : Hub) : Prop where
  oneOn : ∀ (g : Fin 4) (q r : Fin 12), h.namesRelay g q = true → h.namesRelay g r = true →
    (h.relay q).output = true → (h.relay r).output = true → q = r
  apart : GroupsApart h.work
  storedApart : GroupsApart h.stored
  running : h.relayCond = .running ↔ h.mode = .run
  offInStartup : h.mode = .startup → ∀ r, (h.relay r).output = false

/-- The engine state of each relay gives its physical output, and a waiting state needs a RUNNING unit (R93, R106). -/
structure RelaysStand (h : Hub) : Prop where
  outputs : ∀ r, (h.relay r).output = true ↔ ((h.relay r).state = .on ∨ (h.relay r).state = .waitMinOn)
  frozen : h.relayCond = .frozen → ∀ r, (h.relay r).state = .on ∨ (h.relay r).state = .off

/-- The chime queue holds at most four records, and the engine is READY exactly while it is empty (R138, R140). -/
structure ChimesStand (h : Hub) : Prop where
  size : h.sounder.queue.length ≤ Config.chimeQueueSize
  ready : h.sounder.engine = .ready ↔ h.sounder.queue = []

/-- Every lamp shows its taken command (R131), and the mute mark is as R144 says. -/
structure SightAndSoundStand (h : Hub) : Prop where
  lamps : ∀ l, h.lamp l = lampDrive h.flash (h.chan (lampChannel l)).taken
  mute : h.sounder.mute = h.muteValue

/-- Every channel stands as its latest forming left it, in RUN with nothing pending (R12 to R15, R40). -/
structure ArbitrationStands (h : Hub) : Prop where
  formed : ∀ c, h.Formed c
  nothingWaits : h.mode = .run → ∀ c, (h.chan c).pendingEff = none

/-- After STARTUP the local input of every channel is the local layer the setpoints and fallbacks give (R10, R163). -/
def LayersStand (h : Hub) : Prop := h.mode ≠ .startup → ∀ c, (h.chan c).input = h.localLayer c

/-- The engine condition of a Stepper unit fits the hub mode (R114, R125, R127), and motion needs a reference: a step
toward a target is made by a REFERENCED stepper, a referencing step by a REFERENCING one. -/
structure MotionStands (h : Hub) (u : Fin 2) : Prop where
  inRun : h.mode = .run → (h.stepper u).cond = .running
  inHolding : h.mode = .holding → (h.stepper u).cond ≠ .running
  elsewhere : h.mode ≠ .run → h.mode ≠ .holding → (h.stepper u).cond = .stopped
  stopped : (h.stepper u).cond = .stopped → (h.stepper u).engine = .idle
  draining : (h.stepper u).cond = .draining →
    (∃ d t, (h.stepper u).engine = .moving d t) ∨ ∃ t, (h.stepper u).engine = .referencing t
  moving : ∀ d t, (h.stepper u).engine = .moving d t → (h.stepper u).ref = .referenced
  referencing : ∀ t, (h.stepper u).engine = .referencing t → (h.stepper u).ref = .referencing
  travel : (h.stepper u).ref = .referenced → (h.stepper u).pos ≤ (h.stepperItem u).travel
  up : ∀ t, (h.stepper u).engine = .moving .up t → (h.stepper u).pos < (h.stepperItem u).travel
  down : ∀ t, (h.stepper u).engine = .moving .down t → 0 < (h.stepper u).pos

end Hub

/-- Every step keeps a property of the part. -/
def KeptByStep (good : Hub → Prop) : Prop := ∀ s t, good s.hub → step s = .next t → good t.hub

end Sys2Proof.Machine
end

