-- ==== Sys2Proof/WellFormed.lean ====
section
/-! DEFINITION. Which terms of Instr are commands the part can meet. Every request with any byte values can arrive, and
every event names an existing unit by its type; only a BAD_FRAME must carry bytes that fail the check of R183, and a
BAD_REQUEST a good frame's code and body that the table of R193 does not have. -/

namespace Sys2Proof

/-- The frame fails the check of R183. -/
def badFrameFits (frame : List Byte) : Bool := (Machine.openFrame frame).isNone

/-- The body is one a frame can carry, and the table of R193 has no such code with such a length (R184). -/
def badRequestFits (p : Port) (code : Byte) (body : List Byte) : Bool :=
  decide (body.length ≤ Machine.maxRequestBody) && (Machine.requestOf p code body).isNone

/-- The command is well formed. -/
def Instr.wf (i : Instr) : Bool :=
  match i with
  | .badFrame _ frame => badFrameFits frame
  | .badRequest p code body => badRequestFits p code body
  | _ => true

end Sys2Proof
end

