-- ==== Sys2Proof/Certificates/Slice0/Obligations.lean ====
section
/-! DEFINITION. The statements for the provers. In a statement about a request, `Hub.restartLease p s.hub` is the part at
the arrival of the frame, the lease restarted (R61); what that is, GoodRequestsRestartTheLease says. -/

open Sys2Proof Sys2Proof.Machine

/-! ## The block as a whole -/

/-- A step takes the command at the front of the queue, and its effect is the command's on the rest (log 1). -/
def Obligations.StepTakesTheFrontCommand : Prop :=
  ∀ (i : Instr) (rest : List Instr) (s : State),
    step { s with pending := i :: rest } = exec i { s with pending := rest }

/-- Every command is answered with a next state and leaves the queue, and every step answers a next state: neither a command
nor the passing of time stops the part. -/
def Obligations.CommandsAndStepsAlwaysComplete : Prop :=
  (∀ (i : Instr) (s : State), ∃ h : Hub, exec i s = .next { s with hub := h }) ∧
  (∀ s : State, ∃ t : State, step s = .next t)

/-- On an empty queue a step is one unit of time (log 2, the model's choice): where no timer runs out and the flash clock
meets no boundary, every running timer loses one unit, the flash clock gains one, the marks of a cut run (log 26) are
cleared, and nothing else moves. Otherwise the step takes the events that are due once the timers have counted down, as their
commands, each judged and taken on what those before it leave, in one order of all the events, the flash clock last (log 3,
the model's choice). An event is due exactly where its timer has run out, a lease at its half point, the flash clock at a
boundary. -/
def Obligations.QuietStepCountsTimersDown : Prop :=
  (∀ (s t : State) (i : Instr) (pre post : List Instr), s.pending = [] → s.hub.unitEvents = pre ++ i :: post →
    (∀ j ∈ pre, s.hub.countDown.due j = false) → s.hub.countDown.due i = true →
    exec i { s with hub := s.hub.countDown } = .next t → step s = runDue post t) ∧
  (∀ t : State, runDue [] t = .next t ∧
    ∀ (i : Instr) (rest : List Instr),
      (t.hub.due i = false → runDue (i :: rest) t = runDue rest t) ∧
      ∀ u : State, t.hub.due i = true → exec i t = .next u → runDue (i :: rest) t = runDue rest u) ∧
  (∀ h : Hub, h.unitEvents =
    Port.all.map .leaseLow ++ Port.all.map .lapse ++ (List.finRange 23).map .handoverTimerExpiry ++
      (List.finRange 12).map .minTimeExpiry ++ (List.finRange 4).map .deadTimerExpiry ++
      (List.finRange 8).map .freshnessExpiry ++ (List.finRange 16).map .delayTimerExpiry ++
      (List.finRange 2).map .stepCompletion ++ (List.finRange 2).map .referencingStepCompletion ++
      (List.finRange 2).map .reversalPauseEnd ++ [.decayTimerExpiry, .chimeEnd, .gapEnd] ++
      if h.due .flashClockLitHalfChange then [.flashClockLitHalfChange] else []) ∧
  (∀ h : Hub,
    (∀ p, h.due (.leaseLow p) = true ↔
      ∃ run, (h.port p).tenancy = .attached run ∧ run.mark = .pending ∧ 2 * run.left ≤ run.duration) ∧
    (∀ p, h.due (.lapse p) = true ↔ ∃ run, (h.port p).tenancy = .attached run ∧ run.left = 0) ∧
    (∀ c, h.due (.handoverTimerExpiry c) = true ↔ ∃ w, (h.chan c).handover.pending = some w ∧ w.left = 0) ∧
    (∀ r, h.due (.minTimeExpiry r) = true ↔ ((h.relay r).mark = .minOn 0 ∨ (h.relay r).mark = .minOff 0)) ∧
    (∀ g, h.due (.deadTimerExpiry g) = true ↔ ∃ cut, h.deadTimer g = .running 0 cut) ∧
    (h.due .decayTimerExpiry = true ↔ (h.sounder.tone = .sounding ∧ h.sounder.decay = some 0)) ∧
    (h.due .chimeEnd = true ↔ h.sounder.engine = .playing 0) ∧ (h.due .gapEnd = true ↔ h.sounder.engine = .gap 0) ∧
    (∀ k, h.due (.freshnessExpiry k) = true ↔ (h.slot k).timer = some 0) ∧
    (∀ n, h.due (.delayTimerExpiry n) = true ↔ (h.setpoint n).timer = some 0) ∧
    (∀ u, h.due (.stepCompletion u) = true ↔ ∃ d, (h.stepper u).engine = .moving d 0) ∧
    (∀ u, h.due (.referencingStepCompletion u) = true ↔ (h.stepper u).engine = .referencing 0) ∧
    (∀ u, h.due (.reversalPauseEnd u) = true ↔ (h.stepper u).engine = .reversing 0) ∧
    (∀ i, h.due i = true → i ≠ .flashClockLitHalfChange → i ∈ h.unitEvents) ∧
    (h.due .flashClockLitHalfChange = true ↔ ∃ n, h.flash = some n ∧ (n + 1) % Config.ms 125 = 0)) ∧
  ∀ s : State, s.pending = [] → (∀ i ∈ s.hub.unitEvents, s.hub.countDown.due i = false) →
    ∃ t : Hub, step s = .next { s with hub := t } ∧
      (∀ p run, (s.hub.port p).tenancy = .attached run →
        t.port p = { s.hub.port p with tenancy := .attached { run with left := run.left - 1, cut := false } }) ∧
      (∀ p, s.hub.attached p = false → t.port p = s.hub.port p) ∧
      (∀ c, t.chan c =
        { s.hub.chan c with
          handover := { (s.hub.chan c).handover with
            pending := (s.hub.chan c).handover.pending.map fun w => { w with left := w.left - 1 } } }) ∧
      (∀ r, t.relay r = { s.hub.relay r with mark := tickMark (s.hub.relay r).mark }) ∧
      (∀ g, t.deadTimer g = tickDead (s.hub.deadTimer g)) ∧
      t.flash = s.hub.flash.map (· + 1) ∧
      t.sounder = { s.hub.sounder with
        decay := s.hub.sounder.decay.map (· - 1), engine := tickChime s.hub.sounder.engine, decayCut := false
        chimeCut := false } ∧
      (∀ u, t.stepper u = { s.hub.stepper u with engine := tickEngine (s.hub.stepper u).engine }) ∧
      (∀ k, t.slot k = { s.hub.slot k with timer := (s.hub.slot k).timer.map (· - 1), cut := false }) ∧
      (∀ n, t.setpoint n = { s.hub.setpoint n with timer := (s.hub.setpoint n).timer.map (· - 1), cut := false }) ∧
      t.loadElapsed = s.hub.loadElapsed + (if s.hub.mode = .startup ∧ s.hub.resetNLow = false then 1 else 0) ∧
      t = { s.hub with
        ports := t.ports, channels := t.channels, relays := t.relays, dead := t.dead, flash := t.flash
        sounder := t.sounder, steppers := t.steppers, slots := t.slots, setpoints := t.setpoints
        loadElapsed := t.loadElapsed }

/-- The machine right after reset: STARTUP after a POWER_ON, every port DETACHED with nothing in its buffers, flags and
sets, an empty pool, every relay OFF, every lamp DARK, the sounder silent, the steppers UNREFERENCED and at rest, every slot
EMPTY, every setpoint INACTIVE, every mark UNREAD, as the manual gives them. The model's choice are: the part as it leaves
the factory, its first-fault record 0 (log 6); PRSTn_N released (log 8) with no transaction on the serial lines (log 13);
and the value TARGET(0, 4) that a stepper's STAY takes at that reset (logs 7, 9 and 22). -/
def Obligations.ResetStateIsAsTheManualSays : Prop :=
  let h := State.reset.hub
  State.reset.pending = [] ∧ h.mode = .startup ∧ h.cause = .powerOn ∧ h.faults = 0 ∧ h.firstFault = 0 ∧
    (∀ b : Block, h.marks[b.idx] = .unread) ∧ h.storeOp = none ∧ h.lastStore = none ∧
    (∀ p, h.port p = ⟨.detached, [], none, 0, 0, 0, 0, false, .idle⟩) ∧
    (∀ c, (h.chan c).claims = [] ∧ (h.chan c).winner = none ∧ (h.chan c).taken = none ∧
      (h.chan c).handover = ⟨none, none⟩ ∧ (h.chan c).eff.source = .fallback ∧
      (h.chan c).eff.command = (if kindOf c = .stepper then .target 0 4 else .off) ∧
      (h.chan c).pendingEff = some (h.chan c).eff) ∧
    (∀ r, (h.relay r).state = .off ∧ (h.relay r).output = false) ∧ (∀ l, h.lamp l = .dark) ∧ h.flash = none ∧
    h.sounder.cond = .frozen ∧ h.sounder.tone = .silent ∧ h.sounder.decay = none ∧ h.sounder.queue = [] ∧
    h.sounder.engine = .ready ∧ h.sounder.mute = false ∧
    (∀ u, (h.stepper u).ref = .unreferenced ∧ (h.stepper u).engine = .idle ∧ (h.stepper u).lastDir = none ∧
      (h.stepper u).runCount = 0 ∧ (h.stepper u).refReq = false ∧ (h.stepper u).cond = .stopped) ∧
    (∀ k, h.slot k = ⟨.empty, 0, none, false⟩) ∧ (∀ n, h.setpoint n = ⟨.inactive, false, none, false⟩) ∧ h.poolCount = 0

/-! ## Arrival, standing and frames -/

/-- A frame, good or bad, that arrives while RESET_N or the port's PRSTn_N is held low changes nothing.
A frame that fails the check is answered BAD_FRAME, and sets LINK_ERROR where the port is ATTACHED; a good frame with an
unknown code or a wrong length is answered BAD_REQUEST in every mode and tenancy state. -/
def Obligations.UnheardAndBadFramesAreAnswered : Prop :=
  (∀ (i : Instr) (p : Port) (bytes : List Byte) (s : State), encodeFrame i = some (p, bytes) →
    s.hub.takesFrames p = false → exec i s = .next s) ∧
  (∀ (p : Port) (s : State), s.hub.takesFrames p = true →
    (∀ frame, exec (.badFrame p frame) s = .next { s with
      hub := s.hub.modPort p fun t =>
        { t with
          flags := if s.hub.attached p then t.flags ||| 0x1000 else t.flags
          resp := some ⟨.badFrame, []⟩ } }) ∧
    ∀ code body, exec (.badRequest p code body) s =
      .next { s with hub := (Hub.restartLease p s.hub).respond p .badRequest [] })

/-- The lease restart writes the tenancy record and the LEASE_LOW flag of an ATTACHED port, and nothing else. Every good
request frame of an ATTACHED port restarts its lease before the request is decided, whatever the result: the duration fixed
anew from the lease time, the timer set to it, the mark PENDING, LEASE_LOW cleared. Only a request that makes its port leave
ATTACHED leaves no run. The mark of a run cut short is the model's (log 26). A frame that fails the check restarts none, and a request other than ATTACH from a port that is not
ATTACHED starts none. -/
def Obligations.GoodRequestsRestartTheLease : Prop :=
  (∀ (p : Port) (h : Hub),
    (h.attached p = true → Hub.restartLease p h = h.modPort p fun t =>
      { t with
        tenancy := .attached
          ⟨Config.ms (100 * (h.portItem p).lease), Config.ms (100 * (h.portItem p).lease), .pending, true⟩
        flags := t.flags &&& ~~~(0x10 : BitVec 14) }) ∧
    (h.attached p = false → Hub.restartLease p h = h)) ∧
  ((∀ (i : Instr) (p : Port) (code : Byte) (body : List Byte) (s : State), requestBody i = some (p, code, body) →
    s.hub.takesFrames p = true →
    ∃ t : Hub, exec i s = .next { s with hub := t } ∧
      (s.hub.attached p = true →
        ((t.port p).tenancy = .attached
            ⟨Config.ms (100 * (s.hub.portItem p).lease), Config.ms (100 * (s.hub.portItem p).lease), .pending, true⟩ ∨
          t.attached p = false ∧ (i = .detach p ∨ i = .resetHub p)) ∧
        t.hasFlag p .leaseLow = false) ∧
      (s.hub.attached p = false → i ≠ .attach p → t.attached p = false)) ∧
    ∀ (p : Port) (frame : List Byte) (s : State), ∃ t : Hub, exec (.badFrame p frame) s = .next { s with hub := t } ∧
      ∀ q, (t.port q).tenancy = (s.hub.port q).tenancy)

/-- In STARTUP every request but QUERY_HUB is answered STARTING; outside it a request of a port that is not ATTACHED, but
ATTACH, QUERY_HUB and a DETACH from LAPSED, is answered NOT_ATTACHED. An unknown code or a wrong length comes first. -/
def Obligations.StandingIsCheckedFirst : Prop :=
  ∀ (i : Instr) (p : Port) (code : Byte) (body : List Byte) (s : State), requestBody i = some (p, code, body) →
    i ≠ .queryHub p → i ≠ .badRequest p code body → s.hub.takesFrames p = true →
    (s.hub.mode = .startup →
      exec i s = .next { s with hub := (Hub.restartLease p s.hub).respond p .starting [] }) ∧
    (s.hub.mode ≠ .startup → s.hub.attached p = false → i ≠ .attach p →
      (i = .detach p → (s.hub.port p).tenancy = .detached) →
      exec i s = .next { s with hub := s.hub.respond p .notAttached [] })

/-- Every well-formed request or frame, laid out as bytes, is read back as itself: no bit of an operand is dropped. A read
of the response buffer: the response frame is result code, body length, body and CRC, and NONE, 00h 00h D7h, while nothing
is there or a reset pin is low. An SPI transaction of 02h shifts out FFh, the response frame and then FFh; one of 01h brings
the frame after it, FFh going out, and one of more than 15 bytes, a BAD_FRAME; any other brings nothing. A frame's command is
taken within its arrival, after those that wait in the queue (log 13, the model's choice). A reset within
a transaction discards the request frame that is arriving, of which nothing is then taken, and ends a read, which then gives
FFh; the first 15 data bytes of the write are acknowledged all the same (log 13, the model's choice). On I2C the part
acknowledges its address alone and the first 15 data bytes of a write; the STOP or a repeated START brings the frame; a read
gives the response frame as it stands at the acknowledgement of the address, then FFh, so that one that follows a write by a
repeated START gives the response to its frame. The receive buffer is empty outside a
transaction and never holds more than 15 bytes. The transactions are inputs beside the queue (log 13). -/
def Obligations.FramesAreReadBackAsTheirCommands : Prop :=
  (∀ (i : Instr) (p : Port) (bytes : List Byte), i.wf = true → encodeFrame i = some (p, bytes) →
    commandOfFrame p bytes = i) ∧
  (∀ (p : Port) (h : Hub),
    (h.takesFrames p = false ∨ (h.port p).resp = none → responseFrame h p = [0x00, 0x00, 0xD7]) ∧
    ∀ r, h.takesFrames p = true → (h.port p).resp = some r →
      responseFrame h p =
        (r.result.code :: byteOf r.body.length :: r.body) ++
          [crc8 (r.result.code :: byteOf r.body.length :: r.body)]) ∧
  (∀ (s : State), s.steps 0 = s ∧ (∀ n t, step s = .next t → s.steps (n + 1) = t.steps n) ∧
    (∀ i, s.arrive i = State.steps (s.pending.length + 1) { s with pending := s.pending ++ [i] }) ∧
    ∀ i t, s.pending = [] → exec i s = .next t → s.arrive i = t) ∧
  (∀ (p : Port) (first : Byte) (rest : List Byte) (s : State),
    let t := s.spiTransaction p (first :: rest)
    let closed : State := { s with hub := s.hub.openLink p .idle }
    (first ≠ 0x02 → t.2 = List.replicate (rest.length + 1) 0xFF) ∧
      (first = 0x02 → t.2 = 0xFF :: (List.range rest.length).map (readByte s.hub p)) ∧
      (rest.length ≤ 15 → t.1 = (commandOfSpi p (first :: rest)).elim closed closed.arrive) ∧
      (first = 0x01 → 15 < rest.length → ∃ bad, openFrame bad = none ∧ t.1 = closed.arrive (.badFrame p bad)) ∧
      (first ≠ 0x01 → t.1 = closed)) ∧
  (∀ (p : Port) (b : Byte) (s : State), (s.hub.port p).link = .ignored → s.spiShift p b = (s, 0xFF)) ∧
  (∀ (t : PortUnit),
    (t.link = .idle ∨ t.link = .selected ∨ t.link = .ignored → t.brokenOff = t.link) ∧
    (∀ left, t.link = .reading left → t.brokenOff = .ignored) ∧
    (∀ beyond, t.link = .request beyond → t.brokenOff = .dropped (15 - t.rx.length)) ∧
    ∀ n, t.link = .dropped n → t.brokenOff = .dropped n) ∧
  (∀ (n : Nat) (s : State),
    (∀ p, (s.hub.port p).link = .dropped n →
      (∀ b, s.spiShift p b = (s, 0xFF)) ∧
        s.endTransaction p = { hub := s.hub.openLink p .idle, pending := s.pending }) ∧
    ((s.hub.port .p2).link = .dropped n → ∀ bytes,
      (s.i2cBytes bytes).2 = (List.range bytes.length).map (fun k => decide (k < n)) ∧
        (s.i2cBytes bytes).1.i2cStop = { hub := s.hub.openLink .p2 .idle, pending := s.pending } ∧
        s.i2cRead = (s, 0xFF))) ∧
  (∀ (p : Port) (b : Byte) (h : Hub), (h.port p).rx.length ≤ 15 → ((h.receive p b).port p).rx.length ≤ 15) ∧
  (∀ (s : State),
    let closed : State := { s with hub := s.hub.openLink .p2 .idle }
    s.i2cStop = (s.hub.arrival .p2).elim closed closed.arrive ∧
    s.i2cStart = { s.i2cStop with hub := s.i2cStop.hub.openLink .p2 .selected } ∧
    (∀ address read, (s.hub.port .p2).link = .selected → address ≠ s.hub.i2cAddr →
      s.i2cAddress address read = (closed, false)) ∧
    (∀ read, (s.hub.port .p2).link = .selected → s.i2cAddress s.hub.i2cAddr read =
      ({ s with hub := s.hub.openLink .p2 (if read then .reading (responseFrame s.hub .p2) else .request none) }, true)) ∧
    (∀ address read, (s.hub.port .p2).link ≠ .selected → s.i2cAddress address read = (s, false)) ∧
    (∀ beyond, (s.hub.port .p2).link = .request beyond →
      s.hub.arrival .p2 =
        if (s.hub.port .p2).rx = [] then none else some (commandOfFrame .p2 ((s.hub.port .p2).rx ++ beyond.toList))) ∧
    ((∀ beyond, (s.hub.port .p2).link ≠ .request beyond) → s.hub.arrival .p2 = none) ∧
    ((s.hub.port .p2).link = .idle → ∀ bytes,
      let asked := s.i2cStart.i2cAddress s.hub.i2cAddr false
      let written := asked.1.i2cBytes bytes
      asked.2 = true ∧ written.2 = (List.range bytes.length).map (fun n => decide (n < 15)) ∧
        (bytes.length ≤ 15 → written.1.i2cStop = (commandOfI2c bytes).elim closed closed.arrive) ∧
        (bytes.length ≤ 15 → ∀ i, commandOfI2c bytes = some i →
          let taken := closed.arrive i
          let again := written.1.i2cStart.i2cAddress taken.hub.i2cAddr true
          again.2 = true ∧ (again.1.hub.port .p2).link = .reading (responseFrame taken.hub .p2)) ∧
        (15 < bytes.length →
          ∃ bad, openFrame bad = none ∧ written.1.i2cStop = closed.arrive (.badFrame .p2 bad))) ∧
    ((s.hub.port .p2).link = .idle →
      s.i2cStart.i2cAddress s.hub.i2cAddr true =
        ({ s with hub := s.hub.openLink .p2 (.reading (responseFrame s.hub .p2)) }, true)) ∧
    ∀ left, (s.hub.port .p2).link = .reading left →
      s.i2cRead = ({ s with hub := s.hub.setLink .p2 (.reading left.tail) }, left.head?.getD 0xFF))

/-! ## Tenancy -/

/-- KEEP restarts the lease and does nothing more. -/
def Obligations.KeepRestartsTheLeaseAndNothingMore : Prop :=
  ∀ (p : Port) (s : State), s.hub.takesFrames p = true →
    (s.hub.mode = .startup → exec (.keep p) s = .next { s with hub := (Hub.restartLease p s.hub).respond p .starting [] }) ∧
    (s.hub.mode ≠ .startup → s.hub.attached p = false →
      exec (.keep p) s = .next { s with hub := s.hub.respond p .notAttached [] }) ∧
    (s.hub.mode ≠ .startup → s.hub.attached p = true →
      exec (.keep p) s = .next { s with hub := (Hub.restartLease p s.hub).respond p .ok [] })

/-- ATTACH from DETACHED: a fresh lease run, flags and sets empty but for FAULT while the fault set is not empty, every flag
enabled, OK with 0; nothing else moves. From ATTACHED: ALREADY with 0, flags, sets and mask kept.
ATTACH from LAPSED adopts: every ORPHANED claim of the port is LIVE in its place; WON and the change set name the
channels an adopted claim wins; the response counts the claims adopted. -/
def Obligations.AttachBeginsRenewsOrAdopts : Prop :=
  (∀ (p : Port) (s : State), s.hub.takesFrames p = true → s.hub.mode ≠ .startup →
    ((s.hub.port p).tenancy = .detached →
      exec (.attach p) s = .next { s with
        hub := s.hub.modPort p fun t =>
          { t with
            tenancy := .attached
              ⟨Config.ms (100 * (s.hub.portItem p).lease), Config.ms (100 * (s.hub.portItem p).lease), .pending, false⟩
            flags := if s.hub.faults = 0 then 0 else 0x800
            change := 0, asked := 0, mask := 0x3FFF, resp := some ⟨.ok, [0]⟩ } }) ∧
    (s.hub.attached p = true →
      exec (.attach p) s = .next { s with hub := (Hub.restartLease p s.hub).respond p .already [0] })) ∧
  (∀ (p : Port) (s : State), s.hub.takesFrames p = true → s.hub.mode ≠ .startup → (s.hub.port p).tenancy = .lapsed →
    ∃ t : Hub, exec (.attach p) s = .next { s with hub := t } ∧
      t = { s.hub with ports := t.ports, channels := t.channels } ∧
      (∀ q, q ≠ p → t.port q = s.hub.port q) ∧
      (t.port p).tenancy = .attached
        ⟨Config.ms (100 * (s.hub.portItem p).lease), Config.ms (100 * (s.hub.portItem p).lease), .pending, false⟩ ∧
      (t.port p).mask = 0x3FFF ∧ (t.port p).asked = 0 ∧ (t.port p).rx = (s.hub.port p).rx ∧
      (t.port p).resetLow = (s.hub.port p).resetLow ∧ (t.port p).link = (s.hub.port p).link ∧
      (t.port p).resp = some ⟨.ok, [byteOf ((List.finRange 23).filter (s.hub.hasOrphan p)).length]⟩ ∧
      (∀ c, t.hasChange p c = (s.hub.winnerPort c == some p && s.hub.hasOrphan p c)) ∧
      (t.port p).flags = (if (t.port p).change = 0 then 0 else 1) ||| (if s.hub.faults = 0 then 0 else 0x800) ∧
      ∀ c, t.chan c = { s.hub.chan c with
        claims := (s.hub.chan c).claims.map fun x => if x.port = p then { x with state := .live } else x })

/-- DETACH: the port is DETACHED with its flags, sets and mask cleared and none of its claims left; OK with the number it
held. A handover in which it is holder is VACATED, one in which it is requester CANCELLED, with HANDOVER_DONE to an ATTACHED
requester. The channels it held claims on are formed; nothing beyond them is reached. -/
def Obligations.DetachGivesUpEverything : Prop :=
  ∀ (p : Port) (s : State), s.hub.takesFrames p = true → s.hub.mode ≠ .startup →
    (s.hub.port p).tenancy ≠ .detached →
    ∃ t : Hub, exec (.detach p) s = .next { s with hub := t } ∧
      t.port p = { s.hub.port p with
        tenancy := .detached, flags := 0, change := 0, asked := 0, mask := 0
        resp := some ⟨.ok, [byteOf (s.hub.holding p)]⟩ } ∧
      (∀ c, (t.chan c).claims = withoutPort p (s.hub.chan c).claims) ∧
      (∀ c, Hub.HandoverSettled c (s.hub.removalOutcome p c) s.hub t) ∧
      (∀ c, s.hub.holdsClaim p c = true → t.Formed c ∧ Hub.StayTaken c s.hub t) ∧
      Hub.Reach (s.hub.heldBy p) (s.hub.modPort p fun _ => t.port p) t

/-- The assertion of PRSTn_N: the port unit at its reset values with the pin low, none of its claims left, the channels it
held claims on formed and nothing beyond them reached; a handover in which it is holder is VACATED, one in which it is requester
CANCELLED. A request frame still arriving is discarded and a read in progress ends (log 13 for the rest of the transaction).
A pin that is
low already makes no change (log 18, the model's choice). Its release changes nothing but the pin, nor does a release of a pin
that is high (log 18). -/
def Obligations.PortResetClearsThePort : Prop :=
  ∀ (p : Port) (s : State),
    ((s.hub.port p).resetLow = true → exec (.portReset p) s = .next s) ∧
    ((s.hub.port p).resetLow = false →
      ∃ t : Hub, exec (.portReset p) s = .next { s with hub := t } ∧
        t.port p = ⟨.detached, [], none, 0, 0, 0, 0, true, (s.hub.port p).brokenOff⟩ ∧
        (∀ c, (t.chan c).claims = withoutPort p (s.hub.chan c).claims) ∧
        (∀ c, Hub.HandoverSettled c (s.hub.removalOutcome p c) s.hub t) ∧
        (∀ c, s.hub.holdsClaim p c = true → t.Formed c ∧ Hub.StayTaken c s.hub t) ∧
        Hub.Reach (s.hub.heldBy p) (s.hub.modPort p fun _ => t.port p) t) ∧
    exec (.portResetRelease p) s = .next { s with hub := s.hub.modPort p fun t => { t with resetLow := false } }

/-- The half point of a lease run whose mark is PENDING: the mark is PASSED and LEASE_LOW set, nothing else. Taken early
(log 4, the model's choice), the time left is then half the duration at most. With the mark PASSED, or without a run, there is
no half point. A half point that comes together with a frame taken before it does not happen: LEASE_LOW is not set (R62). That
the first half point after a restart in the same moment is the cut run's, and clears the mark of the cut, is log 26. -/
def Obligations.LeaseHalfPointSetsLeaseLow : Prop :=
  ∀ (p : Port) (s : State),
    (∀ d left, (s.hub.port p).tenancy = .attached ⟨d, left, .pending, false⟩ →
      exec (.leaseLow p) s = .next { s with
        hub := s.hub.modPort p fun t =>
          { t with tenancy := .attached ⟨d, min left (d / 2), .passed, false⟩, flags := t.flags ||| 0x10 } }) ∧
    (∀ d left, (s.hub.port p).tenancy = .attached ⟨d, left, .pending, true⟩ →
      exec (.leaseLow p) s = .next { s with
        hub := s.hub.modPort p fun t => { t with tenancy := .attached ⟨d, left, .pending, false⟩ } }) ∧
    ((∀ run, (s.hub.port p).tenancy = .attached run → run.mark = .passed) → exec (.leaseLow p) s = .next s) ∧
    ∀ (i : Instr) (code : Byte) (body : List Byte) (t : State), requestBody i = some (p, code, body) →
      s.hub.takesFrames p = true → s.hub.attached p = true → exec i s = .next t →
      ∃ v : State, exec (.leaseLow p) t = .next v ∧ v.hub.hasFlag p .leaseLow = false

/-- A lapse: the port is LAPSED, its flags, sets but for the asked set, mask and response kept. On each channel a DROP claim
of the port is gone and a KEEP claim stands ORPHANED in its place, moved only by the grant of a handover it held. A handover
the port held by a DROP claim is VACATED, by a KEEP claim settled by the channel's default outcome; one it asked for is
CANCELLED; HANDOVER_DONE goes to an ATTACHED requester.
An expiry that comes together with a frame taken before it does not happen: no lapse (R64). That the first expiry after a
restart in the same moment is the cut run's, and clears the mark of the cut, is log 26. A port that is not ATTACHED does not
lapse (log 4, the model's choice). -/
def Obligations.LapseDropsOrOrphansTheClaims : Prop :=
  ∀ (p : Port) (s : State),
    (s.hub.attached p = false → exec (.lapse p) s = .next s) ∧
    (∀ run, (s.hub.port p).tenancy = .attached run → run.cut = true →
      exec (.lapse p) s = .next { s with
        hub := s.hub.modPort p fun t => { t with tenancy := .attached { run with cut := false } } }) ∧
    (∀ (i : Instr) (code : Byte) (body : List Byte) (t : State), requestBody i = some (p, code, body) →
      s.hub.takesFrames p = true → s.hub.attached p = true → exec i s = .next t →
      ∃ v : State, exec (.lapse p) t = .next v ∧ v.hub.attached p = t.hub.attached p ∧
        v.hub.isLapsed p = false ∧ v.hub.channels = t.hub.channels) ∧
    ∀ run, (s.hub.port p).tenancy = .attached run → run.cut = false →
      (∀ c, ((s.hub.chan c).claims.map (·.port)).Nodup) →
      ∃ t : Hub, exec (.lapse p) s = .next { s with hub := t } ∧
        t.port p = { s.hub.port p with tenancy := .lapsed, asked := (t.port p).asked } ∧
        (∀ c, s.hub.holdsClaim p c = true → t.Formed c ∧ Hub.StayTaken c s.hub t) ∧
        (∀ c,
          let lapsed := ((s.hub.chan c).claims.filter fun x => !(x.port == p && x.policy == .drop)).map fun x =>
            if x.port = p then { x with state := .orphaned } else x
          (t.chan c).claims =
            match (s.hub.chan c).handover.pending with
            | none => lapsed
            | some w =>
              if w.holder = p ∧ s.hub.defaultGrants c = true ∧
                  (claimOf p (s.hub.chan c).claims).any (fun x => x.policy == .keep) = true then
                grantReorder w.requester w.holder lapsed
              else lapsed) ∧
        (∀ c, Hub.HandoverSettled c (s.hub.lapseOutcome p c) s.hub t) ∧
        Hub.Reach (s.hub.heldBy p) (s.hub.modPort p fun x => { x with tenancy := .lapsed }) t

/-! ## The claim pool -/

/-- A claim put into a list whose levels do not rise stands directly after the last claim of equal or higher level: behind
all of those and ahead of all the others, which keep their order.
The reorder of a grant: the list holds the same claims, its levels do not rise, the requester's claim heads its level
with the holder's directly behind it, and the other claims keep their relative order. -/
def Obligations.ClaimListsAreOrderedByLevelAndArrival : Prop :=
  (∀ (x : Claim) (xs : List Claim), xs.Pairwise (fun y z => z.level ≤ y.level) →
    insertClaim x xs = xs.filter (fun y => decide (x.level ≤ y.level)) ++ x :: xs.filter (fun y => decide (y.level < x.level))) ∧
  (∀ (xs : List Claim) (r d : Claim), (xs.map (·.port)).Nodup → xs.Pairwise (fun y z => z.level ≤ y.level) →
    r ∈ xs → d ∈ xs → r.port ≠ d.port → r.level = d.level →
    let ys := grantReorder r.port d.port xs
    ys.Perm xs ∧ ys.Pairwise (fun y z => z.level ≤ y.level) ∧
      ys.filter (fun y => decide (y.level = r.level)) =
        r :: d :: xs.filter (fun y => decide (y.level = r.level) && y.port != r.port && y.port != d.port) ∧
      ys.filter (fun y => y.port != r.port && y.port != d.port) =
        xs.filter (fun y => y.port != r.port && y.port != d.port))

/-- The checks of CLAIM after the port's standing, in their order; each refusal changes nothing but the response. -/
def Obligations.ClaimIsCheckedInOrder : Prop :=
  ∀ (p : Port) (ch lv : Byte) (v : BitVec 24) (pol : Byte) (s : State), s.hub.MayAsk p →
    let answer (r : Result) : Prop :=
      exec (.claim p ch lv v pol) s = .next { s with hub := (Hub.restartLease p s.hub).respond p r [] }
    if s.hub.mode = .faultHold then answer .startupFault
    else if 22 < ch.toNat then answer .badChannel
    else if lv.toNat < 1 ∨ 7 < lv.toNat then answer .badLevel
    else if 5 < lv.toNat ∧ (s.hub.portItem p).protectedGrant = false then answer .levelDenied
    else
      match channelNo ch with
      | none => True
      | some c =>
        if commandFor s.hub.work c v = none ∨ policyOf pol = none then answer .badValue
        else if (claimOf p (s.hub.chan c).claims).isSome then True
        else if (s.hub.portItem p).quota ≤ s.hub.holding p then answer .quota
        else if 48 ≤ s.hub.poolCount then answer .poolFull
        else True

/-- A CLAIM that passes its checks from a port with no claim on the channel: a new LIVE claim at the tail of its level, the
channel formed, PLACED with place and count; nothing beyond the channel and its engine is reached. -/
def Obligations.ClaimIsPlaced : Prop :=
  ∀ (p : Port) (ch lv : Byte) (v : BitVec 24) (pol : Byte) (c : Fin 23) (value : Command) (policy : Policy) (s : State),
    s.hub.MayAsk p → s.hub.mode ≠ .faultHold → channelNo ch = some c → 1 ≤ lv.toNat → lv.toNat ≤ 7 →
    (5 < lv.toNat → (s.hub.portItem p).protectedGrant = true) → commandFor s.hub.work c v = some value →
    policyOf pol = some policy → claimOf p (s.hub.chan c).claims = none →
    s.hub.holding p < (s.hub.portItem p).quota → s.hub.poolCount < 48 →
    ∃ t : Hub,
      exec (.claim p ch lv v pol) s = .next { s with
        hub := t.respond p .placed [byteOf (placeOf p (t.chan c).claims), byteOf (t.chan c).claims.length] } ∧
      (t.chan c).claims = insertClaim ⟨p, lv.toNat, value, policy, .live⟩ (s.hub.chan c).claims ∧
      (t.chan c).handover = (s.hub.chan c).handover ∧ (t.chan c).input = (s.hub.chan c).input ∧
      t.holding p = s.hub.holding p + 1 ∧ t.poolCount = s.hub.poolCount + 1 ∧
      t.Formed c ∧ Hub.StayTaken c s.hub t ∧ Hub.Reach (Hub.only c) (Hub.restartLease p s.hub) t

/-- A CLAIM that passes its checks from a port that holds a claim on the channel replaces it: at its own level in its place,
at another level at the tail of that level; value and policy as asked; REPLACED with place and count. A change of level by the
holder or the requester of a pending handover CANCELS it, with HANDOVER_DONE to the requester; any other replacement leaves it
pending. -/
def Obligations.ClaimIsReplaced : Prop :=
  ∀ (p : Port) (ch lv : Byte) (v : BitVec 24) (pol : Byte) (c : Fin 23) (value : Command) (policy : Policy) (old : Claim)
    (s : State),
    s.hub.MayAsk p → s.hub.mode ≠ .faultHold → channelNo ch = some c → 1 ≤ lv.toNat → lv.toNat ≤ 7 →
    (5 < lv.toNat → (s.hub.portItem p).protectedGrant = true) → commandFor s.hub.work c v = some value →
    policyOf pol = some policy → claimOf p (s.hub.chan c).claims = some old →
    ((s.hub.chan c).claims.map (·.port)).Nodup →
    ∃ t : Hub,
      exec (.claim p ch lv v pol) s = .next { s with
        hub := t.respond p .replaced [byteOf (placeOf p (t.chan c).claims), byteOf (t.chan c).claims.length] } ∧
      (t.chan c).claims =
        (if old.level = lv.toNat then
          (s.hub.chan c).claims.map fun x => if x.port = p then { old with value := value, policy := policy } else x
        else
          insertClaim { old with level := lv.toNat, value := value, policy := policy }
            (withoutPort p (s.hub.chan c).claims)) ∧
      (t.chan c).handover =
        (match (s.hub.chan c).handover.pending with
         | none => (s.hub.chan c).handover
         | some w =>
           if old.level ≠ lv.toNat ∧ (p = w.holder ∨ p = w.requester) then
             ⟨none, some ⟨.cancelled, w.requester, w.holder⟩⟩
           else (s.hub.chan c).handover) ∧
      (∀ w, (s.hub.chan c).handover.pending = some w → old.level ≠ lv.toNat → p = w.holder ∨ p = w.requester →
        (t.port w.holder).asked.getLsbD c.val = false ∧
          (s.hub.attached w.requester = true →
            t.hasFlag w.requester .handoverDone = true ∧ t.hasChange w.requester c = true)) ∧
      (t.chan c).input = (s.hub.chan c).input ∧ t.poolCount = s.hub.poolCount ∧
      t.Formed c ∧ Hub.StayTaken c s.hub t ∧ Hub.Reach (Hub.only c) (Hub.restartLease p s.hub) t

/-- RELEASE of a claim the port holds: the claim is gone, the others in their order; a handover in which the port is holder
is VACATED, one in which it is requester CANCELLED, with HANDOVER_DONE to an ATTACHED requester; the channel is formed, a stepper
whose list empties taking its stay value; OK.
RELEASE_ALL: no claim of the port is left, its handovers are settled as RELEASE settles one, every channel on which it held a
claim is formed, nothing beyond those channels is reached; OK with the number removed.
The refusals of both, in the order of their checks. -/
def Obligations.ReleasesRemoveThePortsClaims : Prop :=
  (∀ (p : Port) (ch : Byte) (c : Fin 23) (s : State),
    s.hub.MayAsk p → s.hub.mode ≠ .faultHold → channelNo ch = some c → s.hub.holdsClaim p c = true →
    ∃ t : Hub,
      exec (.release p ch) s = .next { s with hub := t.respond p .ok [] } ∧
      (t.chan c).claims = withoutPort p (s.hub.chan c).claims ∧
      Hub.HandoverSettled c (s.hub.removalOutcome p c) s.hub t ∧
      t.Formed c ∧ Hub.StayTaken c s.hub t ∧ Hub.Reach (Hub.only c) (Hub.restartLease p s.hub) t) ∧
  (∀ (p : Port) (s : State), s.hub.MayAsk p → s.hub.mode ≠ .faultHold →
    ∃ t : Hub,
      exec (.releaseAll p) s = .next { s with hub := t.respond p .ok [byteOf (s.hub.holding p)] } ∧
      (∀ c, (t.chan c).claims = withoutPort p (s.hub.chan c).claims) ∧
      (∀ c, Hub.HandoverSettled c (s.hub.removalOutcome p c) s.hub t) ∧
      (∀ c, s.hub.holdsClaim p c = true → t.Formed c ∧ Hub.StayTaken c s.hub t) ∧
      Hub.Reach (s.hub.heldBy p) (Hub.restartLease p s.hub) t) ∧
  (∀ (p : Port) (ch : Byte) (s : State), s.hub.MayAsk p →
    RefusedInOrder (.release p ch) p s
      [(s.hub.mode = .faultHold, .startupFault), (22 < ch.toNat, .badChannel),
        (∀ c, channelNo ch = some c → s.hub.holdsClaim p c = false, .noClaim)] ∧
    RefusedInOrder (.releaseAll p) p s [(s.hub.mode = .faultHold, .startupFault)])

/-- CLEAR_ORPHANS: the ORPHANED claims up to the port's highest usable level are gone, the others in their order, a handover
of which none of them is part stays, and the channel is formed where any went; OK with the number removed. Its refusals, in the order of its checks. -/
def Obligations.ClearOrphansRemovesOrphansOfTheChannel : Prop :=
  (∀ (p : Port) (ch : Byte) (s : State), s.hub.MayAsk p →
    RefusedInOrder (.clearOrphans p ch) p s
      [(s.hub.mode = .faultHold, .startupFault), (22 < ch.toNat, .badChannel)]) ∧
  ∀ (p : Port) (ch : Byte) (c : Fin 23) (s : State),
    s.hub.MayAsk p → s.hub.mode ≠ .faultHold → channelNo ch = some c →
    let limit := if (s.hub.portItem p).protectedGrant then 7 else 5
    let gone := (s.hub.chan c).claims.filter fun x => x.state == .orphaned && decide (x.level ≤ limit)
    ∃ t : Hub,
      exec (.clearOrphans p ch) s = .next { s with hub := t.respond p .ok [byteOf gone.length] } ∧
      (t.chan c).claims = (s.hub.chan c).claims.filter (fun x => !(x.state == .orphaned && decide (x.level ≤ limit))) ∧
      ((∀ w, (s.hub.chan c).handover.pending = some w → ∀ x ∈ gone, x.port ≠ w.holder ∧ x.port ≠ w.requester) →
        (t.chan c).handover = (s.hub.chan c).handover) ∧
      (gone = [] → t = Hub.restartLease p s.hub) ∧ (gone ≠ [] → t.Formed c ∧ Hub.StayTaken c s.hub t) ∧
      Hub.Reach (Hub.only c) (Hub.restartLease p s.hub) t

/-! ## Arbitration -/

/-- WON and LOST at a forming: where the winner's port differs from the winner mark, the new winner's port is given WON and
the old one LOST, each with the channel in its change set and each only while ATTACHED; where it does not, neither flag of
any port changes. A port that is not ATTACHED keeps its flags and change set. -/
def Obligations.FormingGivesWonAndLost : Prop :=
  ∀ (c : Fin 23) (cause : FormCause) (h : Hub),
    let t := h.form c cause
    let before := (h.chan c).winner
    let after := h.winnerPort c
    (t.chan c).winner = after ∧
      (∀ p, t.hasFlag p .won =
        (h.hasFlag p .won || (decide (before ≠ after ∧ after = some p) && h.attached p))) ∧
      (∀ p, t.hasFlag p .lost =
        (h.hasFlag p .lost || (decide (before ≠ after ∧ before = some p) && h.attached p))) ∧
      (∀ p, before ≠ after → (after = some p ∨ before = some p) → h.attached p = true → t.hasChange p c = true) ∧
      (∀ p, h.attached p = false → (t.port p).flags = (h.port p).flags ∧ (t.port p).change = (h.port p).change)

/-- Outside RUN a forming hands nothing to an engine: every output stays, the taken command stays, and the pair formed waits
as pending-effective exactly where it differs from the taken one. In RUN a forming whose pair is the one its engine has taken
moves no output.
In RUN a forming whose pair differs hands it to the channel's engine, as a command change where the command differs and else
as a source update: to the Relay unit, the Sounder unit, the lamp, which shows it, or the Stepper unit. A FROZEN Relay or
Sounder unit records it only; so does, of a source update, the Sounder unit and the Relay unit for an ungrouped relay.
A command change makes a RUNNING, REFERENCED unit that is IDLE, or PAUSED with no REFERENCE waiting, decide at once;
in every other condition and engine state, and for a source update, it is recorded only.
The stay value of a stepper channel under the fallback STAY, in every mode: taken from the stepper where FALLBACK becomes the
source, where the fallback is written to STAY from POSITION and at the end of the load; its rate alone taken at a write of the
reference rate index; else kept; absent under a claim or a fallback of POSITION. It is the effective command while it stands. -/
def Obligations.FormingHandsOnByTheMode : Prop :=
  (∀ (c : Fin 23) (cause : FormCause) (h : Hub), h.mode ≠ .run →
    h.SameOutputs (h.form c cause) ∧ ((h.form c cause).chan c).taken = (h.chan c).taken ∧
      ((h.form c cause).chan c).pendingEff =
        if (h.chan c).taken = some ((h.form c cause).chan c).eff then none else some ((h.form c cause).chan c).eff) ∧
  (∀ (c : Fin 23) (cause : FormCause) (h : Hub), h.mode = .run →
    (h.chan c).taken = some ((h.form c cause).chan c).eff → h.SameOutputs (h.form c cause)) ∧
  (∀ (c : Fin 23) (cause : FormCause) (h : Hub), h.mode = .run →
    let pair := ((h.form c cause).chan c).eff
    (h.chan c).taken ≠ some pair →
    ∃ m : Hub, m = { h with ports := m.ports, channels := m.channels } ∧
      (∀ k, (m.chan k).taken = (h.chan k).taken) ∧ (∀ k, k ≠ c → m.chan k = h.chan k) ∧ (m.chan c).eff = pair ∧
      (let given := m.modChan c fun x => { x with taken := some pair }
       let change : Bool := decide ((h.chan c).taken.map Pair.command ≠ some pair.command)
       (∀ r, c = relayChannel r → h.form c cause = Hub.relayTakes r change given m) ∧
         (c = soundChannel → h.form c cause = given.sounderTakes change) ∧
         (∀ l, c = lampChannel l → h.form c cause = if change then given.showLamp l else given) ∧
         ∀ u, c = stepperChannel u → h.form c cause = given.stepperTakes u change)) ∧
  (∀ (h before : Hub),
    (∀ r change, h.relayCond = .frozen → Hub.relayTakes r change h before = h) ∧
    (∀ r, h.groupOf r = none → Hub.relayTakes r false h before = h) ∧
    (∀ change, h.sounder.cond = .frozen → h.sounderTakes change = h) ∧ h.sounderTakes false = h ∧
    ∀ l, h.showLamp l = h.setLamp l (lampDrive h.flash (h.chan (lampChannel l)).taken)) ∧
  (∀ (u : Fin 2) (h : Hub),
    let x := h.stepper u
    h.stepperTakes u false = h ∧
    (x.cond ≠ .running ∨ x.ref ≠ .referenced ∨ (∃ d k, x.engine = .moving d k) ∨ (∃ k, x.engine = .referencing k) ∨
        (∃ k, x.engine = .reversing k) ∨ (x.engine = .paused ∧ x.refReq = true) → h.stepperTakes u true = h) ∧
    (x.cond = .running → x.ref = .referenced → x.engine = .idle ∨ (x.engine = .paused ∧ x.refReq = false) →
      Hub.Decided u h (h.stepperTakes u true) ∧
        Hub.Reach (Hub.only (stepperChannel u)) h (h.stepperTakes u true))) ∧
  ∀ (u : Fin 2) (cause : FormCause) (h : Hub), Hub.StayFormed u cause h (h.form (stepperChannel u) cause)

/-! ## Handover -/

/-- HANDOVER against a LIVE winner of another port at the level of the asker's claim: the record is pending with the
channel's timeout, the holder is given HANDOVER_ASKED with the channel in its asked set, STARTED with holder and timeout;
nothing else moves.
HANDOVER against an ORPHANED winner is resolved at once by the channel's default outcome.
Its refusals, in the order of its checks. -/
def Obligations.HandoverAsksOrIsResolvedAtOnce : Prop :=
  (∀ (p : Port) (ch : Byte) (c : Fin 23) (w own : Claim) (rest : List Claim) (s : State),
    s.hub.MayAsk p → s.hub.mode ≠ .faultHold → channelNo ch = some c → (s.hub.chan c).handover.pending = none →
    (s.hub.chan c).claims = w :: rest → claimOf p (w :: rest) = some own → w.port ≠ p → w.level = own.level →
    w.state = .live → s.hub.attached w.port = true →
    exec (.handover p ch) s = .next { s with
      hub := (((Hub.restartLease p s.hub).modChan c fun x =>
          { x with
            handover := { x.handover with
              pending := some ⟨p, w.port, Config.ms (100 * s.hub.work.handovers[c].timeout)⟩ } }).modPort w.port fun t =>
          { t with flags := t.flags ||| 0x4, asked := t.asked ||| channelBit c }).respond p .started
            [byteOf w.port.idx.val, byteOf s.hub.work.handovers[c].timeout] }) ∧
  (∀ (p : Port) (ch : Byte) (c : Fin 23) (w own : Claim) (rest : List Claim) (s : State),
    s.hub.MayAsk p → s.hub.mode ≠ .faultHold → channelNo ch = some c → (s.hub.chan c).handover.pending = none →
    (s.hub.chan c).claims = w :: rest → claimOf p (w :: rest) = some own → w.port ≠ p → w.level = own.level →
    w.state = .orphaned →
    let grants := s.hub.work.handovers[c].grant
    let outcome := if grants then HandoverOutcome.timedOutGranted else .timedOutDenied
    ∃ t : Hub,
      exec (.handover p ch) s = .next { s with hub := t.respond p .ok [byteOf w.port.idx.val, outcome.code] } ∧
      Hub.Resolved c outcome p w.port grants (Hub.restartLease p s.hub) t) ∧
  (∀ (p : Port) (ch : Byte) (s : State), s.hub.MayAsk p →
    RefusedInOrder (.handover p ch) p s
      [(s.hub.mode = .faultHold, .startupFault), (22 < ch.toNat, .badChannel),
        (∀ c, channelNo ch = some c → s.hub.holdsClaim p c = false, .noClaim),
        (∃ c, channelNo ch = some c ∧ (s.hub.chan c).handover.pending.isSome = true, .handoverBusy),
        (∃ c w own, channelNo ch = some c ∧ (s.hub.chan c).claims.head? = some w ∧
          claimOf p (s.hub.chan c).claims = some own ∧ (w.port = p ∨ w.level ≠ own.level), .notContested)])

/-- ANSWER of the holder: YIELD grants the handover, DECLINE leaves list and outputs; OK with the outcome. The refusals of
ANSWER, in the order of its checks. The expiry of a pending handover's timer resolves it by the channel's default outcome;
with none pending nothing happens (log 4, the model's choice). -/
def Obligations.AnswersAndExpiriesResolveTheHandover : Prop :=
  (∀ (p : Port) (ch answer : Byte) (c : Fin 23) (w : PendingHandover) (s : State),
    s.hub.MayAsk p → s.hub.mode ≠ .faultHold → channelNo ch = some c → answer = 1 ∨ answer = 2 →
    (s.hub.chan c).handover.pending = some w → w.holder = p →
    let outcome := if answer = 1 then HandoverOutcome.granted else .declined
    ∃ t : Hub,
      exec (.answer p ch answer) s = .next { s with hub := t.respond p .ok [outcome.code] } ∧
      Hub.Resolved c outcome w.requester p (answer == 1) (Hub.restartLease p s.hub) t) ∧
  (∀ (p : Port) (ch answer : Byte) (s : State), s.hub.MayAsk p →
    RefusedInOrder (.answer p ch answer) p s
      [(s.hub.mode = .faultHold, .startupFault), (22 < ch.toNat, .badChannel),
        (answer ≠ 1 ∧ answer ≠ 2, .badValue),
        (∀ c w, channelNo ch = some c → (s.hub.chan c).handover.pending = some w → w.holder ≠ p, .noHandover)]) ∧
  (∀ (c : Fin 23) (s : State),
    ((s.hub.chan c).handover.pending = none → exec (.handoverTimerExpiry c) s = .next s) ∧
    ∀ w, (s.hub.chan c).handover.pending = some w →
      let grants := s.hub.work.handovers[c].grant
      ∃ t : Hub, exec (.handoverTimerExpiry c) s = .next { s with hub := t } ∧
        Hub.Resolved c (if grants then .timedOutGranted else .timedOutDenied) w.requester w.holder grants s.hub t)

/-! ## Relays and interlock groups -/

/-- An ungrouped relay of a RUNNING unit takes a command change, by its engine state and its min-time run. -/
def Obligations.UngroupedRelayFollowsItsCommand : Prop :=
  ∀ (r : Fin 12) (h before : Hub), h.relayCond = .running → h.groupOf r = none →
    let t := Hub.relayTakes r true h before
    let x := h.relay r
    let closed : Relay := ⟨.on, none, true, Hub.minOnRun (Config.ms (100 * h.work.relays[r].minOn))⟩
    let opened : Relay := ⟨.off, none, false, Hub.minOffRun (Config.ms (100 * h.work.relays[r].minOff))⟩
    t = h.modRelay r fun _ =>
      if h.asksOn r then
        match x.state with
        | .on => x
        | .waitMinOff => x
        | .waitMinOn => { x with state := .on, leave := none }
        | .off => if h.minOffRunning r then { x with state := .waitMinOff, leave := none } else closed
        | .waitDead => if h.minOffRunning r then { x with state := .waitMinOff, leave := none } else closed
        | .heldOff => if h.minOffRunning r then { x with state := .waitMinOff, leave := none } else closed
      else
        match x.state with
        | .on => if h.minOnRunning r then { x with state := .waitMinOn, leave := some .command } else opened
        | .waitMinOn => x
        | .off => x
        | .waitMinOff => { x with state := .off, leave := none }
        | .waitDead => { x with state := .off, leave := none }
        | .heldOff => { x with state := .off, leave := none }

/-- The expiry of a relay's min-time run. While the unit is FROZEN the mark alone becomes EXPIRED. An ungrouped relay of a
RUNNING unit that waited on the run is switched; a member's group runs its contest. With no run there is no event (log 4, the
model's choice).
The expiry of a group's dead timer: the timer is EXPIRED, and a group in use of a RUNNING unit runs its contest. That the
first expiry after a restart in the same moment is the cut run's, and clears the mark of the cut, is log 26. -/
def Obligations.RelayTimersExpireByTheUnitsCondition : Prop :=
  (∀ (r : Fin 12) (s : State),
    let x := s.hub.relay r
    let ended := s.hub.modRelay r fun t => { t with mark := .expired }
    (x.mark = .expired ∨ x.mark = .fromReset → exec (.minTimeExpiry r) s = .next s) ∧
    ((∃ k, x.mark = .minOn k ∨ x.mark = .minOff k) →
      (s.hub.relayCond = .frozen → exec (.minTimeExpiry r) s = .next { s with hub := ended }) ∧
      (s.hub.relayCond = .running → ∀ g, s.hub.groupOf r = some g →
        exec (.minTimeExpiry r) s = .next { s with hub := ended.contest g s.hub } ∧
          Hub.Reach (Hub.only (relayChannel r)) s.hub (ended.contest g s.hub)) ∧
      (s.hub.relayCond = .running → s.hub.groupOf r = none →
        exec (.minTimeExpiry r) s = .next { s with
          hub := s.hub.modRelay r fun _ =>
            match x.state with
            | .waitMinOff => ⟨.on, none, true, Hub.minOnRun (Config.ms (100 * s.hub.work.relays[r].minOn))⟩
            | .waitMinOn => ⟨.off, none, false, Hub.minOffRun (Config.ms (100 * s.hub.work.relays[r].minOff))⟩
            | .off => { x with mark := .expired }
            | .on => { x with mark := .expired }
            | .waitDead => { x with mark := .expired }
            | .heldOff => { x with mark := .expired } }))) ∧
  (∀ (g : Fin 4) (left : Nat) (s : State), s.hub.deadTimer g = .running left true →
    exec (.deadTimerExpiry g) s = .next { s with hub := s.hub.setDead g (.running left false) }) ∧
  (∀ (g : Fin 4) (left : Nat) (s : State), s.hub.deadTimer g = .running left false →
    let ended := s.hub.setDead g .expired
    (s.hub.relayCond = .frozen ∨ s.hub.groupInUse g = false →
      exec (.deadTimerExpiry g) s = .next { s with hub := ended }) ∧
    (s.hub.relayCond = .running → s.hub.groupInUse g = true →
      exec (.deadTimerExpiry g) s = .next { s with hub := ended.contest g s.hub }))

/-- At the expiry of the dead time a member that waits in WAIT_DEAD, asks for ON, has no MIN_OFF run and finds every other
member OFF and asking for nothing is switched ON, its MIN_ON run starting; the other members stay. -/
def Obligations.DeadTimerExpiryClosesTheWaitingMember : Prop :=
  ∀ (g : Fin 4) (r : Fin 12) (left : Nat) (s : State),
    s.hub.deadTimer g = .running left false → s.hub.relayCond = .running → s.hub.namesRelay g r = true →
    (s.hub.relay r).state = .waitDead → (s.hub.relay r).output = false → s.hub.asksOn r = true →
    s.hub.minOffRunning r = false →
    (∀ q, s.hub.namesRelay g q = true → q ≠ r →
      (s.hub.relay q).state = .off ∧ (s.hub.relay q).output = false ∧ s.hub.asksOn q = false) →
    ∃ t : Hub, exec (.deadTimerExpiry g) s = .next { s with hub := t } ∧
      t.relay r = ⟨.on, none, true, Hub.minOnRun (Config.ms (100 * s.hub.work.relays[r].minOn))⟩ ∧
      (∀ q, q ≠ r → t.relay q = s.hub.relay q) ∧ t.deadTimer g = .expired

/-- A pass of the contest is five steps. The first settles each member that leaves or withdraws: one that is ON and no longer
asked waits in WAIT_MIN_ON while its MIN_ON runs, else is switched OFF; one in WAIT_MIN_ON that left by command and is asked
again is ON, and any other is switched OFF at the end of its MIN_ON, into HELD_OFF where it is asked ON; one that waits and is
no longer asked is OFF. A switch to OFF starts the dead timer (log 26: the mark of a run cut short).
The second preempts: with preempt on, an incumbent below the level of another member that asks for ON and is not leaving is
forced out, to WAIT_MIN_ON while its MIN_ON runs, else to HELD_OFF; in every other case it stays.
The third chooses, where no incumbent stays, among the members that ask for ON and are neither ON nor in WAIT_MIN_ON one of
the highest source level, of those the lowest channel number: it enters WAIT_DEAD. The fourth makes the others of them
HELD_OFF. The fifth switches the member in WAIT_DEAD ON exactly while no other member is physically ON, the dead timer is
EXPIRED and the member has no MIN_OFF run. A pass that switches a member is followed by another.
A hand-over to a grouped relay of a RUNNING unit runs the contest. At the end of a run INTERLOCK, with the relay's channel, is
given to the ATTACHED port of the source of every member that is HELD_OFF and was not before the event, or was for another
port, and to no other port. That a run makes at most 32 passes is the model's bound (log 20): R99 ends a run with
the first pass that switches nothing. -/
def Obligations.ContestChoosesTheStrongestAndClosesOnlyWhenFree : Prop :=
  (∀ (g : Fin 4) (h : Hub),
    (∀ r, h.choose g = some r →
      h.namesRelay g r = true ∧ h.eligible r = true ∧
        ∀ q, h.namesRelay g q = true → h.eligible q = true →
          h.sourceLevel q < h.sourceLevel r ∨ (h.sourceLevel q = h.sourceLevel r ∧ r ≤ q)) ∧
    (h.choose g = none → ∀ q, h.namesRelay g q = true → h.eligible q = false) ∧
    (∀ r, (h.relay r).output = false → ((h.closeChosen g).relay r).output = true →
      h.namesRelay g r = true ∧ (h.relay r).state = .waitDead ∧ h.deadTimer g = .expired ∧
        h.minOffRunning r = false ∧ ∀ q, h.namesRelay g q = true → q ≠ r → (h.relay q).output = false) ∧
    ((∀ r, h.namesRelay g r = true → (h.relay r).state ≠ .waitDead) → h.closeChosen g = h) ∧
    ∀ r, h.namesRelay g r = true → (h.relay r).state = .waitDead →
      (∀ q, q < r → h.namesRelay g q = true → (h.relay q).state ≠ .waitDead) →
      let free := h.deadTimer g = .expired ∧ h.minOffRunning r = false ∧
        ∀ q, h.namesRelay g q = true → q ≠ r → (h.relay q).output = false
      (free → h.closeChosen g =
        h.modRelay r fun _ => ⟨.on, none, true, Hub.minOnRun (Config.ms (100 * h.work.relays[r].minOn))⟩) ∧
      (¬ free → h.closeChosen g = h)) ∧
  (∀ (g : Fin 4) (r : Fin 12) (h : Hub), h.groupOf r = some g →
    let x := h.relay r
    let t := h.settleMember r
    let opens := h.minOnRunning r = false ∧
      (x.state = .on ∧ h.asksOn r = false ∨ x.state = .waitMinOn ∧ ¬ (x.leave = some .command ∧ h.asksOn r = true))
    t = { h with relays := t.relays, dead := t.dead } ∧ (∀ q, q ≠ r → t.relay q = h.relay q) ∧
      (opens → t.relay r =
        ⟨if h.asksOn r then .heldOff else .off, none, false, Hub.minOffRun (Config.ms (100 * h.work.relays[r].minOff))⟩) ∧
      (¬ opens → t.relay r =
        match x.state, h.asksOn r with
        | .waitMinOn, true => if x.leave = some .command then { x with state := .on, leave := none } else x
        | .waitMinOn, false => x
        | .on, true => x
        | .on, false => { x with state := .waitMinOn, leave := some .command }
        | .off, _ => x
        | .waitDead, true => x
        | .heldOff, true => x
        | .waitMinOff, true => x
        | .waitDead, false => { x with state := .off, leave := none }
        | .heldOff, false => { x with state := .off, leave := none }
        | .waitMinOff, false => { x with state := .off, leave := none }) ∧
      (opens → t.deadTimer g = Hub.deadRun (Config.ms (10 * h.work.groups[g].deadTime)) (h.deadRunning g)) ∧
      ∀ k, k ≠ g ∨ ¬ opens → t.deadTimer k = h.deadTimer k) ∧
  (∀ (g : Fin 4) (incumbent : Option (Fin 12)) (h : Hub),
    let t := h.chooseAndHold g incumbent
    t = { h with relays := t.relays } ∧
      ∀ r, t.relay r =
        if incumbent = none ∧ h.choose g = some r then { h.relay r with state := .waitDead, leave := none }
        else if h.namesRelay g r = true ∧ h.asksOn r = true ∧ (h.relay r).state ≠ .on ∧ (h.relay r).state ≠ .waitMinOn ∧
            incumbent ≠ some r then { h.relay r with state := .heldOff, leave := none }
        else h.relay r) ∧
  (∀ (g : Fin 4) (h : Hub),
    let settled := ((List.finRange 12).filter (h.namesRelay g)).foldl Hub.settleMember h
    let forced := settled.preemption g
    let held := forced.1.chooseAndHold g forced.2
    let closed := held.closeChosen g
    (h.contestPass g).1 = closed ∧
      ((h.contestPass g).2 = true ↔ ∃ r, (settled.relay r).output ≠ (h.relay r).output ∨
        (forced.1.relay r).output ≠ (settled.relay r).output ∨ (closed.relay r).output ≠ (held.relay r).output) ∧
      ∀ more, h.contestPasses g (more + 1) =
        if (h.contestPass g).2 then closed.contestPasses g more else closed) ∧
  (∀ (g : Fin 4) (h : Hub),
    let outranks (i q : Fin 12) : Prop :=
      h.namesRelay g q = true ∧ h.asksOn q = true ∧ q ≠ i ∧ (h.relay q).state ≠ .waitMinOn ∧
        h.sourceLevel i < h.sourceLevel q
    (∀ i, h.incumbent g = some i → h.work.groups[g].preempt = true → (∃ q, outranks i q) →
      (h.preemption g).2 = none ∧ (∀ q, q ≠ i → (h.preemption g).1.relay q = h.relay q) ∧
        ((h.relay i).state = .on → h.minOnRunning i = true →
          (h.preemption g).1.relay i = { h.relay i with state := .waitMinOn, leave := some .preempted }) ∧
        ((h.relay i).state = .on → h.minOnRunning i = false →
          (h.preemption g).1.relay i =
            ⟨.heldOff, none, false, Hub.minOffRun (Config.ms (100 * h.work.relays[i].minOff))⟩ ∧
          (h.groupOf i = some g → (h.preemption g).1.deadTimer g =
            Hub.deadRun (Config.ms (10 * h.work.groups[g].deadTime)) (h.deadRunning g))) ∧
        ((h.relay i).state = .waitDead →
          (h.preemption g).1.relay i = { h.relay i with state := .heldOff, leave := none })) ∧
    ((∀ i, h.incumbent g = some i → h.work.groups[g].preempt = false ∨ ∀ q, ¬ outranks i q) →
      h.preemption g = (h, h.incumbent g))) ∧
  (∀ (r : Fin 12) (g : Fin 4) (change : Bool) (h before : Hub), h.relayCond = .running → h.groupOf r = some g →
    Hub.relayTakes r change h before = h.contest g before) ∧
  (∀ (g : Fin 4) (h before : Hub),
    let t := h.contest g before
    let heldAnew (r : Fin 12) : Prop :=
      h.namesRelay g r = true ∧ (t.relay r).state = .heldOff ∧
        ((before.relay r).state ≠ .heldOff ∨ h.sourcePort r ≠ before.sourcePort r)
    t.relays = (h.contestPasses g 32).relays ∧
      (∀ p r, heldAnew r → h.sourcePort r = some p → h.attached p = true →
        t.hasFlag p .interlock = true ∧ t.hasChange p (relayChannel r) = true) ∧
      (∀ p, t.hasFlag p .interlock = true → h.hasFlag p .interlock = false →
        ∃ r, heldAnew r ∧ h.sourcePort r = some p ∧ h.attached p = true))

/-! ## Steppers -/

/-- REFERENCE that passes its checks: an IDLE stepper starts its run, at once or after a reversal pause or as STEP_INHIBIT
allows; one that is MOVING, REVERSING or PAUSED keeps the request waiting. STARTED. Its refusals, in the order of its
checks. -/
def Obligations.ReferenceStartsOrWaits : Prop :=
  (∀ (p : Port) (ch : Byte) (s : State), s.hub.MayAsk p →
    RefusedInOrder (.reference p ch) p s
      [(ch ≠ 21 ∧ ch ≠ 22, .badChannel), (s.hub.mode = .faultHold, .wrongMode),
        (s.hub.mode = .holding ∨ s.hub.mode = .held, .held),
        (∃ u w, stepperOf ch = some u ∧ s.hub.winnerPort (stepperChannel u) = some w ∧ w ≠ p, .notWinner),
        (∃ u, stepperOf ch = some u ∧ ((s.hub.stepper u).ref = .referencing ∨ (s.hub.stepper u).refReq = true),
          .already)]) ∧
  ∀ (p : Port) (ch : Byte) (u : Fin 2) (s : State), s.hub.MayAsk p → s.hub.mode = .run → stepperOf ch = some u →
    (s.hub.winnerPort (stepperChannel u) = none ∨ s.hub.winnerPort (stepperChannel u) = some p) →
    (s.hub.stepper u).ref ≠ .referencing → (s.hub.stepper u).refReq = false →
    let x := s.hub.stepper u
    let i := s.hub.work.steppers[u]
    ∃ t : Hub, exec (.reference p ch) s = .next { s with hub := t.respond p .started [] } ∧
      Hub.Reach (Hub.only (stepperChannel u)) (Hub.restartLease p s.hub) t ∧
      (x.engine = .idle →
        (t.stepper u).ref = .referencing ∧ (t.stepper u).runCount = i.travel + i.overtravel ∧
          (t.stepper u).refReq = false ∧ (t.stepper u).pos = x.pos ∧
          (t.stepper u).engine =
            (if x.lastDir = some .up then .reversing (Config.ms 40)
             else if s.hub.stepInhibit then .paused else .referencing (Config.stepTime i.refRate))) ∧
      ((∃ d k, x.engine = .moving d k) ∨ (∃ k, x.engine = .reversing k) ∨ x.engine = .paused →
        t.stepper u = { x with refReq := true })

/-- A step toward the target completes in RUN: the position counter moves by one, one pulse has been given, and the unit
goes on by its request, its target and STEP_INHIBIT; an arrival gives ARRIVED to the port of a PORT source. A REFERENCE that
waits starts its run, its count the travel limit and the overtravel: after a step UP with the reversal pause, under STEP_INHIBIT too (log 32, the
model's reading of R122 beside R124), else with its first step, or PAUSED under STEP_INHIBIT.
A step that completes in a drain brings its unit to rest, its position counted; at the pursued position it is an arrival and
gives ARRIVED, but not while a REFERENCE waits (log 15, the model's reading of R121 and R125); where the other unit is at rest
too, the hub passes to HELD and every ATTACHED port is given HOLD_EFFECTIVE. -/
def Obligations.StepCompletionMovesThePositionOrRests : Prop :=
  (∀ (u : Fin 2) (d : Dir) (left target rate : Nat) (source : Source) (s : State), s.hub.mode = .run →
    (s.hub.stepper u).cond = .running → (s.hub.stepper u).engine = .moving d left →
    (s.hub.stepper u).ref = .referenced →
    (s.hub.chan (stepperChannel u)).taken = some ⟨.target target rate, source⟩ →
    let x := s.hub.stepper u
    let pos := match d with
      | .up => x.pos + 1
      | .down => x.pos - 1
    let goal := min target s.hub.work.steppers[u].travel
    let onward := if pos < goal then Dir.up else Dir.down
    ∃ t : Hub, exec (.stepCompletion u) s = .next { s with hub := t } ∧
      Hub.Reach (Hub.only (stepperChannel u)) s.hub t ∧
      (t.stepper u).pos = pos ∧ (t.stepper u).pulses = x.pulses + 1 ∧ (t.stepper u).cond = .running ∧
      (x.refReq = true → (t.stepper u).ref = .referencing ∧ (t.stepper u).refReq = false) ∧
      (x.refReq = true →
        let run : Stepper := { x with
          pos := pos, pulses := x.pulses + 1, lastDir := some d, ref := .referencing, refReq := false
          runCount := s.hub.work.steppers[u].travel + s.hub.work.steppers[u].overtravel }
        (d = .up → t.stepper u = { run with engine := .reversing (Config.ms 40) }) ∧
        (d = .down → s.hub.stepInhibit = true → t.stepper u = { run with engine := .paused, lastDir := none }) ∧
        (d = .down → s.hub.stepInhibit = false →
          t.stepper u = { run with
            engine := .referencing (Config.stepTime s.hub.work.steppers[u].refRate), dirUp := false })) ∧
      (x.refReq = false →
        (t.stepper u).ref = .referenced ∧
        (pos = goal →
          (t.stepper u).engine = .idle ∧ (t.stepper u).lastDir = none ∧
            ∀ q level, source = .port q level → s.hub.attached q = true →
              t.hasFlag q .arrived = true ∧ t.hasChange q (stepperChannel u) = true) ∧
        (pos ≠ goal → s.hub.stepInhibit = true → (t.stepper u).engine = .paused ∧ (t.stepper u).lastDir = none) ∧
        (pos ≠ goal → s.hub.stepInhibit = false → onward = d →
          (t.stepper u).engine = .moving d (Config.stepTime rate) ∧ (t.stepper u).dirUp = (d == .up)) ∧
        (pos ≠ goal → s.hub.stepInhibit = false → onward ≠ d → (t.stepper u).engine = .reversing (Config.ms 40)))) ∧
  (∀ (u v : Fin 2) (d : Dir) (left : Nat) (s : State), u ≠ v → s.hub.mode = .holding →
    (s.hub.stepper u).cond = .draining → (s.hub.stepper u).engine = .moving d left →
    ∃ t : Hub, exec (.stepCompletion u) s = .next { s with hub := t } ∧
      (t.stepper u).pos = (match d with
        | .up => (s.hub.stepper u).pos + 1
        | .down => (s.hub.stepper u).pos - 1) ∧
      (t.stepper u).engine = .idle ∧ (t.stepper u).cond = .stopped ∧ (t.stepper u).lastDir = none ∧
      (t.stepper u).refReq = false ∧ (t.stepper u).ref = (s.hub.stepper u).ref ∧ t.stepper v = s.hub.stepper v ∧
      (∀ target rate q level,
        (s.hub.chan (stepperChannel u)).taken = some ⟨.target target rate, .port q level⟩ →
        (t.stepper u).pos = min target s.hub.work.steppers[u].travel → (s.hub.stepper u).refReq = false →
        s.hub.attached q = true →
        t.hasFlag q .arrived = true ∧ t.hasChange q (stepperChannel u) = true) ∧
      ((s.hub.stepper u).refReq = true → ∀ q, t.hasFlag q .arrived = s.hub.hasFlag q .arrived) ∧
      t.mode = (if (s.hub.stepper v).engine = .idle then .held else .holding) ∧
      ((s.hub.stepper v).engine = .idle → ∀ p, s.hub.attached p = true → t.hasFlag p .holdEffective = true) ∧
      Hub.Reach (Hub.only (stepperChannel u)) { s.hub with mode := t.mode } t)

/-- A step of a referencing run completes. In RUN the run count falls by one; at 0 the stepper is REFERENCED at position 0 and
decides, its last direction DOWN; else the next step starts or waits for STEP_INHIBIT. In a drain the run is aborted and the unit
at rest, after its last step too (log 16, the model's reading of R125 over R122); where the other unit is at rest too, the hub
passes to HELD and every ATTACHED port is given HOLD_EFFECTIVE. -/
def Obligations.ReferencingStepCountsTheRunDown : Prop :=
  ∀ (u : Fin 2) (left : Nat) (s : State), (s.hub.stepper u).engine = .referencing left →
    let x := s.hub.stepper u
    ∃ t : Hub, exec (.referencingStepCompletion u) s = .next { s with hub := t } ∧
      (t.stepper u).pulses = x.pulses + 1 ∧
      Hub.Reach (Hub.only (stepperChannel u)) { s.hub with mode := t.mode } t ∧
      (s.hub.mode ≠ .holding → t.mode = s.hub.mode) ∧
      (x.cond = .running → x.runCount ≤ 1 → (t.stepper u).ref = .referenced ∧ (t.stepper u).pos = 0 ∧
        Hub.Decided u
          (s.hub.modStepper u fun y =>
            { y with pos := 0, ref := .referenced, lastDir := some .down, runCount := 0, pulses := y.pulses + 1 })
          t) ∧
      (x.cond = .running → 1 < x.runCount →
        (t.stepper u).ref = x.ref ∧ (t.stepper u).pos = x.pos ∧ (t.stepper u).runCount = x.runCount - 1 ∧
          (t.stepper u).engine =
            if s.hub.stepInhibit then .paused else .referencing (Config.stepTime s.hub.work.steppers[u].refRate)) ∧
      (x.cond = .running → 1 < x.runCount → s.hub.stepInhibit = true →
        t.stepper u =
          { x with runCount := x.runCount - 1, pulses := x.pulses + 1, lastDir := none, engine := .paused }) ∧
      (x.cond = .running → 1 < x.runCount → s.hub.stepInhibit = false →
        t.stepper u =
          { x with
            runCount := x.runCount - 1, pulses := x.pulses + 1, lastDir := some .down, dirUp := false
            engine := .referencing (Config.stepTime s.hub.work.steppers[u].refRate) }) ∧
      (x.cond = .draining →
        (t.stepper u).ref = .unreferenced ∧ (t.stepper u).engine = .idle ∧ (t.stepper u).cond = .stopped ∧
          (t.stepper u).runCount = 0 ∧ (t.stepper u).refReq = false ∧ (t.stepper u).lastDir = none) ∧
      (x.cond = .draining → s.hub.mode = .holding → ∀ v, v ≠ u →
        t.stepper v = s.hub.stepper v ∧
          t.mode = (if (s.hub.stepper v).engine = .idle then .held else .holding) ∧
          ((s.hub.stepper v).engine = .idle → ∀ p, s.hub.attached p = true → t.hasFlag p .holdEffective = true))

/-- The end of a reversal pause: a run goes on with its count, a waiting request starts its run, its count the travel limit and
the overtravel, either PAUSED under STEP_INHIBIT; else the unit decides; a unit that is in no
pause does nothing (log 4, the model's choice).
STEP_INHIBIT: its assertion changes the input alone; at its release each RUNNING unit that stands PAUSED in a referencing
run starts the next step, one with a REFERENCE waiting starts its run, one that stands PAUSED short of its position starts
toward it, one that stands at it arrives, and a unit that does not stand PAUSED stays as it is. -/
def Obligations.PausedStepsGoOn : Prop :=
  (∀ (u : Fin 2) (s : State),
    let x := s.hub.stepper u
    ((∀ k, x.engine ≠ .reversing k) → exec (.reversalPauseEnd u) s = .next s) ∧
    ((∃ k, x.engine = .reversing k) →
      ∃ t : Hub, exec (.reversalPauseEnd u) s = .next { s with hub := t } ∧
        Hub.Reach (Hub.only (stepperChannel u)) s.hub t ∧ (t.stepper u).pos = x.pos ∧
        (x.ref = .referencing → (t.stepper u).engine =
          if s.hub.stepInhibit then .paused else .referencing (Config.stepTime s.hub.work.steppers[u].refRate)) ∧
        (x.ref = .referencing → s.hub.stepInhibit = true → t.stepper u = { x with lastDir := none, engine := .paused }) ∧
        (x.ref = .referencing → s.hub.stepInhibit = false → t.stepper u =
          { x with
            lastDir := none, dirUp := false
            engine := .referencing (Config.stepTime s.hub.work.steppers[u].refRate) }) ∧
        (x.ref ≠ .referencing → x.refReq = true → (t.stepper u).ref = .referencing ∧ (t.stepper u).refReq = false) ∧
        (x.ref ≠ .referencing → x.refReq = true →
          let run : Stepper := { x with
            lastDir := none, ref := .referencing, refReq := false
            runCount := s.hub.work.steppers[u].travel + s.hub.work.steppers[u].overtravel }
          (s.hub.stepInhibit = true → t.stepper u = { run with engine := .paused }) ∧
          (s.hub.stepInhibit = false → t.stepper u =
            { run with
              engine := .referencing (Config.stepTime s.hub.work.steppers[u].refRate), dirUp := false })) ∧
        (x.ref = .referenced → x.refReq = false →
          Hub.Decided u (s.hub.modStepper u fun y => { y with lastDir := none }) t) ∧
        (x.ref = .referenced → x.refReq = false →
          (t.stepper u).engine =
            if x.pos = s.hub.pursued u then .idle
            else if s.hub.stepInhibit then .paused
            else .moving (if x.pos < s.hub.pursued u then .up else .down) (Config.stepTime (s.hub.takenRate u))))) ∧
  (∀ s : State,
    exec .stepInhibitAssert s = .next { s with hub := { s.hub with stepInhibit := true } } ∧
    ∃ t : Hub, exec .stepInhibitRelease s = .next { s with hub := t } ∧
      Hub.Reach (fun c => decide (21 ≤ c.val)) { s.hub with stepInhibit := false } t ∧
      ∀ u,
        ((s.hub.stepper u).cond ≠ .running ∨ (s.hub.stepper u).engine ≠ .paused → t.stepper u = s.hub.stepper u) ∧
        ((s.hub.stepper u).cond = .running → (s.hub.stepper u).engine = .paused →
          ((s.hub.stepper u).ref = .referencing →
            t.stepper u = { s.hub.stepper u with
              engine := .referencing (Config.stepTime s.hub.work.steppers[u].refRate), dirUp := false }) ∧
          ((s.hub.stepper u).ref ≠ .referencing → (s.hub.stepper u).refReq = true → (s.hub.stepper u).lastDir = none →
            t.stepper u = { s.hub.stepper u with
              ref := .referencing, refReq := false, dirUp := false
              runCount := s.hub.work.steppers[u].travel + s.hub.work.steppers[u].overtravel
              engine := .referencing (Config.stepTime s.hub.work.steppers[u].refRate) }) ∧
          ((s.hub.stepper u).ref = .referenced → (s.hub.stepper u).refReq = false →
            (s.hub.stepper u).pos = s.hub.pursued u →
            t.stepper u = { s.hub.stepper u with engine := .idle, lastDir := none } ∧
              ∀ v q level, (s.hub.chan (stepperChannel u)).taken = some ⟨v, .port q level⟩ → s.hub.attached q = true →
                t.hasFlag q .arrived = true ∧ t.hasChange q (stepperChannel u) = true) ∧
          ((s.hub.stepper u).ref = .referenced → (s.hub.stepper u).refReq = false → (s.hub.stepper u).lastDir = none →
            (s.hub.stepper u).pos ≠ s.hub.pursued u →
            let d : Dir := if (s.hub.stepper u).pos < s.hub.pursued u then .up else .down
            t.stepper u = { s.hub.stepper u with
              engine := .moving d (Config.stepTime (s.hub.takenRate u)), dirUp := d == .up })))

/-! ## Sounder and lamps -/

/-- CHIME that passes its checks: the port's own playing chime of the pitch is started again with the new loudness and length;
else a full queue refuses, and otherwise the record joins the queue and plays at once where the engine is READY. Its refusals,
in the order of its checks. The mark of a length cut short is the model's (log 26). -/
def Obligations.ChimeIsQueuedOrStartedAgain : Prop :=
  (∀ (p : Port) (pitch loudness length : Byte) (s : State), s.hub.MayAsk p →
    RefusedInOrder (.chime p pitch loudness length) p s
      [(s.hub.mode = .faultHold, .wrongMode), (s.hub.mode = .holding ∨ s.hub.mode = .held, .held),
        (7 < pitch.toNat ∨ loudness.toNat < 1 ∨ 8 < loudness.toNat ∨ 1 < length.toNat, .badValue),
        ((s.hub.chan soundChannel).eff.command ≠ .off, .sounderBusy)]) ∧
  ∀ (p : Port) (pitch loudness length : Byte) (l : ChimeLength) (s : State), s.hub.MayAsk p → s.hub.mode = .run →
    pitch.toNat ≤ 7 → 1 ≤ loudness.toNat → loudness.toNat ≤ 8 → lengthOf length = some l →
    (s.hub.chan soundChannel).eff.command = .off →
    let a := Hub.restartLease p s.hub
    let x := s.hub.sounder
    let time : Nat := match l with
      | .short => Config.ms 40
      | .long => Config.ms 160
    (∀ k d rest, x.engine = .playing k → x.queue = d :: rest → d.port = p → d.pitch = pitch.toNat →
      exec (.chime p pitch loudness length) s = .next { s with
        hub := { a with sounder := { x with
          queue := { d with loudness := loudness.toNat, length := l } :: rest
          engine := .playing time, chimeCut := true } }.respond p .ok [1] }) ∧
    (s.hub.retriggers p pitch.toNat = false → 4 ≤ x.queue.length →
      exec (.chime p pitch loudness length) s = .next { s with hub := a.respond p .chimeQueueFull [] }) ∧
    (s.hub.retriggers p pitch.toNat = false → x.queue.length < 4 → (x.engine = .ready ↔ x.queue = []) →
      exec (.chime p pitch loudness length) s = .next { s with
        hub := { a with sounder := { x with
          queue := x.queue ++ [Chime.mk p pitch.toNat loudness.toNat l]
          engine := if x.engine = ChimeEngine.ready then ChimeEngine.playing time else x.engine
          chimeCut := if x.engine = ChimeEngine.ready then false else x.chimeCut } }.respond p .ok
            [byteOf (x.queue.length + 1)] })

/-- SILENCE of a port with chimes in the queue: its records leave, a playing chime of its own is cut, and the port is given
CHIME_DONE; OK with the number withdrawn. The other chimes and the tone stay. With none of its own in the queue it is refused
with NOT_CHIMING. -/
def Obligations.SilenceWithdrawsThePortsChimes : Prop :=
  (∀ (p : Port) (s : State), s.hub.MayAsk p →
    RefusedInOrder (.silence p) p s [(∀ d ∈ s.hub.sounder.queue, d.port ≠ p, .notChiming)]) ∧
  ∀ (p : Port) (s : State), s.hub.MayAsk p → s.hub.chimesOf p ≠ 0 →
    let a := Hub.restartLease p s.hub
    let x := s.hub.sounder
    let rest : List Chime := x.queue.filter fun d => d.port != p
    let own := (x.queue.head?.any fun d => d.port == p)
    exec (.silence p) s = .next { s with
      hub := ({ a with sounder := { x with
        queue := rest
        engine :=
          match x.engine with
          | .ready => .ready
          | .playing k => if own then (if rest = [] then .ready else .gap (Config.ms 20)) else .playing k
          | .gap k => if rest = [] then .ready else .gap k } }.modPort p fun t =>
        { t with flags := t.flags ||| 0x40 }).respond p .ok [byteOf (s.hub.chimesOf p)] }

/-- The end of a playing chime: its record leaves the head, its port is given CHIME_DONE while ATTACHED, and a gap of 20 ms
begins where another waits. The end of the gap starts the next. In any other phase neither does anything (log 4, the model's
choice).
The decay timer's expiry lets the envelope fall by one level and starts the timer again, but at level 1.
An expiry or an end whose run a renewal or a retrigger has cut short at the same moment does not happen (R147; log 26). -/
def Obligations.ChimesAndEnvelopePlayInTime : Prop :=
  (∀ s : State,
    (∀ k d rest, s.hub.sounder.engine = .playing k → s.hub.sounder.queue = d :: rest →
      s.hub.sounder.chimeCut = true →
      exec .chimeEnd s = .next { s with hub := { s.hub with sounder := { s.hub.sounder with chimeCut := false } } }) ∧
    (∀ k d rest, s.hub.sounder.engine = .playing k → s.hub.sounder.queue = d :: rest →
      s.hub.sounder.chimeCut = false →
      exec .chimeEnd s = .next { s with
        hub := { s.hub with sounder := { s.hub.sounder with
            queue := rest, engine := if rest = [] then .ready else .gap (Config.ms 20) } }.giveFlag d.port .chimeDone }) ∧
    ((∀ k, s.hub.sounder.engine ≠ .playing k) → exec .chimeEnd s = .next s) ∧
    (∀ k d rest, s.hub.sounder.engine = .gap k → s.hub.sounder.queue = d :: rest →
      exec .gapEnd s = .next { s with
        hub := { s.hub with sounder := { s.hub.sounder with engine := .playing d.length.time, chimeCut := false } } }) ∧
    ((∀ k, s.hub.sounder.engine ≠ .gap k) → exec .gapEnd s = .next s)) ∧
  (∀ (k pitch loudness : Nat) (d : Decay) (source : Source) (s : State),
    s.hub.sounder.tone = .sounding → s.hub.sounder.decay = some k →
    (s.hub.chan soundChannel).taken = some ⟨.tone pitch loudness d, source⟩ →
    let level := s.hub.sounder.level - 1
    (s.hub.sounder.decayCut = true → exec .decayTimerExpiry s = .next { s with
      hub := { s.hub with sounder := { s.hub.sounder with decayCut := false } } }) ∧
    (s.hub.sounder.decayCut = false → exec .decayTimerExpiry s = .next { s with
      hub := { s.hub with sounder := { s.hub.sounder with
        level := level
        decay := if 1 < level then
            match d with
            | .none => none
            | .fast => some (Config.ms 100)
            | .slow => some (Config.ms 250)
          else none } } })) ∧
  (∀ s : State, s.hub.sounder.tone = .silent ∨ s.hub.sounder.decay = none → exec .decayTimerExpiry s = .next s)

/-- A command change on SND while the Sounder unit is RUNNING: a TONE cuts every chime, giving each record's port CHIME_DONE,
and starts at its loudness with its decay timer; an OFF silences the tone and leaves the chimes. That the level of a SILENT
sounder stays at the number it held is the model's choice (log 25): R136 gives it no meaning. The mark of an expiry cut short
is the model's too (log 26).
A CLAIM answered REPLACED whose value is the one it replaces, at the same level or another, on SND in RUN, the claim then the
winner (log 17: judged after the edit): the envelope of the tone starts again, and an expiry of the decay timer that arrives
together with it, or with a command change from one TONE to another, leaves the commanded loudness. -/
def Obligations.TonesTakeTheSounderOverAndRenew : Prop :=
  (∀ (h : Hub), h.sounder.cond = .running → (h.sounder.engine = .ready ↔ h.sounder.queue = []) →
    (∀ pitch loudness d, h.soundCommand = some (.tone pitch loudness d) →
      (h.sounderTakes true).sounder = { h.sounder with
        tone := .sounding, level := loudness, decay := decayTimer d loudness
        decayCut := h.sounder.decay.isSome, queue := [], engine := .ready } ∧
      (h.sounder.decay.isSome = true → ∀ s : State,
        ∃ v : State, exec .decayTimerExpiry { s with hub := h.sounderTakes true } = .next v ∧
          v.hub.sounder.level = loudness ∧ v.hub.sounder.decay = decayTimer d loudness) ∧
      ∀ x ∈ h.sounder.queue, h.attached x.port = true → (h.sounderTakes true).hasFlag x.port .chimeDone = true) ∧
    (h.soundCommand = some .off →
      h.sounderTakes true = { h with sounder := { h.sounder with tone := .silent, decay := none } })) ∧
  (∀ (p : Port) (lv : Byte) (v : BitVec 24) (pol : Byte) (policy : Policy) (pitch loudness : Nat) (d : Decay) (old : Claim)
    (s : State),
    s.hub.MayAsk p → s.hub.mode = .run → s.hub.sounder.cond = .running → 1 ≤ lv.toNat → lv.toNat ≤ 7 → (5 < lv.toNat → (s.hub.portItem p).protectedGrant = true) →
    commandFor s.hub.work soundChannel v = some (.tone pitch loudness d) → policyOf pol = some policy →
    claimOf p (s.hub.chan soundChannel).claims = some old → old.value = .tone pitch loudness d →
    ∃ t : Hub, exec (.claim p 20 lv v pol) s = .next { s with hub := t } ∧
      (old.level = lv.toNat → t.winnerPort soundChannel = s.hub.winnerPort soundChannel) ∧
      (t.winnerPort soundChannel = some p →
        t.sounder.tone = .sounding ∧ t.sounder.level = loudness ∧ t.sounder.decay = decayTimer d loudness) ∧
      (t.winnerPort soundChannel = some p → s.hub.sounder.decay.isSome = true →
        ∃ v : State, exec .decayTimerExpiry { s with hub := t } = .next v ∧
          v.hub.sounder.level = loudness ∧ v.hub.sounder.decay = decayTimer d loudness))

/-- A boundary of the flash clock: a running clock comes to the next multiple of 125 ms, back to 0 after 999 ms, every lamp
shows its taken command at that moment, and nothing else moves; a STOPPED clock has no boundary. That the command comes at any
count, and makes no change at a STOPPED clock, is log 4, the model's choice.
What a lamp shows of a taken command: SLOW is lit in clock 0 to 499 ms, FAST in the first 125 ms of each quarter of a
round. -/
def Obligations.LampsFollowTheFlashClock : Prop :=
  (∀ s : State,
    (s.hub.flash = none → exec .flashClockLitHalfChange s = .next s) ∧
    ∀ n, s.hub.flash = some n →
      ∃ t : Hub, exec .flashClockLitHalfChange s = .next { s with hub := t } ∧
        t.flash = some ((n / Config.ms 125 + 1) * Config.ms 125 % Config.ms 1000) ∧
        (∀ l, t.lamp l = lampDrive t.flash (s.hub.chan (lampChannel l)).taken) ∧
        t = { s.hub with flash := t.flash, lamps := t.lamps }) ∧
  (∀ (n b : Nat) (source : Source), n < Config.ms 1000 →
    lampDrive (some n) none = .dark ∧ lampDrive (some n) (some ⟨.off, source⟩) = .dark ∧
      lampDrive (some n) (some ⟨.steady b, source⟩) = .lit b ∧
      (lampDrive (some n) (some ⟨.slow b, source⟩) = if n < Config.ms 500 then .lit b else .dark) ∧
      (lampDrive (some n) (some ⟨.fast b, source⟩) =
        if n < Config.ms 125 ∨ (Config.ms 250 ≤ n ∧ n < Config.ms 375) ∨ (Config.ms 500 ≤ n ∧ n < Config.ms 625) ∨
            (Config.ms 750 ≤ n ∧ n < Config.ms 875) then .lit b
        else .dark))

/-! ## Measurement slots and setpoints -/

/-- SAMPLE from the slot's source port: the slot is FRESH with the new value and its freshness timer started, the enabled
setpoints on it are evaluated on that value, and what follows is settled; OK with the value. The mark of a run of the timer
cut short is the model's (log 26).
ZERO on a TOTAL slot from its source port: the value is 0 for amount 0, else lowered by the amount within the limit; the
setpoints are evaluated where the slot is FRESH; OK with the value.
The refusals of both, in the order of their checks. -/
def Obligations.SamplesAndZeroesSetTheSlot : Prop :=
  (∀ (p : Port) (slot : Byte) (raw : BitVec 32) (k : Fin 8) (s : State),
    s.hub.MayAsk p → s.hub.mode ≠ .faultHold → indexOf 8 slot = some k →
    -2000000000 ≤ raw.toInt → raw.toInt ≤ 2000000000 → s.hub.work.slots[k].source = p →
    let i := s.hub.work.slots[k]
    let value := sampledValue i s.hub.work.calibration[k] (s.hub.slot k).value raw.toInt
    ∃ m t : Hub,
      exec (.sample p slot raw) s = .next { s with hub := t.respond p .ok (signed32 value) } ∧
      m = { Hub.restartLease p s.hub with slots := m.slots, setpoints := m.setpoints } ∧
      m.slot k = ⟨.fresh, value, if i.freshness = 0 then none else some (Config.ms (100 * i.freshness)),
        (s.hub.slot k).timer.isSome⟩ ∧
      (∀ j, j ≠ k → m.slot j = s.hub.slot j) ∧
      (∀ n : Fin 16, m.setpoint n =
        if s.hub.work.setpoints[n].enabled && s.hub.work.setpoints[n].slot == k then
          (s.hub.setpoint n).evaluated s.hub.work.setpoints[n] value
        else s.hub.setpoint n) ∧
      Hub.Settled s.hub m t) ∧
  (∀ (p : Port) (slot : Byte) (amount : BitVec 32) (k : Fin 8) (s : State),
    s.hub.MayAsk p → s.hub.mode ≠ .faultHold → indexOf 8 slot = some k →
    -2000000000 ≤ amount.toInt → amount.toInt ≤ 2000000000 → s.hub.work.slots[k].source = p →
    s.hub.work.slots[k].mode = .total →
    let old := (s.hub.slot k).value
    let value := if amount.toInt = 0 then 0 else max (-2000000000) (min 2000000000 (old - amount.toInt))
    ∃ m t : Hub,
      exec (.zero p slot amount) s = .next { s with hub := t.respond p .ok (signed32 value) } ∧
      m = { Hub.restartLease p s.hub with slots := m.slots, setpoints := m.setpoints } ∧
      m.slot k = { s.hub.slot k with value := value } ∧ (∀ j, j ≠ k → m.slot j = s.hub.slot j) ∧
      (∀ n : Fin 16, m.setpoint n =
        if (s.hub.slot k).state = .fresh ∧ s.hub.work.setpoints[n].enabled = true ∧ s.hub.work.setpoints[n].slot = k then
          (s.hub.setpoint n).evaluated s.hub.work.setpoints[n] value
        else s.hub.setpoint n) ∧
      Hub.Settled s.hub m t) ∧
  (∀ (p : Port) (slot : Byte) (x : BitVec 32) (s : State), s.hub.MayAsk p →
    let outside := x.toInt < -2000000000 ∨ 2000000000 < x.toInt
    let stranger := ∃ k, indexOf 8 slot = some k ∧ s.hub.work.slots[k].source ≠ p
    RefusedInOrder (.sample p slot x) p s
      [(s.hub.mode = .faultHold, .startupFault), (7 < slot.toNat, .badValue), (outside, .badValue),
        (stranger, .notSource)] ∧
    RefusedInOrder (.zero p slot x) p s
      [(s.hub.mode = .faultHold, .startupFault), (7 < slot.toNat ∨ outside, .badValue), (stranger, .notSource),
        (∃ k, indexOf 8 slot = some k ∧ s.hub.work.slots[k].mode = .level, .badSlotMode)])

/-- raw × gain / 1000 is rounded to the nearest integer, a half away from zero, and a slot's value never leaves the limit. -/
def Obligations.SampledValuesAreRoundedAndClamped : Prop :=
  ∀ (i : SlotItem) (c : CalibrationItem) (old raw : Int) (gain : Nat),
    (-500 ≤ 1000 * scaleRaw raw gain - raw * gain ∧ 1000 * scaleRaw raw gain - raw * gain ≤ 500) ∧
    (0 ≤ raw → -500 < 1000 * scaleRaw raw gain - raw * gain) ∧
    (raw < 0 → 1000 * scaleRaw raw gain - raw * gain < 500) ∧
    -2000000000 ≤ sampledValue i c old raw ∧ sampledValue i c old raw ≤ 2000000000 ∧
    (i.mode = .level → sampledValue i c old raw =
      max (-2000000000) (min 2000000000 (scaleRaw raw c.gain + c.offset))) ∧
    (i.mode = .total → sampledValue i c old raw = max (-2000000000) (min 2000000000 (old + scaleRaw raw c.gain)))

/-- The condition and the state of a setpoint at an evaluation: the condition goes TRUE past the threshold, FALSE at the far
edge of the hysteresis band, and keeps its mark between; make and break delays hold ACTIVE back and on; a latching setpoint
goes to LATCHED. -/
def Obligations.EvaluationMovesASetpoint : Prop :=
  ∀ (i : SetpointItem) (value : Int) (x : Setpoint),
    let beyond := match i.sense with
      | .above => decide (i.threshold < value)
      | .below => decide (value < i.threshold)
    let back := match i.sense with
      | .above => decide (value ≤ i.threshold - i.hysteresis)
      | .below => decide (i.threshold + i.hysteresis ≤ value)
    let t := x.evaluated i value
    (beyond = true → x.mark = false →
      t.mark = true ∧
        (x.state = .inactive → i.makeDelay = 0 → t.state = .active ∧ t.timer = none) ∧
        (x.state = .inactive → 0 < i.makeDelay → t.state = .making ∧ t.timer = some (Config.ms (100 * i.makeDelay))) ∧
        (x.state = .breaking ∨ x.state = .latched → t.state = .active ∧ t.timer = none)) ∧
    (beyond = false → back = true → x.mark = true →
      t.mark = false ∧
        (x.state = .making → t.state = .inactive ∧ t.timer = none) ∧
        (x.state = .active → 0 < i.breakDelay →
          t.state = .breaking ∧ t.timer = some (Config.ms (100 * i.breakDelay))) ∧
        (x.state = .active → i.breakDelay = 0 →
          t.state = (if i.latch then .latched else .inactive) ∧ t.timer = none)) ∧
    ((beyond = true ∧ x.mark = true) ∨ (beyond = false ∧ back = true ∧ x.mark = false) ∨
      (beyond = false ∧ back = false) → t = x)

/-- The freshness timer's expiry: the slot is STALE with its value, its source port is given SLOT_STALE, every enabled
setpoint on it enters its fail state, and what follows is settled. A slot whose timer does not run has no expiry (log 4, the
model's choice). An expiry that comes together with a SAMPLE taken before it does not happen: the slot stays FRESH and nothing
else moves (R152). That the first expiry after a sample in the same moment is the cut run's is log 26. That a timer
still running after its limit was written to 0 expires is log 33, the model's reading of R154 beside R152. -/
def Obligations.FreshnessExpiryFailsTheSetpoints : Prop :=
  (∀ (k : Fin 8) (s : State),
    ((s.hub.slot k).timer = none → exec (.freshnessExpiry k) s = .next s) ∧
    ((s.hub.slot k).timer.isSome = true → (s.hub.slot k).cut = true →
      exec (.freshnessExpiry k) s = .next { s with
        hub := s.hub.setSlot k { s.hub.slot k with cut := false } })) ∧
  ∀ (k : Fin 8) (left : Nat) (s : State), (s.hub.slot k).timer = some left → (s.hub.slot k).cut = false →
    ∃ m t : Hub, exec (.freshnessExpiry k) s = .next { s with hub := t } ∧
      m = { s.hub.giveFlag s.hub.work.slots[k].source .slotStale with slots := m.slots, setpoints := m.setpoints } ∧
      m.slot k = ⟨.stale, (s.hub.slot k).value, none, false⟩ ∧ (∀ j, j ≠ k → m.slot j = s.hub.slot j) ∧
      (∀ n : Fin 16, m.setpoint n =
        if s.hub.work.setpoints[n].enabled && s.hub.work.setpoints[n].slot == k then
          (if s.hub.work.setpoints[n].failActive then ⟨.active, true, none, false⟩ else ⟨.inactive, false, none, false⟩)
        else s.hub.setpoint n) ∧
      Hub.Settled s.hub m t

/-- A delay timer's expiry takes MAKING to ACTIVE and BREAKING to INACTIVE or LATCHED; ACK_SETPOINT takes LATCHED to INACTIVE;
what follows is settled. A setpoint whose timer does not run has no expiry (log 4, the model's choice). That the first expiry
after a CONFIG_WRITE that started the delay anew in the same moment is the discarded run's, and clears the mark of the cut, is
log 26. The refusals of ACK_SETPOINT, in the order of its checks. -/
def Obligations.DelaysAndAcknowledgementsMoveOneSetpoint : Prop :=
  (∀ (p : Port) (setpoint : Byte) (s : State), s.hub.MayAsk p →
    RefusedInOrder (.ackSetpoint p setpoint) p s
      [(s.hub.mode = .faultHold, .startupFault), (15 < setpoint.toNat, .badValue),
        (∃ n, indexOf 16 setpoint = some n ∧ (s.hub.setpoint n).state ≠ .latched, .notLatched)]) ∧
  (∀ (n : Fin 16) (s : State),
    ((s.hub.setpoint n).timer = none → exec (.delayTimerExpiry n) s = .next s) ∧
    ((s.hub.setpoint n).timer.isSome = true → (s.hub.setpoint n).cut = true →
      exec (.delayTimerExpiry n) s = .next { s with
        hub := s.hub.setSetpoint n { s.hub.setpoint n with cut := false } })) ∧
  (∀ (n : Fin 16) (left : Nat) (s : State), (s.hub.setpoint n).timer = some left → (s.hub.setpoint n).cut = false →
    ∃ m t : Hub, exec (.delayTimerExpiry n) s = .next { s with hub := t } ∧
      m = { s.hub with setpoints := m.setpoints } ∧ (∀ j, j ≠ n → m.setpoint j = s.hub.setpoint j) ∧
      ((s.hub.setpoint n).state = .making → m.setpoint n = ⟨.active, (s.hub.setpoint n).mark, none, false⟩) ∧
      ((s.hub.setpoint n).state = .breaking → m.setpoint n =
        ⟨if s.hub.work.setpoints[n].latch then .latched else .inactive, (s.hub.setpoint n).mark, none, false⟩) ∧
      Hub.Settled s.hub m t) ∧
  ∀ (p : Port) (setpoint : Byte) (n : Fin 16) (s : State), s.hub.MayAsk p → s.hub.mode ≠ .faultHold →
    indexOf 16 setpoint = some n →
    ((s.hub.setpoint n).state ≠ .latched → exec (.ackSetpoint p setpoint) s =
      .next { s with hub := (Hub.restartLease p s.hub).respond p .notLatched [] }) ∧
    ((s.hub.setpoint n).state = .latched →
      ∃ m t : Hub, exec (.ackSetpoint p setpoint) s = .next { s with hub := t.respond p .ok [] } ∧
        m = { Hub.restartLease p s.hub with setpoints := m.setpoints } ∧
        m.setpoint n = ⟨.inactive, false, none, false⟩ ∧ (∀ j, j ≠ n → m.setpoint j = s.hub.setpoint j) ∧
        Hub.Settled s.hub m t)

/-- The local layer of a channel: the fallback, UNDRIVEN, on a stepper and where no setpoint drives it. Else DRIVEN: on a
relay ON where some driving setpoint commands ON and OFF otherwise; on a lamp the strongest command, in the order FAST, SLOW,
STEADY, OFF and by brightness within a form; on SND the command of the lowest-numbered driving setpoint. -/
def Obligations.LocalLayerCombinesTheDrivingSetpoints : Prop :=
  ∀ (c : Fin 23) (h : Hub),
    (kindOf c = .stepper ∨ (∀ n : Fin 16, h.driving n = true → targetChannel h.work.setpoints[n].target ≠ c) →
      h.localLayer c = ⟨h.work.fallbacks[c], false⟩) ∧
    (kindOf c ≠ .stepper → (∃ n : Fin 16, h.driving n = true ∧ targetChannel h.work.setpoints[n].target = c) →
      (h.localLayer c).driven = true ∧
      (kindOf c = .relay → (h.localLayer c).value =
        .command (if ∃ n : Fin 16, h.driving n = true ∧ targetChannel h.work.setpoints[n].target = c ∧
            h.work.setpoints[n].command = .on then .on else .off)) ∧
      (kindOf c = .lamp → ∃ v, (h.localLayer c).value = .command v ∧
        (v = .off ∨ ∃ n : Fin 16, h.driving n = true ∧ targetChannel h.work.setpoints[n].target = c ∧
          h.work.setpoints[n].command = v) ∧
        ∀ n : Fin 16, h.driving n = true → targetChannel h.work.setpoints[n].target = c →
          Hub.lampStrength h.work.setpoints[n].command ≤ Hub.lampStrength v) ∧
      (kindOf c = .sounder → ∀ n : Fin 16, h.driving n = true → targetChannel h.work.setpoints[n].target = c →
        (∀ m : Fin 16, m < n → ¬ (h.driving m = true ∧ targetChannel h.work.setpoints[m].target = c)) →
        (h.localLayer c).value = .command h.work.setpoints[n].command))

/-! ## Hub modes, resets and the load -/

/-- HOLD in RUN: STARTED; every relay keeps its physical output and every lamp its output, the tone is silent and the chime
queue empty with CHIME_DONE to its ports; each stepper at rest or between steps stops, a run that stands PAUSED or REVERSING
being aborted, each in a step drains; HELD with HOLD_EFFECTIVE to every ATTACHED port where neither is in a step, else
HOLDING. Claims, commands and measurement stay. Its refusals, in the order of its checks. -/
def Obligations.HoldFreezesTheOutputs : Prop :=
  (∀ (p : Port) (s : State), s.hub.MayAsk p →
    RefusedInOrder (.hold p) p s
      [((s.hub.portItem p).configGrant = false, .noGrant), (s.hub.mode = .faultHold, .wrongMode),
        (s.hub.mode = .holding ∨ s.hub.mode = .held, .already)]) ∧
  ∀ (p : Port) (s : State), s.hub.MayAskGranted p → s.hub.mode = .run →
    ∃ t : Hub, exec (.hold p) s = .next { s with hub := t.respond p .started [] } ∧
      t.relayCond = .frozen ∧
      (∀ r, (t.relay r).output = (s.hub.relay r).output ∧ (t.relay r).mark = (s.hub.relay r).mark ∧
        ((t.relay r).state = .on ∨ (t.relay r).state = .off)) ∧
      t.sounder.cond = .frozen ∧ t.sounder.tone = .silent ∧ t.sounder.decay = none ∧ t.sounder.queue = [] ∧
      t.sounder.engine = .ready ∧
      (∀ d ∈ s.hub.sounder.queue, s.hub.attached d.port = true → t.hasFlag d.port .chimeDone = true) ∧
      (∀ u, (t.stepper u).pos = (s.hub.stepper u).pos ∧
        ((∃ d k, (s.hub.stepper u).engine = .moving d k) ∨ (∃ k, (s.hub.stepper u).engine = .referencing k) →
          (t.stepper u).engine = (s.hub.stepper u).engine ∧ (t.stepper u).cond = .draining) ∧
        ((s.hub.stepper u).engine = .idle ∨ (s.hub.stepper u).engine = .paused ∨
            (∃ k, (s.hub.stepper u).engine = .reversing k) →
          (t.stepper u).engine = .idle ∧ (t.stepper u).cond = .stopped ∧ (t.stepper u).refReq = false ∧
            (t.stepper u).lastDir = none) ∧
        ((s.hub.stepper u).engine = .paused ∨ (∃ k, (s.hub.stepper u).engine = .reversing k) →
          (s.hub.stepper u).ref = .referencing →
          (t.stepper u).ref = .unreferenced ∧ (t.stepper u).runCount = 0) ∧
        ((s.hub.stepper u).ref ≠ .referencing → (t.stepper u).ref = (s.hub.stepper u).ref)) ∧
      t.mode = (if (t.stepper 0).engine = .idle ∧ (t.stepper 1).engine = .idle then .held else .holding) ∧
      (t.mode = .held → ∀ q, s.hub.attached q = true → t.hasFlag q .holdEffective = true) ∧
      (∀ q, t.port q = { (Hub.restartLease p s.hub).port q with flags := (t.port q).flags }) ∧
      t = { Hub.restartLease p s.hub with
        mode := t.mode, ports := t.ports, relayCond := t.relayCond, relays := t.relays, sounder := t.sounder
        steppers := t.steppers }

/-- The passage to HELD: in HOLDING with both steppers at rest the hub is HELD, every ATTACHED port is given HOLD_EFFECTIVE
and nothing else moves; anywhere else the command does nothing (log 19, the model's reading of R168).
RESUME in HOLDING or HELD with no store write in flight, and ACCEPT_FAULT in FAULT_HOLD with none: the hub enters RUN
within the request, OK; the hand-overs made, each engine that was frozen thaws: relays are re-taken, a TONE held starts, each
stepper decides, stays or goes on, and from FAULT_HOLD auto-reference runs start. That a sounder which stays SILENT keeps the
number of its level is log 25, the model's choice. With a write in flight both are answered STORE_BUSY; their refusals, in
the order of their checks. -/
def Obligations.HeldIsEnteredAtRestAndRunOnRequest : Prop :=
  (∀ s : State,
    (s.hub.mode ≠ .holding ∨ s.hub.atRest = false → exec .enterHeld s = .next s) ∧
    (s.hub.mode = .holding → s.hub.atRest = true →
      ∃ t : Hub, exec .enterHeld s = .next { s with hub := t } ∧ t.mode = .held ∧
        (∀ q, t.port q =
          if s.hub.attached q then { s.hub.port q with flags := (s.hub.port q).flags ||| 0x200 } else s.hub.port q) ∧
        t = { s.hub with mode := .held, ports := t.ports })) ∧
  (∀ (p : Port) (s : State), s.hub.MayAskGranted p →
    (s.hub.mode = .holding ∨ s.hub.mode = .held →
      (s.hub.storeOp.isSome = true →
        exec (.resume p) s = .next { s with hub := (Hub.restartLease p s.hub).respond p .storeBusy [] }) ∧
      (s.hub.storeOp = none →
        ∃ t : Hub, exec (.resume p) s = .next { s with hub := t.respond p .ok [] } ∧
          Hub.EnteredRun (Hub.restartLease p s.hub) t ∧
          (s.hub.relayCond = .frozen → s.hub.sounder.cond = .frozen → (∀ u, (s.hub.stepper u).cond ≠ .running) →
            Hub.Thawed (Hub.restartLease p s.hub) t))) ∧
    (s.hub.mode = .faultHold →
      (s.hub.storeOp.isSome = true →
        exec (.acceptFault p) s = .next { s with hub := (Hub.restartLease p s.hub).respond p .storeBusy [] }) ∧
      (s.hub.storeOp = none →
        ∃ t : Hub, exec (.acceptFault p) s = .next { s with hub := t.respond p .ok [] } ∧
          Hub.EnteredRun (Hub.restartLease p s.hub) t ∧
          (s.hub.relayCond = .frozen → s.hub.sounder.cond = .frozen → (∀ u, (s.hub.stepper u).cond ≠ .running) →
            Hub.Thawed (Hub.restartLease p s.hub) t)))) ∧
  (∀ (p : Port) (s : State), s.hub.MayAsk p →
    RefusedInOrder (.resume p) p s
      [((s.hub.portItem p).configGrant = false, .noGrant),
        (s.hub.mode ≠ .holding ∧ s.hub.mode ≠ .held, .wrongMode), (s.hub.storeOp.isSome = true, .storeBusy)] ∧
    RefusedInOrder (.acceptFault p) p s
      [((s.hub.portItem p).configGrant = false, .noGrant), (s.hub.mode ≠ .faultHold, .wrongMode),
        (s.hub.storeOp.isSome = true, .storeBusy)])

/-- CLEAR_FIRST_FAULT sets the first-fault record to 0 and nothing else, in every mode but STARTUP, for an ATTACHED port with
the configuration grant; it is refused in the order of its checks. A record of 0 takes a code again, the lowest found, at the
end of the next start-up load that finds a fault. -/
def Obligations.ClearFirstFaultClearsTheRecord : Prop :=
  (∀ (p : Port) (s : State), s.hub.takesFrames p = true →
    let a := Hub.restartLease p s.hub
    (s.hub.mode = .startup → exec (.clearFirstFault p) s = .next { s with hub := a.respond p .starting [] }) ∧
    (s.hub.mode ≠ .startup → s.hub.attached p = false →
      exec (.clearFirstFault p) s = .next { s with hub := a.respond p .notAttached [] }) ∧
    (s.hub.mode ≠ .startup → s.hub.attached p = true → (s.hub.portItem p).configGrant = false →
      exec (.clearFirstFault p) s = .next { s with hub := a.respond p .noGrant [] }) ∧
    (s.hub.mode ≠ .startup → s.hub.attached p = true → (s.hub.portItem p).configGrant = true →
      exec (.clearFirstFault p) s = .next { s with hub := { a with firstFault := 0 }.respond p .ok [] })) ∧
  ∀ (answers : Bool) (code : Nat) (more : List Nat) (s : State), s.hub.mode = .startup → s.hub.resetNLow = false →
    s.hub.firstFault = 0 → s.hub.faultsFound answers = code :: more →
    ∃ t : Hub, exec (.endOfLoad answers) s = .next { s with hub := t } ∧ t.firstFault = code ∧
      ∀ k ∈ more, code < k

/-- The three hub resets leave the part as their chapters say, with their causes; a store write in flight leaves its stored
copy with a bad checksum, its contents as they were (log 29, the model's choice). The stay value of a stepper takes the reference
rate index of the working copy (log 22), and what is left of a serial transaction is log 13. RESET_N stays low until its release; an assertion of a pin that is low already makes no change, nor does a release
of one that is high, and a power-on keeps the pin's level (log 18, the model's choice). The end of the reset reads the
address pins: within a RESET_HUB or a power-on, at the release of RESET_N otherwise, the address standing until then (log
22, the model's reading of R182); the release begins the load. RESET_HUB without the configuration grant is refused. -/
def Obligations.HubResetsResetThePart : Prop :=
  ∀ s : State,
    (∃ t : Hub, exec .powerOn s = .next { s with hub := t } ∧ Hub.WasReset .powerOn s.hub t ∧
      t.resetNLow = s.hub.resetNLow ∧
      t.i2cAddr = if s.hub.resetNLow then s.hub.i2cAddr else s.hub.addressOfPins) ∧
    (s.hub.resetNLow = true → exec .resetNAssert s = .next s) ∧
    (s.hub.resetNLow = false →
      ∃ t : Hub, exec .resetNAssert s = .next { s with hub := t } ∧ Hub.WasReset .pin s.hub t ∧ t.resetNLow = true ∧
        t.i2cAddr = s.hub.i2cAddr) ∧
    (∀ p, s.hub.MayAskGranted p →
      ∃ t : Hub, exec (.resetHub p) s = .next { s with hub := t } ∧
        Hub.WasReset .software (Hub.restartLease p s.hub) t ∧ t.resetNLow = false ∧
        t.i2cAddr = s.hub.addressOfPins) ∧
    (∀ p, s.hub.MayAsk p →
      RefusedInOrder (.resetHub p) p s [((s.hub.portItem p).configGrant = false, .noGrant)]) ∧
    (s.hub.resetNLow = false → exec .resetNRelease s = .next s) ∧
    (s.hub.resetNLow = true → exec .resetNRelease s = .next { s with
      hub := { s.hub with resetNLow := false, i2cAddr := s.hub.addressOfPins, loadElapsed := 0 } })

/-- The end of the load: each block that passes is loaded and GOOD, each that fails takes its factory defaults and is BAD
with its code in the fault set; with no answer from the store every block fails and the set is {7}. A first-fault record of
0 takes the lowest code. The MIN_OFF runs and dead timers take their loaded lengths, a kept reference is compared with the
loaded travel limit, the flash clock has started, and every channel has the local input of the loaded configuration and is
formed. With any code but 6 the hub is in FAULT_HOLD, what was formed waiting as pending-effective; else it has entered RUN, the
hand-overs made and the engines, as the reset left them, thawed. That a group not in use has its dead timer EXPIRED is log 21,
the model's reading, and that a SILENT sounder keeps the number of its level is log 25. The command where no load is in
progress, outside STARTUP or with RESET_N low, makes no change (log 27, the model's choice). -/
def Obligations.EndOfLoadFillsTheWorkingCopies : Prop :=
  ∀ (answers : Bool) (s : State),
    (s.hub.mode ≠ .startup ∨ s.hub.resetNLow = true → exec (.endOfLoad answers) s = .next s) ∧
    (s.hub.mode = .startup → s.hub.resetNLow = false → s.hub.faults = 0 →
      let passes (b : Block) : Bool := answers && s.hub.storedGood[b.idx] && s.hub.stored.inRange b
      ∃ t : Hub, exec (.endOfLoad answers) s = .next { s with hub := t } ∧
        (∀ b : Block, t.marks[b.idx] = if passes b then .good else .bad) ∧
        t.work.ports = (if passes .ports then s.hub.stored else factoryBlocks).ports ∧
        t.work.fallbacks = (if passes .channels then s.hub.stored else factoryBlocks).fallbacks ∧
        t.work.handovers = (if passes .channels then s.hub.stored else factoryBlocks).handovers ∧
        t.work.relays = (if passes .channels then s.hub.stored else factoryBlocks).relays ∧
        t.work.soundMotion = (if passes .channels then s.hub.stored else factoryBlocks).soundMotion ∧
        t.work.steppers = (if passes .channels then s.hub.stored else factoryBlocks).steppers ∧
        t.work.groups = (if passes .groups then s.hub.stored else factoryBlocks).groups ∧
        t.work.slots = (if passes .slots then s.hub.stored else factoryBlocks).slots ∧
        t.work.setpoints = (if passes .setpoints then s.hub.stored else factoryBlocks).setpoints ∧
        t.work.calibration = (if passes .calibration then s.hub.stored else factoryBlocks).calibration ∧
        t.stored = s.hub.stored ∧ t.storedGood = s.hub.storedGood ∧
        (∀ n : Fin 8, t.faults.getLsbD n.val =
          if answers then Block.all.any fun b => !passes b && b.code == n.val else n == 7) ∧
        t.firstFault =
          (if s.hub.firstFault ≠ 0 then s.hub.firstFault
           else if answers then ((Block.all.find? fun b => !passes b).map (·.code)).getD 0 else 7) ∧
        t.mode = (if answers && (Block.all.all fun b => passes b || b == .calibration) then .run else .faultHold) ∧
        t.flash = some 0 ∧ (∀ c, (t.chan c).input = t.localLayer c ∧ t.Formed c) ∧
        ∃ m : Hub, Hub.Loaded s.hub m ∧ m.work = t.work ∧
          (t.mode = .faultHold → t = { m with mode := .faultHold }) ∧
          (t.mode = .run → Hub.EnteredRun m t ∧
            (s.hub.relayCond = .frozen → s.hub.sounder.cond = .frozen → (∀ u, (s.hub.stepper u).cond ≠ .running) →
              Hub.Thawed m t)))

/-! ## Configuration -/

/-- CONFIG_READ answers the field of the working copy that block, item and field name, and BAD_VALUE where there is none; it
changes nothing else. -/
def Obligations.ConfigReadAnswersTheWorkingCopy : Prop :=
  ∀ (p : Port) (block item field : Byte) (s : State), s.hub.MayAsk p →
    let a := Hub.restartLease p s.hub
    (∀ b v, Block.ofByte block = some b → s.hub.work.read b item field = some v →
      exec (.configRead p block item field) s = .next { s with hub := a.respond p .ok (be32 v) }) ∧
    ((∀ b, Block.ofByte block = some b → s.hub.work.read b item field = none) →
      exec (.configRead p block item field) s = .next { s with hub := a.respond p .badValue [] })

/-- CONFIG_WRITE past its first five checks: a write the field's rule refuses is BAD_CONFIG; a member list that names two
relays physically ON is INTERLOCK_CONFLICT; any other is taken, answered OK.
Writes CONFIG_WRITE refuses: a quota below the port's holding, the last configuration grant, a member list that is neither
empty nor of 2 to 4 relays or names a relay of another group, a travel limit below a REFERENCED stepper's position.
It refuses exactly the writes that name no block, item or field there is, and those `Hub.Unwritable` lists field by field: a
value out of its range, a fallback or setpoint command that fails its channel, a travel limit below a claim target or a POSITION
fallback, a setpoint target above 20, and those above.
Its refusals before the field's own, in the order of its checks. -/
def Obligations.ConfigWritesAreTakenOrRefused : Prop :=
  (∀ (p : Port) (block item field : Byte) (v : BitVec 32) (s : State), s.hub.MayAskGranted p →
    s.hub.mode = .held ∨ s.hub.mode = .faultHold →
    (∀ b, Block.ofByte block = some b → s.hub.writingBlock b = false) →
    let a := Hub.restartLease p s.hub
    let closes := block = 3 ∧ field = 0 ∧ ∃ q r : Fin 12, q ≠ r ∧ v.getLsbD q.val = true ∧ v.getLsbD r.val = true ∧
      (s.hub.relay q).output = true ∧ (s.hub.relay r).output = true
    (a.fieldWritten block item field v = none →
      exec (.configWrite p block item field v) s = .next { s with hub := a.respond p .badConfig [] }) ∧
    ∀ t, a.fieldWritten block item field v = some t →
      (closes → exec (.configWrite p block item field v) s =
        .next { s with hub := a.respond p .interlockConflict [] }) ∧
      (¬ closes → exec (.configWrite p block item field v) s = .next { s with hub := t.respond p .ok [] })) ∧
  (∀ (v : BitVec 32) (h : Hub),
    (∀ p : Port, v.toNat < h.holding p → h.writePort p 2 v = none) ∧
    (∀ p : Port, (∀ q, q ≠ p → (h.portItem q).configGrant = false) → h.writePort p 0 0 = none) ∧
    (∀ g : Fin 4, (memberListFits (v.setWidth 12) = false ∨ 4096 ≤ v.toNat ∨
        ∃ k : Fin 4, k ≠ g ∧ ∃ r : Fin 12, h.namesRelay k r = true ∧ v.getLsbD r.val = true) →
      h.writeGroup g 0 v = none) ∧
    (∀ u : Fin 2, (h.stepper u).ref = .referenced → v.toNat < (h.stepper u).pos → h.writeStepper u 3 v = none)) ∧
  (∀ (p : Port) (block item field : Byte) (v : BitVec 32) (s : State), s.hub.MayAsk p →
    RefusedInOrder (.configWrite p block item field v) p s
      [((s.hub.portItem p).configGrant = false, .noGrant),
        (s.hub.mode ≠ .held ∧ s.hub.mode ≠ .faultHold, .wrongMode),
        (∃ b q, Block.ofByte block = some b ∧ s.hub.storeOp = some (b, q), .storeBusy)]) ∧
  (∀ (block item field : Byte) (v : BitVec 32) (h : Hub),
    (∀ b : Block, block.toNat = (match b with
        | .ports => 1
        | .channels => 2
        | .groups => 3
        | .slots => 4
        | .setpoints => 5
        | .calibration => 6) →
      h.fieldWritten block item field v = h.write b item field v) ∧
    (block.toNat < 1 ∨ 6 < block.toNat → h.fieldWritten block item field v = none)) ∧
  ∀ (b : Block) (item field : Byte) (v : BitVec 32) (h : Hub), h.write b item field v = none ↔ h.Unwritable b item field v

/-- A write that is taken is read back as written; no other field of any block moves, but a setpoint's command, which
becomes OFF where the write gives the setpoint a target of another kind; the stored copies, the marks, the fault set, the
claims and the tenancies stay. What a write does to the running blocks: a fallback is passed to its channel, which is formed
where its local input changes, taking its stay value where a stepper's goes to STAY from POSITION and losing it the other way; a
reference rate forms its stepper's channel, whose stay value keeps its position; a member list starts its group's dead timer
afresh, or leaves it EXPIRED where the list is empty (log 21, the model's reading of R97); a slot's mode or source empties
the slot and resets its enabled setpoints; every write to a setpoint resets it, lets it enter from its slot, and forms the
local layers of its old and new target. The marks of a run cut short are the model's (log 26). Any other field moves the working copy alone; a freshness limit
written to 0 leaves a running timer too (log 33, the model's reading of R154 beside R152). -/
def Obligations.WrittenFieldsReadBack : Prop :=
  (∀ (b : Block) (item field : Byte) (v : BitVec 32) (h t : Hub), h.write b item field v = some t →
    t.work.read b item field = some v ∧
      (∀ (d : Block) (i f : Byte), (d, i, f) ≠ (b, item, field) →
        (b = .setpoints → field = 7 → ¬ (d = .setpoints ∧ i = item ∧ f = 8)) →
        t.work.read d i f = h.work.read d i f) ∧
      t.stored = h.stored ∧ t.storedGood = h.storedGood ∧ t.marks = h.marks ∧ t.faults = h.faults ∧
      t.firstFault = h.firstFault ∧ t.storeOp = h.storeOp ∧ t.mode = h.mode ∧
      (∀ c, (t.chan c).claims = (h.chan c).claims) ∧ ∀ q, (t.port q).tenancy = (h.port q).tenancy) ∧
  (∀ (item field : Byte) (v : BitVec 32) (h t : Hub),
    let workOnly : Prop := t = { h with work := t.work }
    (h.write .ports item field v = some t → workOnly) ∧ (h.write .calibration item field v = some t → workOnly) ∧
    (h.write .groups item field v = some t → field ≠ 0 → workOnly) ∧
    (h.write .slots item field v = some t → field = 2 → workOnly) ∧
    (h.write .channels item field v = some t → field ≠ 0 → (field ≠ 5 ∧ item ≠ 20) → workOnly) ∧
    (h.write .channels item field v = some t → item = 20 → field ≠ 0 →
      t = { h with work := t.work, sounder := { h.sounder with mute := t.sounder.mute } } ∧
        (field = 3 → t.sounder.mute = t.muteValue)) ∧
    (∀ c, h.write .channels item 0 v = some t → channelNo item = some c →
      Hub.Reach (Hub.only c) { h with work := t.work } t ∧ (t.chan c).input = t.localLayer c ∧
        (t.localLayer c = (h.chan c).input → workOnly) ∧ (t.localLayer c ≠ (h.chan c).input → t.Formed c)) ∧
    (∀ u, h.write .channels item 5 v = some t → channelNo item = some (stepperChannel u) →
      Hub.Reach (Hub.only (stepperChannel u)) { h with work := t.work } t ∧ t.Formed (stepperChannel u)) ∧
    (∀ u, channelNo item = some (stepperChannel u) → (h.chan (stepperChannel u)).claims = [] →
      (h.write .channels item 0 v = some t → v = 0x070000 →
        (∃ p, (h.chan (stepperChannel u)).input = ⟨.position p, false⟩) →
        (t.chan (stepperChannel u)).stay = some (h.stayOf u) ∧
          (t.chan (stepperChannel u)).eff = ⟨h.stayOf u, .fallback⟩) ∧
      (h.write .channels item 0 v = some t → ∀ p, v.toNat = 0x080000 + p → p < 4096 →
        (h.chan (stepperChannel u)).input = ⟨.stay, false⟩ →
        (t.chan (stepperChannel u)).stay = none ∧
          (t.chan (stepperChannel u)).eff = ⟨.target p h.work.steppers[u].refRate, .fallback⟩) ∧
      (h.write .channels item 5 v = some t → ∀ q r, (h.chan (stepperChannel u)).input = ⟨.stay, false⟩ →
        (h.chan (stepperChannel u)).stay = some (.target q r) →
        (t.chan (stepperChannel u)).stay = some (.target q v.toNat) ∧
          (t.chan (stepperChannel u)).eff = ⟨.target q v.toNat, .fallback⟩)) ∧
    (∀ g, h.write .groups item 0 v = some t → indexOf 4 item = some g →
      t = { h with work := t.work, dead := t.dead } ∧ (∀ k, k ≠ g → t.deadTimer k = h.deadTimer k) ∧
        t.deadTimer g =
          if v = 0 then .expired
          else Hub.deadRun (Config.ms (10 * h.work.groups[g].deadTime)) (h.deadRunning g)) ∧
    (∀ k, h.write .slots item field v = some t → field ≠ 2 → indexOf 8 item = some k →
      ∃ m : Hub, m = { h with work := t.work, slots := m.slots, setpoints := m.setpoints } ∧
        m.slot k = ⟨.empty, 0, none, false⟩ ∧ (∀ j, j ≠ k → m.slot j = h.slot j) ∧
        (∀ n : Fin 16, m.setpoint n =
          if h.work.setpoints[n].enabled && h.work.setpoints[n].slot == k then ⟨.inactive, false, none, false⟩
          else h.setpoint n) ∧
        Hub.Settled h m t) ∧
    ∀ n : Fin 16, h.write .setpoints item field v = some t → indexOf 16 item = some n →
      let i := t.work.setpoints[n]
      let aimed (c : Fin 23) : Bool := c == targetChannel h.work.setpoints[n].target || c == targetChannel i.target
      let entered : Setpoint :=
        if i.enabled = false then ⟨.inactive, false, none, false⟩
        else
          match (h.slot i.slot).state with
          | .empty => ⟨.inactive, false, none, false⟩
          | .fresh => (Setpoint.mk .inactive false none false).evaluated i (h.slot i.slot).value
          | .stale => if i.failActive then ⟨.active, true, none, false⟩ else ⟨.inactive, false, none, false⟩
      (field = 7 → i.command =
        if kindOf (targetChannel i.target) = kindOf (targetChannel h.work.setpoints[n].target) then
          h.work.setpoints[n].command
        else .off) ∧
      t.setpoint n = { entered with cut := (h.setpoint n).timer.isSome && entered.timer.isSome } ∧
      (∀ j, j ≠ n → t.setpoint j = h.setpoint j) ∧ (∀ c, aimed c = true → (t.chan c).input = t.localLayer c) ∧
      Hub.Reach aimed { h with work := t.work, setpoints := t.setpoints } t ∧
      (h.driving n ≠ t.driving n → ∀ q, h.attached q = true → t.hasFlag q .setpoint = true))

/-- STORE in HELD or FAULT_HOLD with no write in flight begins one; STORED or not, its completion ends it and gives
STORE_DONE. A verified write of a store that answers makes the stored copy the working copy, good, its code out of the fault
set; any other leaves the stored copy with a bad checksum, its contents as they were (log 29, the model's choice), and its block
BAD. A completion with no write in flight makes no change (log 27, the
model's choice). The refusals of STORE, in the order of its checks. -/
def Obligations.StoreWritesABlock : Prop :=
  (∀ (p : Port) (block : Byte) (s : State), s.hub.MayAsk p →
    RefusedInOrder (.store p block) p s
      [((s.hub.portItem p).configGrant = false, .noGrant),
        (s.hub.mode ≠ .held ∧ s.hub.mode ≠ .faultHold, .wrongMode),
        (block.toNat < 1 ∨ 6 < block.toNat, .badValue), (s.hub.storeOp.isSome = true, .storeBusy)]) ∧
  (∀ (p : Port) (block : Byte) (b : Block) (s : State), s.hub.MayAskGranted p →
    s.hub.mode = .held ∨ s.hub.mode = .faultHold → Block.ofByte block = some b →
    (s.hub.storeOp = none → exec (.store p block) s = .next { s with
      hub := { Hub.restartLease p s.hub with storeOp := some (b, p) }.respond p .started [] }) ∧
    (s.hub.storeOp.isSome = true → exec (.store p block) s = .next { s with
      hub := (Hub.restartLease p s.hub).respond p .storeBusy [] })) ∧
  ∀ (verified : Bool) (s : State),
    (s.hub.storeOp = none → exec (.storeCompletion verified) s = .next s) ∧
    ∀ b p, s.hub.storeOp = some (b, p) →
      (verified = true → s.hub.faults.getLsbD 7 = false → exec (.storeCompletion verified) s = .next { s with
        hub := { s.hub with
          stored := Blocks.copyBlock b s.hub.work s.hub.stored
          storedGood := s.hub.storedGood.set b.idx true
          marks := s.hub.marks.set b.idx .good
          faults := s.hub.faults &&& ~~~(BitVec.twoPow 8 b.code)
          lastStore := some ⟨true, b⟩
          storeOp := none }.giveFlag p .storeDone }) ∧
      (verified = false ∨ s.hub.faults.getLsbD 7 = true → exec (.storeCompletion verified) s = .next { s with
        hub := { s.hub with
          storedGood := s.hub.storedGood.set b.idx false
          marks := s.hub.marks.set b.idx .bad
          lastStore := some ⟨false, b⟩
          storeOp := none }.giveFlag p .storeDone })

/-! ## Notices and queries -/

/-- READ_NOTICES answers flags, mask, change set and asked set, the flags as they stood at the frame's arrival.
CLEAR_NOTICES clears the flags named and, where asked, the change set; SET_MASK writes the mask; each of the two refuses a
word with bit 14 or 15 set, and CLEAR_NOTICES a clear byte above 1. Nothing else moves but by the lease restart. All three
are refused with STARTING in STARTUP and NOT_ATTACHED from a port not ATTACHED. The notice line is asserted exactly while
RESET_N is not low, the port is not DETACHED and an enabled flag is set; a lapse leaves it at its level, the port's flags
and mask kept. A flag sets at an ATTACHED port whatever the mask. -/
def Obligations.NoticesAreReadClearedAndMasked : Prop :=
  (∀ (p : Port) (word : BitVec 16) (clear : Byte) (s : State), s.hub.takesFrames p = true →
    let a := Hub.restartLease p s.hub
    ∀ i ∈ [Instr.readNotices p, .clearNotices p word clear, .setMask p word],
      (s.hub.mode = .startup → exec i s = .next { s with hub := a.respond p .starting [] }) ∧
      (s.hub.mode ≠ .startup → s.hub.attached p = false →
        exec i s = .next { s with hub := a.respond p .notAttached [] })) ∧
  (∀ (p : Port) (word : BitVec 16) (clear : Byte) (s : State), s.hub.MayAsk p →
    let a := Hub.restartLease p s.hub
    let spare := word.getLsbD 14 = true ∨ word.getLsbD 15 = true
    (exec (.readNotices p) s = .next { s with
      hub := a.respond p .ok
        (be16 ((s.hub.port p).flags.setWidth 16) ++ be16 ((s.hub.port p).mask.setWidth 16) ++
          be24 ((s.hub.port p).change.setWidth 24) ++ be24 ((s.hub.port p).asked.setWidth 24)) }) ∧
    (spare ∨ 1 < clear.toNat →
      exec (.clearNotices p word clear) s = .next { s with hub := a.respond p .badValue [] }) ∧
    (¬ spare → clear.toNat ≤ 1 →
      exec (.clearNotices p word clear) s = .next { s with
        hub := (a.modPort p fun t =>
          { t with
            flags := t.flags &&& ~~~(word.setWidth 14)
            change := if clear = 1 then 0 else t.change }).respond p .ok [] }) ∧
    (spare → exec (.setMask p word) s = .next { s with hub := a.respond p .badValue [] }) ∧
    (¬ spare → exec (.setMask p word) s = .next { s with
      hub := (a.modPort p fun t => { t with mask := word.setWidth 14 }).respond p .ok [] })) ∧
  (∀ (p : Port) (h : Hub), h.noteAsserted p = true ↔
    (h.resetNLow = false ∧ (h.port p).tenancy ≠ .detached ∧
      ∃ n : Fin 14, (h.port p).flags.getLsbD n.val = true ∧ (h.port p).mask.getLsbD n.val = true)) ∧
  (∀ (p : Port) (s : State), s.hub.attached p = true →
    ∃ t : Hub, exec (.lapse p) s = .next { s with hub := t } ∧ (t.port p).flags = (s.hub.port p).flags ∧
      (t.port p).mask = (s.hub.port p).mask ∧ t.noteAsserted p = s.hub.noteAsserted p) ∧
  (∀ (p : Port) (f : Flag) (h : Hub), h.attached p = true →
    h.giveFlag p f = h.modPort p fun t => { t with flags := t.flags ||| BitVec.twoPow 14 f.bit })

/-- The five queries change nothing but the response (and which free values are used): QUERY_HUB in every mode and tenancy
state with the hub record, QUERY_CHANNEL and QUERY_CLAIMS with the records of their channel, QUERY_SLOT with the slot record,
QUERY_SETPOINTS with the states and the driving set. The bits without content are free (log 14). A channel above 22 is refused
with BAD_CHANNEL, a slot above 7 with BAD_VALUE. Each body holds what the tables of R191, R193 and R195 lay out, byte by byte. -/
def Obligations.QueriesAnswerTheirRecords : Prop :=
  (∀ (p : Port) (x : Byte) (s : State), s.hub.MayAsk p →
    RefusedInOrder (.queryChannel p x) p s [(22 < x.toNat, .badChannel)] ∧
    RefusedInOrder (.queryClaims p x) p s [(22 < x.toNat, .badChannel)] ∧
    RefusedInOrder (.querySlot p x) p s [(7 < x.toNat, .badValue)]) ∧
  (∀ (p : Port) (s : State), s.hub.takesFrames p = true →
    let a := Hub.restartLease p s.hub
    let shows (i : Instr) (record : List LayoutByte) : Prop :=
      ∃ body, exec i s = .next { s with
          hub := { a.respond p .ok body with freeCount := s.hub.freeCount + record.length } } ∧ Hub.Shows record body
    shows (.queryHub p) a.hubRecord ∧
    (s.hub.MayAsk p →
      (∀ ch c, channelNo ch = some c → shows (.queryChannel p ch) (a.channelRecord c)) ∧
      (∀ ch c, channelNo ch = some c → shows (.queryClaims p ch) (a.claimsRecord c)) ∧
      (∀ slot k, indexOf 8 slot = some k → shows (.querySlot p slot) (a.slotRecord k)) ∧
      exec (.querySetpoints p) s = .next { s with hub := a.respond p .ok a.setpointsBody })) ∧
  ∀ (h : Hub) (body : List Byte),
    (Hub.Shows h.hubRecord body → h.HubRecordIs body) ∧
    (∀ c, Hub.Shows (h.channelRecord c) body → h.ChannelRecordIs c body) ∧
    (∀ r, Hub.Shows (h.channelRecord (relayChannel r)) body → h.RelayRecordIs r body) ∧
    (∀ l, Hub.Shows (h.channelRecord (lampChannel l)) body → h.LampRecordIs l body) ∧
    (Hub.Shows (h.channelRecord soundChannel) body → h.SoundRecordIs body) ∧
    (∀ u, Hub.Shows (h.channelRecord (stepperChannel u)) body → h.StepperRecordIs u body) ∧
    (∀ c, Hub.Shows (h.claimsRecord c) body → h.ClaimsBodyIs c body) ∧
    (∀ k, Hub.Shows (h.slotRecord k) body → h.SlotRecordIs k body) ∧
    h.SetpointsBodyIs h.setpointsBody

/-! ## Invariants -/

/-- Every step keeps the claim pool: one claim of a port on a channel, levels in order, the pool and quotas not exceeded,
ORPHANED exactly while LAPSED, pending handovers between live claims of one level, no claim before RUN. -/
def Obligations.StepsKeepTheClaimPool : Prop := KeptByStep Hub.PoolStands

/-- Every step keeps the interlock, never two members of a group physically ON at once, and each relay's engine state and
physical output in agreement. -/
def Obligations.StepsKeepTheInterlock : Prop := KeptByStep fun h => h.InterlockStands ∧ h.RelaysStand

/-- Every step keeps the chime queue within four records with its engine READY exactly while it is empty, each lamp at its
taken command, and the mute mark at its rule. -/
def Obligations.StepsKeepSoundAndLight : Prop := KeptByStep fun h => h.ChimesStand ∧ h.SightAndSoundStand

/-- Every step keeps every channel formed, winner mark, effective, taken and pending-effective command, and after STARTUP its
local input at its local layer. -/
def Obligations.StepsKeepArbitration : Prop := KeptByStep fun h => h.ArbitrationStands ∧ h.LayersStand

/-- Every step keeps both steppers within their travel, moving only with a reference and as the hub mode allows. -/
def Obligations.StepsKeepSteppersWithinTravel : Prop := KeptByStep fun h => ∀ u, h.MotionStands u

/-- The invariants hold right after reset. -/
def Obligations.InvariantsHoldAtReset : Prop :=
  Hub.PoolStands State.reset.hub ∧ Hub.InterlockStands State.reset.hub ∧ Hub.RelaysStand State.reset.hub ∧
    Hub.ChimesStand State.reset.hub ∧ Hub.SightAndSoundStand State.reset.hub ∧
    Hub.ArbitrationStands State.reset.hub ∧ Hub.LayersStand State.reset.hub ∧
    ∀ u, Hub.MotionStands State.reset.hub u
end

