-- ==== Sys2Proof/Laws/State.lean ====
section
/-! SUPPORT. What each update of the part leaves: one lemma per field and per view, true by rfl, and the reads of what was
just written. -/

namespace Sys2Proof.Machine.Hub

/-! ## modPort -/

section
variable (h : Hub) (p : Port) (f : PortUnit → PortUnit)

@[simp] theorem modPort_channels : (h.modPort p f).channels = h.channels := rfl
@[simp] theorem modPort_relayCond : (h.modPort p f).relayCond = h.relayCond := rfl
@[simp] theorem modPort_relays : (h.modPort p f).relays = h.relays := rfl
@[simp] theorem modPort_dead : (h.modPort p f).dead = h.dead := rfl
@[simp] theorem modPort_lamps : (h.modPort p f).lamps = h.lamps := rfl
@[simp] theorem modPort_flash : (h.modPort p f).flash = h.flash := rfl
@[simp] theorem modPort_sounder : (h.modPort p f).sounder = h.sounder := rfl
@[simp] theorem modPort_steppers : (h.modPort p f).steppers = h.steppers := rfl
@[simp] theorem modPort_slots : (h.modPort p f).slots = h.slots := rfl
@[simp] theorem modPort_setpoints : (h.modPort p f).setpoints = h.setpoints := rfl
@[simp] theorem modPort_mode : (h.modPort p f).mode = h.mode := rfl
@[simp] theorem modPort_cause : (h.modPort p f).cause = h.cause := rfl
@[simp] theorem modPort_faults : (h.modPort p f).faults = h.faults := rfl
@[simp] theorem modPort_firstFault : (h.modPort p f).firstFault = h.firstFault := rfl
@[simp] theorem modPort_marks : (h.modPort p f).marks = h.marks := rfl
@[simp] theorem modPort_storeOp : (h.modPort p f).storeOp = h.storeOp := rfl
@[simp] theorem modPort_lastStore : (h.modPort p f).lastStore = h.lastStore := rfl
@[simp] theorem modPort_loadElapsed : (h.modPort p f).loadElapsed = h.loadElapsed := rfl
@[simp] theorem modPort_work : (h.modPort p f).work = h.work := rfl
@[simp] theorem modPort_stored : (h.modPort p f).stored = h.stored := rfl
@[simp] theorem modPort_storedGood : (h.modPort p f).storedGood = h.storedGood := rfl
@[simp] theorem modPort_resetNLow : (h.modPort p f).resetNLow = h.resetNLow := rfl
@[simp] theorem modPort_stepInhibit : (h.modPort p f).stepInhibit = h.stepInhibit := rfl
@[simp] theorem modPort_adr0 : (h.modPort p f).adr0 = h.adr0 := rfl
@[simp] theorem modPort_adr1 : (h.modPort p f).adr1 = h.adr1 := rfl
@[simp] theorem modPort_i2cAddr : (h.modPort p f).i2cAddr = h.i2cAddr := rfl
@[simp] theorem modPort_freeCount : (h.modPort p f).freeCount = h.freeCount := rfl
@[simp] theorem modPort_chan (k : Fin 23) : (h.modPort p f).chan k = h.chan k := rfl
@[simp] theorem modPort_winnerPort (k : Fin 23) : (h.modPort p f).winnerPort k = h.winnerPort k := rfl
@[simp] theorem modPort_relay (q : Fin 12) : (h.modPort p f).relay q = h.relay q := rfl
@[simp] theorem modPort_deadTimer (q : Fin 4) : (h.modPort p f).deadTimer q = h.deadTimer q := rfl
@[simp] theorem modPort_lamp (q : Fin 8) : (h.modPort p f).lamp q = h.lamp q := rfl
@[simp] theorem modPort_stepper (q : Fin 2) : (h.modPort p f).stepper q = h.stepper q := rfl
@[simp] theorem modPort_slot (q : Fin 8) : (h.modPort p f).slot q = h.slot q := rfl
@[simp] theorem modPort_setpoint (q : Fin 16) : (h.modPort p f).setpoint q = h.setpoint q := rfl
@[simp] theorem modPort_portItem (q : Port) : (h.modPort p f).portItem q = h.portItem q := rfl
@[simp] theorem modPort_namesRelay (i : Fin 4) (j : Fin 12) : (h.modPort p f).namesRelay i j = h.namesRelay i j := rfl
@[simp] theorem modPort_groupOf (q : Fin 12) : (h.modPort p f).groupOf q = h.groupOf q := rfl
@[simp] theorem modPort_groupInUse (q : Fin 4) : (h.modPort p f).groupInUse q = h.groupInUse q := rfl
@[simp] theorem modPort_members (q : Fin 4) : (h.modPort p f).members q = h.members q := rfl
@[simp] theorem modPort_stepperItem (q : Fin 2) : (h.modPort p f).stepperItem q = h.stepperItem q := rfl
@[simp] theorem modPort_slotItem (q : Fin 8) : (h.modPort p f).slotItem q = h.slotItem q := rfl
@[simp] theorem modPort_setpointItem (q : Fin 16) : (h.modPort p f).setpointItem q = h.setpointItem q := rfl
@[simp] theorem modPort_newLease (q : Port) : (h.modPort p f).newLease q = h.newLease q := rfl

end

/-! ## modChan -/

section
variable (h : Hub) (c : Fin 23) (f : Channel → Channel)

@[simp] theorem modChan_ports : (h.modChan c f).ports = h.ports := rfl
@[simp] theorem modChan_relayCond : (h.modChan c f).relayCond = h.relayCond := rfl
@[simp] theorem modChan_relays : (h.modChan c f).relays = h.relays := rfl
@[simp] theorem modChan_dead : (h.modChan c f).dead = h.dead := rfl
@[simp] theorem modChan_lamps : (h.modChan c f).lamps = h.lamps := rfl
@[simp] theorem modChan_flash : (h.modChan c f).flash = h.flash := rfl
@[simp] theorem modChan_sounder : (h.modChan c f).sounder = h.sounder := rfl
@[simp] theorem modChan_steppers : (h.modChan c f).steppers = h.steppers := rfl
@[simp] theorem modChan_slots : (h.modChan c f).slots = h.slots := rfl
@[simp] theorem modChan_setpoints : (h.modChan c f).setpoints = h.setpoints := rfl
@[simp] theorem modChan_mode : (h.modChan c f).mode = h.mode := rfl
@[simp] theorem modChan_cause : (h.modChan c f).cause = h.cause := rfl
@[simp] theorem modChan_faults : (h.modChan c f).faults = h.faults := rfl
@[simp] theorem modChan_firstFault : (h.modChan c f).firstFault = h.firstFault := rfl
@[simp] theorem modChan_marks : (h.modChan c f).marks = h.marks := rfl
@[simp] theorem modChan_storeOp : (h.modChan c f).storeOp = h.storeOp := rfl
@[simp] theorem modChan_lastStore : (h.modChan c f).lastStore = h.lastStore := rfl
@[simp] theorem modChan_loadElapsed : (h.modChan c f).loadElapsed = h.loadElapsed := rfl
@[simp] theorem modChan_work : (h.modChan c f).work = h.work := rfl
@[simp] theorem modChan_stored : (h.modChan c f).stored = h.stored := rfl
@[simp] theorem modChan_storedGood : (h.modChan c f).storedGood = h.storedGood := rfl
@[simp] theorem modChan_resetNLow : (h.modChan c f).resetNLow = h.resetNLow := rfl
@[simp] theorem modChan_stepInhibit : (h.modChan c f).stepInhibit = h.stepInhibit := rfl
@[simp] theorem modChan_adr0 : (h.modChan c f).adr0 = h.adr0 := rfl
@[simp] theorem modChan_adr1 : (h.modChan c f).adr1 = h.adr1 := rfl
@[simp] theorem modChan_i2cAddr : (h.modChan c f).i2cAddr = h.i2cAddr := rfl
@[simp] theorem modChan_freeCount : (h.modChan c f).freeCount = h.freeCount := rfl
@[simp] theorem modChan_port (q : Port) : (h.modChan c f).port q = h.port q := rfl
@[simp] theorem modChan_attached (q : Port) : (h.modChan c f).attached q = h.attached q := rfl
@[simp] theorem modChan_isLapsed (q : Port) : (h.modChan c f).isLapsed q = h.isLapsed q := rfl
@[simp] theorem modChan_takesFrames (q : Port) : (h.modChan c f).takesFrames q = h.takesFrames q := rfl
@[simp] theorem modChan_relay (q : Fin 12) : (h.modChan c f).relay q = h.relay q := rfl
@[simp] theorem modChan_deadTimer (q : Fin 4) : (h.modChan c f).deadTimer q = h.deadTimer q := rfl
@[simp] theorem modChan_lamp (q : Fin 8) : (h.modChan c f).lamp q = h.lamp q := rfl
@[simp] theorem modChan_stepper (q : Fin 2) : (h.modChan c f).stepper q = h.stepper q := rfl
@[simp] theorem modChan_slot (q : Fin 8) : (h.modChan c f).slot q = h.slot q := rfl
@[simp] theorem modChan_setpoint (q : Fin 16) : (h.modChan c f).setpoint q = h.setpoint q := rfl
@[simp] theorem modChan_portItem (q : Port) : (h.modChan c f).portItem q = h.portItem q := rfl
@[simp] theorem modChan_namesRelay (i : Fin 4) (j : Fin 12) : (h.modChan c f).namesRelay i j = h.namesRelay i j := rfl
@[simp] theorem modChan_groupOf (q : Fin 12) : (h.modChan c f).groupOf q = h.groupOf q := rfl
@[simp] theorem modChan_groupInUse (q : Fin 4) : (h.modChan c f).groupInUse q = h.groupInUse q := rfl
@[simp] theorem modChan_members (q : Fin 4) : (h.modChan c f).members q = h.members q := rfl
@[simp] theorem modChan_stepperItem (q : Fin 2) : (h.modChan c f).stepperItem q = h.stepperItem q := rfl
@[simp] theorem modChan_slotItem (q : Fin 8) : (h.modChan c f).slotItem q = h.slotItem q := rfl
@[simp] theorem modChan_setpointItem (q : Fin 16) : (h.modChan c f).setpointItem q = h.setpointItem q := rfl
@[simp] theorem modChan_newLease (q : Port) : (h.modChan c f).newLease q = h.newLease q := rfl

end

/-! ## modRelay -/

section
variable (h : Hub) (r : Fin 12) (f : Relay → Relay)

@[simp] theorem modRelay_ports : (h.modRelay r f).ports = h.ports := rfl
@[simp] theorem modRelay_channels : (h.modRelay r f).channels = h.channels := rfl
@[simp] theorem modRelay_relayCond : (h.modRelay r f).relayCond = h.relayCond := rfl
@[simp] theorem modRelay_dead : (h.modRelay r f).dead = h.dead := rfl
@[simp] theorem modRelay_lamps : (h.modRelay r f).lamps = h.lamps := rfl
@[simp] theorem modRelay_flash : (h.modRelay r f).flash = h.flash := rfl
@[simp] theorem modRelay_sounder : (h.modRelay r f).sounder = h.sounder := rfl
@[simp] theorem modRelay_steppers : (h.modRelay r f).steppers = h.steppers := rfl
@[simp] theorem modRelay_slots : (h.modRelay r f).slots = h.slots := rfl
@[simp] theorem modRelay_setpoints : (h.modRelay r f).setpoints = h.setpoints := rfl
@[simp] theorem modRelay_mode : (h.modRelay r f).mode = h.mode := rfl
@[simp] theorem modRelay_cause : (h.modRelay r f).cause = h.cause := rfl
@[simp] theorem modRelay_faults : (h.modRelay r f).faults = h.faults := rfl
@[simp] theorem modRelay_firstFault : (h.modRelay r f).firstFault = h.firstFault := rfl
@[simp] theorem modRelay_marks : (h.modRelay r f).marks = h.marks := rfl
@[simp] theorem modRelay_storeOp : (h.modRelay r f).storeOp = h.storeOp := rfl
@[simp] theorem modRelay_lastStore : (h.modRelay r f).lastStore = h.lastStore := rfl
@[simp] theorem modRelay_loadElapsed : (h.modRelay r f).loadElapsed = h.loadElapsed := rfl
@[simp] theorem modRelay_work : (h.modRelay r f).work = h.work := rfl
@[simp] theorem modRelay_stored : (h.modRelay r f).stored = h.stored := rfl
@[simp] theorem modRelay_storedGood : (h.modRelay r f).storedGood = h.storedGood := rfl
@[simp] theorem modRelay_resetNLow : (h.modRelay r f).resetNLow = h.resetNLow := rfl
@[simp] theorem modRelay_stepInhibit : (h.modRelay r f).stepInhibit = h.stepInhibit := rfl
@[simp] theorem modRelay_adr0 : (h.modRelay r f).adr0 = h.adr0 := rfl
@[simp] theorem modRelay_adr1 : (h.modRelay r f).adr1 = h.adr1 := rfl
@[simp] theorem modRelay_i2cAddr : (h.modRelay r f).i2cAddr = h.i2cAddr := rfl
@[simp] theorem modRelay_freeCount : (h.modRelay r f).freeCount = h.freeCount := rfl
@[simp] theorem modRelay_port (q : Port) : (h.modRelay r f).port q = h.port q := rfl
@[simp] theorem modRelay_attached (q : Port) : (h.modRelay r f).attached q = h.attached q := rfl
@[simp] theorem modRelay_isLapsed (q : Port) : (h.modRelay r f).isLapsed q = h.isLapsed q := rfl
@[simp] theorem modRelay_takesFrames (q : Port) : (h.modRelay r f).takesFrames q = h.takesFrames q := rfl
@[simp] theorem modRelay_chan (k : Fin 23) : (h.modRelay r f).chan k = h.chan k := rfl
@[simp] theorem modRelay_winnerPort (k : Fin 23) : (h.modRelay r f).winnerPort k = h.winnerPort k := rfl
@[simp] theorem modRelay_deadTimer (q : Fin 4) : (h.modRelay r f).deadTimer q = h.deadTimer q := rfl
@[simp] theorem modRelay_lamp (q : Fin 8) : (h.modRelay r f).lamp q = h.lamp q := rfl
@[simp] theorem modRelay_stepper (q : Fin 2) : (h.modRelay r f).stepper q = h.stepper q := rfl
@[simp] theorem modRelay_slot (q : Fin 8) : (h.modRelay r f).slot q = h.slot q := rfl
@[simp] theorem modRelay_setpoint (q : Fin 16) : (h.modRelay r f).setpoint q = h.setpoint q := rfl
@[simp] theorem modRelay_portItem (q : Port) : (h.modRelay r f).portItem q = h.portItem q := rfl
@[simp] theorem modRelay_namesRelay (i : Fin 4) (j : Fin 12) : (h.modRelay r f).namesRelay i j = h.namesRelay i j := rfl
@[simp] theorem modRelay_groupOf (q : Fin 12) : (h.modRelay r f).groupOf q = h.groupOf q := rfl
@[simp] theorem modRelay_groupInUse (q : Fin 4) : (h.modRelay r f).groupInUse q = h.groupInUse q := rfl
@[simp] theorem modRelay_members (q : Fin 4) : (h.modRelay r f).members q = h.members q := rfl
@[simp] theorem modRelay_stepperItem (q : Fin 2) : (h.modRelay r f).stepperItem q = h.stepperItem q := rfl
@[simp] theorem modRelay_slotItem (q : Fin 8) : (h.modRelay r f).slotItem q = h.slotItem q := rfl
@[simp] theorem modRelay_setpointItem (q : Fin 16) : (h.modRelay r f).setpointItem q = h.setpointItem q := rfl
@[simp] theorem modRelay_newLease (q : Port) : (h.modRelay r f).newLease q = h.newLease q := rfl

end

/-! ## setDead -/

section
variable (h : Hub) (g : Fin 4) (t : DeadTimer)

@[simp] theorem setDead_ports : (h.setDead g t).ports = h.ports := rfl
@[simp] theorem setDead_channels : (h.setDead g t).channels = h.channels := rfl
@[simp] theorem setDead_relayCond : (h.setDead g t).relayCond = h.relayCond := rfl
@[simp] theorem setDead_relays : (h.setDead g t).relays = h.relays := rfl
@[simp] theorem setDead_lamps : (h.setDead g t).lamps = h.lamps := rfl
@[simp] theorem setDead_flash : (h.setDead g t).flash = h.flash := rfl
@[simp] theorem setDead_sounder : (h.setDead g t).sounder = h.sounder := rfl
@[simp] theorem setDead_steppers : (h.setDead g t).steppers = h.steppers := rfl
@[simp] theorem setDead_slots : (h.setDead g t).slots = h.slots := rfl
@[simp] theorem setDead_setpoints : (h.setDead g t).setpoints = h.setpoints := rfl
@[simp] theorem setDead_mode : (h.setDead g t).mode = h.mode := rfl
@[simp] theorem setDead_cause : (h.setDead g t).cause = h.cause := rfl
@[simp] theorem setDead_faults : (h.setDead g t).faults = h.faults := rfl
@[simp] theorem setDead_firstFault : (h.setDead g t).firstFault = h.firstFault := rfl
@[simp] theorem setDead_marks : (h.setDead g t).marks = h.marks := rfl
@[simp] theorem setDead_storeOp : (h.setDead g t).storeOp = h.storeOp := rfl
@[simp] theorem setDead_lastStore : (h.setDead g t).lastStore = h.lastStore := rfl
@[simp] theorem setDead_loadElapsed : (h.setDead g t).loadElapsed = h.loadElapsed := rfl
@[simp] theorem setDead_work : (h.setDead g t).work = h.work := rfl
@[simp] theorem setDead_stored : (h.setDead g t).stored = h.stored := rfl
@[simp] theorem setDead_storedGood : (h.setDead g t).storedGood = h.storedGood := rfl
@[simp] theorem setDead_resetNLow : (h.setDead g t).resetNLow = h.resetNLow := rfl
@[simp] theorem setDead_stepInhibit : (h.setDead g t).stepInhibit = h.stepInhibit := rfl
@[simp] theorem setDead_adr0 : (h.setDead g t).adr0 = h.adr0 := rfl
@[simp] theorem setDead_adr1 : (h.setDead g t).adr1 = h.adr1 := rfl
@[simp] theorem setDead_i2cAddr : (h.setDead g t).i2cAddr = h.i2cAddr := rfl
@[simp] theorem setDead_freeCount : (h.setDead g t).freeCount = h.freeCount := rfl
@[simp] theorem setDead_port (q : Port) : (h.setDead g t).port q = h.port q := rfl
@[simp] theorem setDead_attached (q : Port) : (h.setDead g t).attached q = h.attached q := rfl
@[simp] theorem setDead_isLapsed (q : Port) : (h.setDead g t).isLapsed q = h.isLapsed q := rfl
@[simp] theorem setDead_takesFrames (q : Port) : (h.setDead g t).takesFrames q = h.takesFrames q := rfl
@[simp] theorem setDead_chan (k : Fin 23) : (h.setDead g t).chan k = h.chan k := rfl
@[simp] theorem setDead_winnerPort (k : Fin 23) : (h.setDead g t).winnerPort k = h.winnerPort k := rfl
@[simp] theorem setDead_relay (q : Fin 12) : (h.setDead g t).relay q = h.relay q := rfl
@[simp] theorem setDead_lamp (q : Fin 8) : (h.setDead g t).lamp q = h.lamp q := rfl
@[simp] theorem setDead_stepper (q : Fin 2) : (h.setDead g t).stepper q = h.stepper q := rfl
@[simp] theorem setDead_slot (q : Fin 8) : (h.setDead g t).slot q = h.slot q := rfl
@[simp] theorem setDead_setpoint (q : Fin 16) : (h.setDead g t).setpoint q = h.setpoint q := rfl
@[simp] theorem setDead_portItem (q : Port) : (h.setDead g t).portItem q = h.portItem q := rfl
@[simp] theorem setDead_namesRelay (i : Fin 4) (j : Fin 12) : (h.setDead g t).namesRelay i j = h.namesRelay i j := rfl
@[simp] theorem setDead_groupOf (q : Fin 12) : (h.setDead g t).groupOf q = h.groupOf q := rfl
@[simp] theorem setDead_groupInUse (q : Fin 4) : (h.setDead g t).groupInUse q = h.groupInUse q := rfl
@[simp] theorem setDead_members (q : Fin 4) : (h.setDead g t).members q = h.members q := rfl
@[simp] theorem setDead_stepperItem (q : Fin 2) : (h.setDead g t).stepperItem q = h.stepperItem q := rfl
@[simp] theorem setDead_slotItem (q : Fin 8) : (h.setDead g t).slotItem q = h.slotItem q := rfl
@[simp] theorem setDead_setpointItem (q : Fin 16) : (h.setDead g t).setpointItem q = h.setpointItem q := rfl
@[simp] theorem setDead_newLease (q : Port) : (h.setDead g t).newLease q = h.newLease q := rfl

end

/-! ## setLamp -/

section
variable (h : Hub) (l : Fin 8) (o : LampOutput)

@[simp] theorem setLamp_ports : (h.setLamp l o).ports = h.ports := rfl
@[simp] theorem setLamp_channels : (h.setLamp l o).channels = h.channels := rfl
@[simp] theorem setLamp_relayCond : (h.setLamp l o).relayCond = h.relayCond := rfl
@[simp] theorem setLamp_relays : (h.setLamp l o).relays = h.relays := rfl
@[simp] theorem setLamp_dead : (h.setLamp l o).dead = h.dead := rfl
@[simp] theorem setLamp_flash : (h.setLamp l o).flash = h.flash := rfl
@[simp] theorem setLamp_sounder : (h.setLamp l o).sounder = h.sounder := rfl
@[simp] theorem setLamp_steppers : (h.setLamp l o).steppers = h.steppers := rfl
@[simp] theorem setLamp_slots : (h.setLamp l o).slots = h.slots := rfl
@[simp] theorem setLamp_setpoints : (h.setLamp l o).setpoints = h.setpoints := rfl
@[simp] theorem setLamp_mode : (h.setLamp l o).mode = h.mode := rfl
@[simp] theorem setLamp_cause : (h.setLamp l o).cause = h.cause := rfl
@[simp] theorem setLamp_faults : (h.setLamp l o).faults = h.faults := rfl
@[simp] theorem setLamp_firstFault : (h.setLamp l o).firstFault = h.firstFault := rfl
@[simp] theorem setLamp_marks : (h.setLamp l o).marks = h.marks := rfl
@[simp] theorem setLamp_storeOp : (h.setLamp l o).storeOp = h.storeOp := rfl
@[simp] theorem setLamp_lastStore : (h.setLamp l o).lastStore = h.lastStore := rfl
@[simp] theorem setLamp_loadElapsed : (h.setLamp l o).loadElapsed = h.loadElapsed := rfl
@[simp] theorem setLamp_work : (h.setLamp l o).work = h.work := rfl
@[simp] theorem setLamp_stored : (h.setLamp l o).stored = h.stored := rfl
@[simp] theorem setLamp_storedGood : (h.setLamp l o).storedGood = h.storedGood := rfl
@[simp] theorem setLamp_resetNLow : (h.setLamp l o).resetNLow = h.resetNLow := rfl
@[simp] theorem setLamp_stepInhibit : (h.setLamp l o).stepInhibit = h.stepInhibit := rfl
@[simp] theorem setLamp_adr0 : (h.setLamp l o).adr0 = h.adr0 := rfl
@[simp] theorem setLamp_adr1 : (h.setLamp l o).adr1 = h.adr1 := rfl
@[simp] theorem setLamp_i2cAddr : (h.setLamp l o).i2cAddr = h.i2cAddr := rfl
@[simp] theorem setLamp_freeCount : (h.setLamp l o).freeCount = h.freeCount := rfl
@[simp] theorem setLamp_port (q : Port) : (h.setLamp l o).port q = h.port q := rfl
@[simp] theorem setLamp_attached (q : Port) : (h.setLamp l o).attached q = h.attached q := rfl
@[simp] theorem setLamp_isLapsed (q : Port) : (h.setLamp l o).isLapsed q = h.isLapsed q := rfl
@[simp] theorem setLamp_takesFrames (q : Port) : (h.setLamp l o).takesFrames q = h.takesFrames q := rfl
@[simp] theorem setLamp_chan (k : Fin 23) : (h.setLamp l o).chan k = h.chan k := rfl
@[simp] theorem setLamp_winnerPort (k : Fin 23) : (h.setLamp l o).winnerPort k = h.winnerPort k := rfl
@[simp] theorem setLamp_relay (q : Fin 12) : (h.setLamp l o).relay q = h.relay q := rfl
@[simp] theorem setLamp_deadTimer (q : Fin 4) : (h.setLamp l o).deadTimer q = h.deadTimer q := rfl
@[simp] theorem setLamp_stepper (q : Fin 2) : (h.setLamp l o).stepper q = h.stepper q := rfl
@[simp] theorem setLamp_slot (q : Fin 8) : (h.setLamp l o).slot q = h.slot q := rfl
@[simp] theorem setLamp_setpoint (q : Fin 16) : (h.setLamp l o).setpoint q = h.setpoint q := rfl
@[simp] theorem setLamp_portItem (q : Port) : (h.setLamp l o).portItem q = h.portItem q := rfl
@[simp] theorem setLamp_namesRelay (i : Fin 4) (j : Fin 12) : (h.setLamp l o).namesRelay i j = h.namesRelay i j := rfl
@[simp] theorem setLamp_groupOf (q : Fin 12) : (h.setLamp l o).groupOf q = h.groupOf q := rfl
@[simp] theorem setLamp_groupInUse (q : Fin 4) : (h.setLamp l o).groupInUse q = h.groupInUse q := rfl
@[simp] theorem setLamp_members (q : Fin 4) : (h.setLamp l o).members q = h.members q := rfl
@[simp] theorem setLamp_stepperItem (q : Fin 2) : (h.setLamp l o).stepperItem q = h.stepperItem q := rfl
@[simp] theorem setLamp_slotItem (q : Fin 8) : (h.setLamp l o).slotItem q = h.slotItem q := rfl
@[simp] theorem setLamp_setpointItem (q : Fin 16) : (h.setLamp l o).setpointItem q = h.setpointItem q := rfl
@[simp] theorem setLamp_newLease (q : Port) : (h.setLamp l o).newLease q = h.newLease q := rfl

end

/-! ## modSounder -/

section
variable (h : Hub) (f : Sounder → Sounder)

@[simp] theorem modSounder_ports : (h.modSounder f).ports = h.ports := rfl
@[simp] theorem modSounder_channels : (h.modSounder f).channels = h.channels := rfl
@[simp] theorem modSounder_relayCond : (h.modSounder f).relayCond = h.relayCond := rfl
@[simp] theorem modSounder_relays : (h.modSounder f).relays = h.relays := rfl
@[simp] theorem modSounder_dead : (h.modSounder f).dead = h.dead := rfl
@[simp] theorem modSounder_lamps : (h.modSounder f).lamps = h.lamps := rfl
@[simp] theorem modSounder_flash : (h.modSounder f).flash = h.flash := rfl
@[simp] theorem modSounder_steppers : (h.modSounder f).steppers = h.steppers := rfl
@[simp] theorem modSounder_slots : (h.modSounder f).slots = h.slots := rfl
@[simp] theorem modSounder_setpoints : (h.modSounder f).setpoints = h.setpoints := rfl
@[simp] theorem modSounder_mode : (h.modSounder f).mode = h.mode := rfl
@[simp] theorem modSounder_cause : (h.modSounder f).cause = h.cause := rfl
@[simp] theorem modSounder_faults : (h.modSounder f).faults = h.faults := rfl
@[simp] theorem modSounder_firstFault : (h.modSounder f).firstFault = h.firstFault := rfl
@[simp] theorem modSounder_marks : (h.modSounder f).marks = h.marks := rfl
@[simp] theorem modSounder_storeOp : (h.modSounder f).storeOp = h.storeOp := rfl
@[simp] theorem modSounder_lastStore : (h.modSounder f).lastStore = h.lastStore := rfl
@[simp] theorem modSounder_loadElapsed : (h.modSounder f).loadElapsed = h.loadElapsed := rfl
@[simp] theorem modSounder_work : (h.modSounder f).work = h.work := rfl
@[simp] theorem modSounder_stored : (h.modSounder f).stored = h.stored := rfl
@[simp] theorem modSounder_storedGood : (h.modSounder f).storedGood = h.storedGood := rfl
@[simp] theorem modSounder_resetNLow : (h.modSounder f).resetNLow = h.resetNLow := rfl
@[simp] theorem modSounder_stepInhibit : (h.modSounder f).stepInhibit = h.stepInhibit := rfl
@[simp] theorem modSounder_adr0 : (h.modSounder f).adr0 = h.adr0 := rfl
@[simp] theorem modSounder_adr1 : (h.modSounder f).adr1 = h.adr1 := rfl
@[simp] theorem modSounder_i2cAddr : (h.modSounder f).i2cAddr = h.i2cAddr := rfl
@[simp] theorem modSounder_freeCount : (h.modSounder f).freeCount = h.freeCount := rfl
@[simp] theorem modSounder_port (q : Port) : (h.modSounder f).port q = h.port q := rfl
@[simp] theorem modSounder_attached (q : Port) : (h.modSounder f).attached q = h.attached q := rfl
@[simp] theorem modSounder_isLapsed (q : Port) : (h.modSounder f).isLapsed q = h.isLapsed q := rfl
@[simp] theorem modSounder_takesFrames (q : Port) : (h.modSounder f).takesFrames q = h.takesFrames q := rfl
@[simp] theorem modSounder_chan (k : Fin 23) : (h.modSounder f).chan k = h.chan k := rfl
@[simp] theorem modSounder_winnerPort (k : Fin 23) : (h.modSounder f).winnerPort k = h.winnerPort k := rfl
@[simp] theorem modSounder_relay (q : Fin 12) : (h.modSounder f).relay q = h.relay q := rfl
@[simp] theorem modSounder_deadTimer (q : Fin 4) : (h.modSounder f).deadTimer q = h.deadTimer q := rfl
@[simp] theorem modSounder_lamp (q : Fin 8) : (h.modSounder f).lamp q = h.lamp q := rfl
@[simp] theorem modSounder_stepper (q : Fin 2) : (h.modSounder f).stepper q = h.stepper q := rfl
@[simp] theorem modSounder_slot (q : Fin 8) : (h.modSounder f).slot q = h.slot q := rfl
@[simp] theorem modSounder_setpoint (q : Fin 16) : (h.modSounder f).setpoint q = h.setpoint q := rfl
@[simp] theorem modSounder_portItem (q : Port) : (h.modSounder f).portItem q = h.portItem q := rfl
@[simp] theorem modSounder_namesRelay (i : Fin 4) (j : Fin 12) : (h.modSounder f).namesRelay i j = h.namesRelay i j := rfl
@[simp] theorem modSounder_groupOf (q : Fin 12) : (h.modSounder f).groupOf q = h.groupOf q := rfl
@[simp] theorem modSounder_groupInUse (q : Fin 4) : (h.modSounder f).groupInUse q = h.groupInUse q := rfl
@[simp] theorem modSounder_members (q : Fin 4) : (h.modSounder f).members q = h.members q := rfl
@[simp] theorem modSounder_stepperItem (q : Fin 2) : (h.modSounder f).stepperItem q = h.stepperItem q := rfl
@[simp] theorem modSounder_slotItem (q : Fin 8) : (h.modSounder f).slotItem q = h.slotItem q := rfl
@[simp] theorem modSounder_setpointItem (q : Fin 16) : (h.modSounder f).setpointItem q = h.setpointItem q := rfl
@[simp] theorem modSounder_newLease (q : Port) : (h.modSounder f).newLease q = h.newLease q := rfl

end

/-! ## refreshMute -/

section
variable (h : Hub)

@[simp] theorem refreshMute_ports : (h.refreshMute).ports = h.ports := rfl
@[simp] theorem refreshMute_channels : (h.refreshMute).channels = h.channels := rfl
@[simp] theorem refreshMute_relayCond : (h.refreshMute).relayCond = h.relayCond := rfl
@[simp] theorem refreshMute_relays : (h.refreshMute).relays = h.relays := rfl
@[simp] theorem refreshMute_dead : (h.refreshMute).dead = h.dead := rfl
@[simp] theorem refreshMute_lamps : (h.refreshMute).lamps = h.lamps := rfl
@[simp] theorem refreshMute_flash : (h.refreshMute).flash = h.flash := rfl
@[simp] theorem refreshMute_steppers : (h.refreshMute).steppers = h.steppers := rfl
@[simp] theorem refreshMute_slots : (h.refreshMute).slots = h.slots := rfl
@[simp] theorem refreshMute_setpoints : (h.refreshMute).setpoints = h.setpoints := rfl
@[simp] theorem refreshMute_mode : (h.refreshMute).mode = h.mode := rfl
@[simp] theorem refreshMute_cause : (h.refreshMute).cause = h.cause := rfl
@[simp] theorem refreshMute_faults : (h.refreshMute).faults = h.faults := rfl
@[simp] theorem refreshMute_firstFault : (h.refreshMute).firstFault = h.firstFault := rfl
@[simp] theorem refreshMute_marks : (h.refreshMute).marks = h.marks := rfl
@[simp] theorem refreshMute_storeOp : (h.refreshMute).storeOp = h.storeOp := rfl
@[simp] theorem refreshMute_lastStore : (h.refreshMute).lastStore = h.lastStore := rfl
@[simp] theorem refreshMute_loadElapsed : (h.refreshMute).loadElapsed = h.loadElapsed := rfl
@[simp] theorem refreshMute_work : (h.refreshMute).work = h.work := rfl
@[simp] theorem refreshMute_stored : (h.refreshMute).stored = h.stored := rfl
@[simp] theorem refreshMute_storedGood : (h.refreshMute).storedGood = h.storedGood := rfl
@[simp] theorem refreshMute_resetNLow : (h.refreshMute).resetNLow = h.resetNLow := rfl
@[simp] theorem refreshMute_stepInhibit : (h.refreshMute).stepInhibit = h.stepInhibit := rfl
@[simp] theorem refreshMute_adr0 : (h.refreshMute).adr0 = h.adr0 := rfl
@[simp] theorem refreshMute_adr1 : (h.refreshMute).adr1 = h.adr1 := rfl
@[simp] theorem refreshMute_i2cAddr : (h.refreshMute).i2cAddr = h.i2cAddr := rfl
@[simp] theorem refreshMute_freeCount : (h.refreshMute).freeCount = h.freeCount := rfl
@[simp] theorem refreshMute_port (q : Port) : (h.refreshMute).port q = h.port q := rfl
@[simp] theorem refreshMute_attached (q : Port) : (h.refreshMute).attached q = h.attached q := rfl
@[simp] theorem refreshMute_isLapsed (q : Port) : (h.refreshMute).isLapsed q = h.isLapsed q := rfl
@[simp] theorem refreshMute_takesFrames (q : Port) : (h.refreshMute).takesFrames q = h.takesFrames q := rfl
@[simp] theorem refreshMute_chan (k : Fin 23) : (h.refreshMute).chan k = h.chan k := rfl
@[simp] theorem refreshMute_winnerPort (k : Fin 23) : (h.refreshMute).winnerPort k = h.winnerPort k := rfl
@[simp] theorem refreshMute_relay (q : Fin 12) : (h.refreshMute).relay q = h.relay q := rfl
@[simp] theorem refreshMute_deadTimer (q : Fin 4) : (h.refreshMute).deadTimer q = h.deadTimer q := rfl
@[simp] theorem refreshMute_lamp (q : Fin 8) : (h.refreshMute).lamp q = h.lamp q := rfl
@[simp] theorem refreshMute_stepper (q : Fin 2) : (h.refreshMute).stepper q = h.stepper q := rfl
@[simp] theorem refreshMute_slot (q : Fin 8) : (h.refreshMute).slot q = h.slot q := rfl
@[simp] theorem refreshMute_setpoint (q : Fin 16) : (h.refreshMute).setpoint q = h.setpoint q := rfl
@[simp] theorem refreshMute_portItem (q : Port) : (h.refreshMute).portItem q = h.portItem q := rfl
@[simp] theorem refreshMute_namesRelay (i : Fin 4) (j : Fin 12) : (h.refreshMute).namesRelay i j = h.namesRelay i j := rfl
@[simp] theorem refreshMute_groupOf (q : Fin 12) : (h.refreshMute).groupOf q = h.groupOf q := rfl
@[simp] theorem refreshMute_groupInUse (q : Fin 4) : (h.refreshMute).groupInUse q = h.groupInUse q := rfl
@[simp] theorem refreshMute_members (q : Fin 4) : (h.refreshMute).members q = h.members q := rfl
@[simp] theorem refreshMute_stepperItem (q : Fin 2) : (h.refreshMute).stepperItem q = h.stepperItem q := rfl
@[simp] theorem refreshMute_slotItem (q : Fin 8) : (h.refreshMute).slotItem q = h.slotItem q := rfl
@[simp] theorem refreshMute_setpointItem (q : Fin 16) : (h.refreshMute).setpointItem q = h.setpointItem q := rfl
@[simp] theorem refreshMute_newLease (q : Port) : (h.refreshMute).newLease q = h.newLease q := rfl

end

/-! ## modStepper -/

section
variable (h : Hub) (u : Fin 2) (f : Stepper → Stepper)

@[simp] theorem modStepper_ports : (h.modStepper u f).ports = h.ports := rfl
@[simp] theorem modStepper_channels : (h.modStepper u f).channels = h.channels := rfl
@[simp] theorem modStepper_relayCond : (h.modStepper u f).relayCond = h.relayCond := rfl
@[simp] theorem modStepper_relays : (h.modStepper u f).relays = h.relays := rfl
@[simp] theorem modStepper_dead : (h.modStepper u f).dead = h.dead := rfl
@[simp] theorem modStepper_lamps : (h.modStepper u f).lamps = h.lamps := rfl
@[simp] theorem modStepper_flash : (h.modStepper u f).flash = h.flash := rfl
@[simp] theorem modStepper_slots : (h.modStepper u f).slots = h.slots := rfl
@[simp] theorem modStepper_setpoints : (h.modStepper u f).setpoints = h.setpoints := rfl
@[simp] theorem modStepper_mode : (h.modStepper u f).mode = h.mode := rfl
@[simp] theorem modStepper_cause : (h.modStepper u f).cause = h.cause := rfl
@[simp] theorem modStepper_faults : (h.modStepper u f).faults = h.faults := rfl
@[simp] theorem modStepper_firstFault : (h.modStepper u f).firstFault = h.firstFault := rfl
@[simp] theorem modStepper_marks : (h.modStepper u f).marks = h.marks := rfl
@[simp] theorem modStepper_storeOp : (h.modStepper u f).storeOp = h.storeOp := rfl
@[simp] theorem modStepper_lastStore : (h.modStepper u f).lastStore = h.lastStore := rfl
@[simp] theorem modStepper_loadElapsed : (h.modStepper u f).loadElapsed = h.loadElapsed := rfl
@[simp] theorem modStepper_work : (h.modStepper u f).work = h.work := rfl
@[simp] theorem modStepper_stored : (h.modStepper u f).stored = h.stored := rfl
@[simp] theorem modStepper_storedGood : (h.modStepper u f).storedGood = h.storedGood := rfl
@[simp] theorem modStepper_resetNLow : (h.modStepper u f).resetNLow = h.resetNLow := rfl
@[simp] theorem modStepper_stepInhibit : (h.modStepper u f).stepInhibit = h.stepInhibit := rfl
@[simp] theorem modStepper_adr0 : (h.modStepper u f).adr0 = h.adr0 := rfl
@[simp] theorem modStepper_adr1 : (h.modStepper u f).adr1 = h.adr1 := rfl
@[simp] theorem modStepper_i2cAddr : (h.modStepper u f).i2cAddr = h.i2cAddr := rfl
@[simp] theorem modStepper_freeCount : (h.modStepper u f).freeCount = h.freeCount := rfl
@[simp] theorem modStepper_port (q : Port) : (h.modStepper u f).port q = h.port q := rfl
@[simp] theorem modStepper_attached (q : Port) : (h.modStepper u f).attached q = h.attached q := rfl
@[simp] theorem modStepper_isLapsed (q : Port) : (h.modStepper u f).isLapsed q = h.isLapsed q := rfl
@[simp] theorem modStepper_takesFrames (q : Port) : (h.modStepper u f).takesFrames q = h.takesFrames q := rfl
@[simp] theorem modStepper_chan (k : Fin 23) : (h.modStepper u f).chan k = h.chan k := rfl
@[simp] theorem modStepper_winnerPort (k : Fin 23) : (h.modStepper u f).winnerPort k = h.winnerPort k := rfl
@[simp] theorem modStepper_relay (q : Fin 12) : (h.modStepper u f).relay q = h.relay q := rfl
@[simp] theorem modStepper_deadTimer (q : Fin 4) : (h.modStepper u f).deadTimer q = h.deadTimer q := rfl
@[simp] theorem modStepper_lamp (q : Fin 8) : (h.modStepper u f).lamp q = h.lamp q := rfl
@[simp] theorem modStepper_slot (q : Fin 8) : (h.modStepper u f).slot q = h.slot q := rfl
@[simp] theorem modStepper_setpoint (q : Fin 16) : (h.modStepper u f).setpoint q = h.setpoint q := rfl
@[simp] theorem modStepper_portItem (q : Port) : (h.modStepper u f).portItem q = h.portItem q := rfl
@[simp] theorem modStepper_namesRelay (i : Fin 4) (j : Fin 12) : (h.modStepper u f).namesRelay i j = h.namesRelay i j := rfl
@[simp] theorem modStepper_groupOf (q : Fin 12) : (h.modStepper u f).groupOf q = h.groupOf q := rfl
@[simp] theorem modStepper_groupInUse (q : Fin 4) : (h.modStepper u f).groupInUse q = h.groupInUse q := rfl
@[simp] theorem modStepper_members (q : Fin 4) : (h.modStepper u f).members q = h.members q := rfl
@[simp] theorem modStepper_stepperItem (q : Fin 2) : (h.modStepper u f).stepperItem q = h.stepperItem q := rfl
@[simp] theorem modStepper_slotItem (q : Fin 8) : (h.modStepper u f).slotItem q = h.slotItem q := rfl
@[simp] theorem modStepper_setpointItem (q : Fin 16) : (h.modStepper u f).setpointItem q = h.setpointItem q := rfl
@[simp] theorem modStepper_newLease (q : Port) : (h.modStepper u f).newLease q = h.newLease q := rfl

end

/-! ## setSlot -/

section
variable (h : Hub) (s : Fin 8) (x : Slot)

@[simp] theorem setSlot_ports : (h.setSlot s x).ports = h.ports := rfl
@[simp] theorem setSlot_channels : (h.setSlot s x).channels = h.channels := rfl
@[simp] theorem setSlot_relayCond : (h.setSlot s x).relayCond = h.relayCond := rfl
@[simp] theorem setSlot_relays : (h.setSlot s x).relays = h.relays := rfl
@[simp] theorem setSlot_dead : (h.setSlot s x).dead = h.dead := rfl
@[simp] theorem setSlot_lamps : (h.setSlot s x).lamps = h.lamps := rfl
@[simp] theorem setSlot_flash : (h.setSlot s x).flash = h.flash := rfl
@[simp] theorem setSlot_sounder : (h.setSlot s x).sounder = h.sounder := rfl
@[simp] theorem setSlot_steppers : (h.setSlot s x).steppers = h.steppers := rfl
@[simp] theorem setSlot_setpoints : (h.setSlot s x).setpoints = h.setpoints := rfl
@[simp] theorem setSlot_mode : (h.setSlot s x).mode = h.mode := rfl
@[simp] theorem setSlot_cause : (h.setSlot s x).cause = h.cause := rfl
@[simp] theorem setSlot_faults : (h.setSlot s x).faults = h.faults := rfl
@[simp] theorem setSlot_firstFault : (h.setSlot s x).firstFault = h.firstFault := rfl
@[simp] theorem setSlot_marks : (h.setSlot s x).marks = h.marks := rfl
@[simp] theorem setSlot_storeOp : (h.setSlot s x).storeOp = h.storeOp := rfl
@[simp] theorem setSlot_lastStore : (h.setSlot s x).lastStore = h.lastStore := rfl
@[simp] theorem setSlot_loadElapsed : (h.setSlot s x).loadElapsed = h.loadElapsed := rfl
@[simp] theorem setSlot_work : (h.setSlot s x).work = h.work := rfl
@[simp] theorem setSlot_stored : (h.setSlot s x).stored = h.stored := rfl
@[simp] theorem setSlot_storedGood : (h.setSlot s x).storedGood = h.storedGood := rfl
@[simp] theorem setSlot_resetNLow : (h.setSlot s x).resetNLow = h.resetNLow := rfl
@[simp] theorem setSlot_stepInhibit : (h.setSlot s x).stepInhibit = h.stepInhibit := rfl
@[simp] theorem setSlot_adr0 : (h.setSlot s x).adr0 = h.adr0 := rfl
@[simp] theorem setSlot_adr1 : (h.setSlot s x).adr1 = h.adr1 := rfl
@[simp] theorem setSlot_i2cAddr : (h.setSlot s x).i2cAddr = h.i2cAddr := rfl
@[simp] theorem setSlot_freeCount : (h.setSlot s x).freeCount = h.freeCount := rfl
@[simp] theorem setSlot_port (q : Port) : (h.setSlot s x).port q = h.port q := rfl
@[simp] theorem setSlot_attached (q : Port) : (h.setSlot s x).attached q = h.attached q := rfl
@[simp] theorem setSlot_isLapsed (q : Port) : (h.setSlot s x).isLapsed q = h.isLapsed q := rfl
@[simp] theorem setSlot_takesFrames (q : Port) : (h.setSlot s x).takesFrames q = h.takesFrames q := rfl
@[simp] theorem setSlot_chan (k : Fin 23) : (h.setSlot s x).chan k = h.chan k := rfl
@[simp] theorem setSlot_winnerPort (k : Fin 23) : (h.setSlot s x).winnerPort k = h.winnerPort k := rfl
@[simp] theorem setSlot_relay (q : Fin 12) : (h.setSlot s x).relay q = h.relay q := rfl
@[simp] theorem setSlot_deadTimer (q : Fin 4) : (h.setSlot s x).deadTimer q = h.deadTimer q := rfl
@[simp] theorem setSlot_lamp (q : Fin 8) : (h.setSlot s x).lamp q = h.lamp q := rfl
@[simp] theorem setSlot_stepper (q : Fin 2) : (h.setSlot s x).stepper q = h.stepper q := rfl
@[simp] theorem setSlot_setpoint (q : Fin 16) : (h.setSlot s x).setpoint q = h.setpoint q := rfl
@[simp] theorem setSlot_portItem (q : Port) : (h.setSlot s x).portItem q = h.portItem q := rfl
@[simp] theorem setSlot_namesRelay (i : Fin 4) (j : Fin 12) : (h.setSlot s x).namesRelay i j = h.namesRelay i j := rfl
@[simp] theorem setSlot_groupOf (q : Fin 12) : (h.setSlot s x).groupOf q = h.groupOf q := rfl
@[simp] theorem setSlot_groupInUse (q : Fin 4) : (h.setSlot s x).groupInUse q = h.groupInUse q := rfl
@[simp] theorem setSlot_members (q : Fin 4) : (h.setSlot s x).members q = h.members q := rfl
@[simp] theorem setSlot_stepperItem (q : Fin 2) : (h.setSlot s x).stepperItem q = h.stepperItem q := rfl
@[simp] theorem setSlot_slotItem (q : Fin 8) : (h.setSlot s x).slotItem q = h.slotItem q := rfl
@[simp] theorem setSlot_setpointItem (q : Fin 16) : (h.setSlot s x).setpointItem q = h.setpointItem q := rfl
@[simp] theorem setSlot_newLease (q : Port) : (h.setSlot s x).newLease q = h.newLease q := rfl

end

/-! ## setSetpoint -/

section
variable (h : Hub) (n : Fin 16) (x : Setpoint)

@[simp] theorem setSetpoint_ports : (h.setSetpoint n x).ports = h.ports := rfl
@[simp] theorem setSetpoint_channels : (h.setSetpoint n x).channels = h.channels := rfl
@[simp] theorem setSetpoint_relayCond : (h.setSetpoint n x).relayCond = h.relayCond := rfl
@[simp] theorem setSetpoint_relays : (h.setSetpoint n x).relays = h.relays := rfl
@[simp] theorem setSetpoint_dead : (h.setSetpoint n x).dead = h.dead := rfl
@[simp] theorem setSetpoint_lamps : (h.setSetpoint n x).lamps = h.lamps := rfl
@[simp] theorem setSetpoint_flash : (h.setSetpoint n x).flash = h.flash := rfl
@[simp] theorem setSetpoint_sounder : (h.setSetpoint n x).sounder = h.sounder := rfl
@[simp] theorem setSetpoint_steppers : (h.setSetpoint n x).steppers = h.steppers := rfl
@[simp] theorem setSetpoint_slots : (h.setSetpoint n x).slots = h.slots := rfl
@[simp] theorem setSetpoint_mode : (h.setSetpoint n x).mode = h.mode := rfl
@[simp] theorem setSetpoint_cause : (h.setSetpoint n x).cause = h.cause := rfl
@[simp] theorem setSetpoint_faults : (h.setSetpoint n x).faults = h.faults := rfl
@[simp] theorem setSetpoint_firstFault : (h.setSetpoint n x).firstFault = h.firstFault := rfl
@[simp] theorem setSetpoint_marks : (h.setSetpoint n x).marks = h.marks := rfl
@[simp] theorem setSetpoint_storeOp : (h.setSetpoint n x).storeOp = h.storeOp := rfl
@[simp] theorem setSetpoint_lastStore : (h.setSetpoint n x).lastStore = h.lastStore := rfl
@[simp] theorem setSetpoint_loadElapsed : (h.setSetpoint n x).loadElapsed = h.loadElapsed := rfl
@[simp] theorem setSetpoint_work : (h.setSetpoint n x).work = h.work := rfl
@[simp] theorem setSetpoint_stored : (h.setSetpoint n x).stored = h.stored := rfl
@[simp] theorem setSetpoint_storedGood : (h.setSetpoint n x).storedGood = h.storedGood := rfl
@[simp] theorem setSetpoint_resetNLow : (h.setSetpoint n x).resetNLow = h.resetNLow := rfl
@[simp] theorem setSetpoint_stepInhibit : (h.setSetpoint n x).stepInhibit = h.stepInhibit := rfl
@[simp] theorem setSetpoint_adr0 : (h.setSetpoint n x).adr0 = h.adr0 := rfl
@[simp] theorem setSetpoint_adr1 : (h.setSetpoint n x).adr1 = h.adr1 := rfl
@[simp] theorem setSetpoint_i2cAddr : (h.setSetpoint n x).i2cAddr = h.i2cAddr := rfl
@[simp] theorem setSetpoint_freeCount : (h.setSetpoint n x).freeCount = h.freeCount := rfl
@[simp] theorem setSetpoint_port (q : Port) : (h.setSetpoint n x).port q = h.port q := rfl
@[simp] theorem setSetpoint_attached (q : Port) : (h.setSetpoint n x).attached q = h.attached q := rfl
@[simp] theorem setSetpoint_isLapsed (q : Port) : (h.setSetpoint n x).isLapsed q = h.isLapsed q := rfl
@[simp] theorem setSetpoint_takesFrames (q : Port) : (h.setSetpoint n x).takesFrames q = h.takesFrames q := rfl
@[simp] theorem setSetpoint_chan (k : Fin 23) : (h.setSetpoint n x).chan k = h.chan k := rfl
@[simp] theorem setSetpoint_winnerPort (k : Fin 23) : (h.setSetpoint n x).winnerPort k = h.winnerPort k := rfl
@[simp] theorem setSetpoint_relay (q : Fin 12) : (h.setSetpoint n x).relay q = h.relay q := rfl
@[simp] theorem setSetpoint_deadTimer (q : Fin 4) : (h.setSetpoint n x).deadTimer q = h.deadTimer q := rfl
@[simp] theorem setSetpoint_lamp (q : Fin 8) : (h.setSetpoint n x).lamp q = h.lamp q := rfl
@[simp] theorem setSetpoint_stepper (q : Fin 2) : (h.setSetpoint n x).stepper q = h.stepper q := rfl
@[simp] theorem setSetpoint_slot (q : Fin 8) : (h.setSetpoint n x).slot q = h.slot q := rfl
@[simp] theorem setSetpoint_portItem (q : Port) : (h.setSetpoint n x).portItem q = h.portItem q := rfl
@[simp] theorem setSetpoint_namesRelay (i : Fin 4) (j : Fin 12) : (h.setSetpoint n x).namesRelay i j = h.namesRelay i j := rfl
@[simp] theorem setSetpoint_groupOf (q : Fin 12) : (h.setSetpoint n x).groupOf q = h.groupOf q := rfl
@[simp] theorem setSetpoint_groupInUse (q : Fin 4) : (h.setSetpoint n x).groupInUse q = h.groupInUse q := rfl
@[simp] theorem setSetpoint_members (q : Fin 4) : (h.setSetpoint n x).members q = h.members q := rfl
@[simp] theorem setSetpoint_stepperItem (q : Fin 2) : (h.setSetpoint n x).stepperItem q = h.stepperItem q := rfl
@[simp] theorem setSetpoint_slotItem (q : Fin 8) : (h.setSetpoint n x).slotItem q = h.slotItem q := rfl
@[simp] theorem setSetpoint_setpointItem (q : Fin 16) : (h.setSetpoint n x).setpointItem q = h.setpointItem q := rfl
@[simp] theorem setSetpoint_newLease (q : Port) : (h.setSetpoint n x).newLease q = h.newLease q := rfl

end

/-! ## modWork -/

section
variable (h : Hub) (f : Blocks → Blocks)

@[simp] theorem modWork_ports : (h.modWork f).ports = h.ports := rfl
@[simp] theorem modWork_channels : (h.modWork f).channels = h.channels := rfl
@[simp] theorem modWork_relayCond : (h.modWork f).relayCond = h.relayCond := rfl
@[simp] theorem modWork_relays : (h.modWork f).relays = h.relays := rfl
@[simp] theorem modWork_dead : (h.modWork f).dead = h.dead := rfl
@[simp] theorem modWork_lamps : (h.modWork f).lamps = h.lamps := rfl
@[simp] theorem modWork_flash : (h.modWork f).flash = h.flash := rfl
@[simp] theorem modWork_sounder : (h.modWork f).sounder = h.sounder := rfl
@[simp] theorem modWork_steppers : (h.modWork f).steppers = h.steppers := rfl
@[simp] theorem modWork_slots : (h.modWork f).slots = h.slots := rfl
@[simp] theorem modWork_setpoints : (h.modWork f).setpoints = h.setpoints := rfl
@[simp] theorem modWork_mode : (h.modWork f).mode = h.mode := rfl
@[simp] theorem modWork_cause : (h.modWork f).cause = h.cause := rfl
@[simp] theorem modWork_faults : (h.modWork f).faults = h.faults := rfl
@[simp] theorem modWork_firstFault : (h.modWork f).firstFault = h.firstFault := rfl
@[simp] theorem modWork_marks : (h.modWork f).marks = h.marks := rfl
@[simp] theorem modWork_storeOp : (h.modWork f).storeOp = h.storeOp := rfl
@[simp] theorem modWork_lastStore : (h.modWork f).lastStore = h.lastStore := rfl
@[simp] theorem modWork_loadElapsed : (h.modWork f).loadElapsed = h.loadElapsed := rfl
@[simp] theorem modWork_stored : (h.modWork f).stored = h.stored := rfl
@[simp] theorem modWork_storedGood : (h.modWork f).storedGood = h.storedGood := rfl
@[simp] theorem modWork_resetNLow : (h.modWork f).resetNLow = h.resetNLow := rfl
@[simp] theorem modWork_stepInhibit : (h.modWork f).stepInhibit = h.stepInhibit := rfl
@[simp] theorem modWork_adr0 : (h.modWork f).adr0 = h.adr0 := rfl
@[simp] theorem modWork_adr1 : (h.modWork f).adr1 = h.adr1 := rfl
@[simp] theorem modWork_i2cAddr : (h.modWork f).i2cAddr = h.i2cAddr := rfl
@[simp] theorem modWork_freeCount : (h.modWork f).freeCount = h.freeCount := rfl
@[simp] theorem modWork_port (q : Port) : (h.modWork f).port q = h.port q := rfl
@[simp] theorem modWork_attached (q : Port) : (h.modWork f).attached q = h.attached q := rfl
@[simp] theorem modWork_isLapsed (q : Port) : (h.modWork f).isLapsed q = h.isLapsed q := rfl
@[simp] theorem modWork_takesFrames (q : Port) : (h.modWork f).takesFrames q = h.takesFrames q := rfl
@[simp] theorem modWork_chan (k : Fin 23) : (h.modWork f).chan k = h.chan k := rfl
@[simp] theorem modWork_winnerPort (k : Fin 23) : (h.modWork f).winnerPort k = h.winnerPort k := rfl
@[simp] theorem modWork_relay (q : Fin 12) : (h.modWork f).relay q = h.relay q := rfl
@[simp] theorem modWork_deadTimer (q : Fin 4) : (h.modWork f).deadTimer q = h.deadTimer q := rfl
@[simp] theorem modWork_lamp (q : Fin 8) : (h.modWork f).lamp q = h.lamp q := rfl
@[simp] theorem modWork_stepper (q : Fin 2) : (h.modWork f).stepper q = h.stepper q := rfl
@[simp] theorem modWork_slot (q : Fin 8) : (h.modWork f).slot q = h.slot q := rfl
@[simp] theorem modWork_setpoint (q : Fin 16) : (h.modWork f).setpoint q = h.setpoint q := rfl

end

/-! ## respond -/

section
variable (h : Hub) (p : Port) (y : Result) (b : List Byte)

@[simp] theorem respond_channels : (h.respond p y b).channels = h.channels := rfl
@[simp] theorem respond_relayCond : (h.respond p y b).relayCond = h.relayCond := rfl
@[simp] theorem respond_relays : (h.respond p y b).relays = h.relays := rfl
@[simp] theorem respond_dead : (h.respond p y b).dead = h.dead := rfl
@[simp] theorem respond_lamps : (h.respond p y b).lamps = h.lamps := rfl
@[simp] theorem respond_flash : (h.respond p y b).flash = h.flash := rfl
@[simp] theorem respond_sounder : (h.respond p y b).sounder = h.sounder := rfl
@[simp] theorem respond_steppers : (h.respond p y b).steppers = h.steppers := rfl
@[simp] theorem respond_slots : (h.respond p y b).slots = h.slots := rfl
@[simp] theorem respond_setpoints : (h.respond p y b).setpoints = h.setpoints := rfl
@[simp] theorem respond_mode : (h.respond p y b).mode = h.mode := rfl
@[simp] theorem respond_cause : (h.respond p y b).cause = h.cause := rfl
@[simp] theorem respond_faults : (h.respond p y b).faults = h.faults := rfl
@[simp] theorem respond_firstFault : (h.respond p y b).firstFault = h.firstFault := rfl
@[simp] theorem respond_marks : (h.respond p y b).marks = h.marks := rfl
@[simp] theorem respond_storeOp : (h.respond p y b).storeOp = h.storeOp := rfl
@[simp] theorem respond_lastStore : (h.respond p y b).lastStore = h.lastStore := rfl
@[simp] theorem respond_loadElapsed : (h.respond p y b).loadElapsed = h.loadElapsed := rfl
@[simp] theorem respond_work : (h.respond p y b).work = h.work := rfl
@[simp] theorem respond_stored : (h.respond p y b).stored = h.stored := rfl
@[simp] theorem respond_storedGood : (h.respond p y b).storedGood = h.storedGood := rfl
@[simp] theorem respond_resetNLow : (h.respond p y b).resetNLow = h.resetNLow := rfl
@[simp] theorem respond_stepInhibit : (h.respond p y b).stepInhibit = h.stepInhibit := rfl
@[simp] theorem respond_adr0 : (h.respond p y b).adr0 = h.adr0 := rfl
@[simp] theorem respond_adr1 : (h.respond p y b).adr1 = h.adr1 := rfl
@[simp] theorem respond_i2cAddr : (h.respond p y b).i2cAddr = h.i2cAddr := rfl
@[simp] theorem respond_freeCount : (h.respond p y b).freeCount = h.freeCount := rfl
@[simp] theorem respond_chan (k : Fin 23) : (h.respond p y b).chan k = h.chan k := rfl
@[simp] theorem respond_winnerPort (k : Fin 23) : (h.respond p y b).winnerPort k = h.winnerPort k := rfl
@[simp] theorem respond_relay (q : Fin 12) : (h.respond p y b).relay q = h.relay q := rfl
@[simp] theorem respond_deadTimer (q : Fin 4) : (h.respond p y b).deadTimer q = h.deadTimer q := rfl
@[simp] theorem respond_lamp (q : Fin 8) : (h.respond p y b).lamp q = h.lamp q := rfl
@[simp] theorem respond_stepper (q : Fin 2) : (h.respond p y b).stepper q = h.stepper q := rfl
@[simp] theorem respond_slot (q : Fin 8) : (h.respond p y b).slot q = h.slot q := rfl
@[simp] theorem respond_setpoint (q : Fin 16) : (h.respond p y b).setpoint q = h.setpoint q := rfl
@[simp] theorem respond_portItem (q : Port) : (h.respond p y b).portItem q = h.portItem q := rfl
@[simp] theorem respond_namesRelay (i : Fin 4) (j : Fin 12) : (h.respond p y b).namesRelay i j = h.namesRelay i j := rfl
@[simp] theorem respond_groupOf (q : Fin 12) : (h.respond p y b).groupOf q = h.groupOf q := rfl
@[simp] theorem respond_groupInUse (q : Fin 4) : (h.respond p y b).groupInUse q = h.groupInUse q := rfl
@[simp] theorem respond_members (q : Fin 4) : (h.respond p y b).members q = h.members q := rfl
@[simp] theorem respond_stepperItem (q : Fin 2) : (h.respond p y b).stepperItem q = h.stepperItem q := rfl
@[simp] theorem respond_slotItem (q : Fin 8) : (h.respond p y b).slotItem q = h.slotItem q := rfl
@[simp] theorem respond_setpointItem (q : Fin 16) : (h.respond p y b).setpointItem q = h.setpointItem q := rfl
@[simp] theorem respond_newLease (q : Port) : (h.respond p y b).newLease q = h.newLease q := rfl

end

/-! ## Reads of what was written -/

theorem idx_inj {p q : Port} : p.idx = q.idx ↔ p = q := by cases p <;> cases q <;> simp [Port.idx]

theorem port_modPort (p q : Port) (f : PortUnit → PortUnit) (h : Hub) :
    (h.modPort p f).port q = if p = q then f (h.port p) else h.port q := by
  simp only [port, modPort, Fin.getElem_fin, Vector.getElem_set, ← Fin.ext_iff, idx_inj]

/-- Two updates of one port are one. -/
theorem modPort_modPort (p : Port) (f g : PortUnit → PortUnit) (h : Hub) :
    (h.modPort p f).modPort p g = h.modPort p fun t => g (f t) := by
  simp [modPort, port]

theorem chan_modChan (c k : Fin 23) (f : Channel → Channel) (h : Hub) :
    (h.modChan c f).chan k = if c = k then f (h.chan c) else h.chan k := by
  simp only [chan, modChan, Fin.getElem_fin, Vector.getElem_set, ← Fin.ext_iff]

theorem relay_modRelay (r q : Fin 12) (f : Relay → Relay) (h : Hub) :
    (h.modRelay r f).relay q = if r = q then f (h.relay r) else h.relay q := by
  simp only [relay, modRelay, Fin.getElem_fin, Vector.getElem_set, ← Fin.ext_iff]

theorem deadTimer_setDead (g k : Fin 4) (t : DeadTimer) (h : Hub) :
    (h.setDead g t).deadTimer k = if g = k then t else h.deadTimer k := by
  simp only [deadTimer, setDead, Fin.getElem_fin, Vector.getElem_set, ← Fin.ext_iff]

theorem lamp_setLamp (l k : Fin 8) (o : LampOutput) (h : Hub) :
    (h.setLamp l o).lamp k = if l = k then o else h.lamp k := by
  simp only [lamp, setLamp, Fin.getElem_fin, Vector.getElem_set, ← Fin.ext_iff]

theorem stepper_modStepper (u v : Fin 2) (f : Stepper → Stepper) (h : Hub) :
    (h.modStepper u f).stepper v = if u = v then f (h.stepper u) else h.stepper v := by
  simp only [stepper, modStepper, refreshMute, modSounder, Fin.getElem_fin, Vector.getElem_set, ← Fin.ext_iff]

theorem slot_setSlot (s k : Fin 8) (x : Slot) (h : Hub) : (h.setSlot s x).slot k = if s = k then x else h.slot k := by
  simp only [slot, setSlot, Fin.getElem_fin, Vector.getElem_set, ← Fin.ext_iff]

theorem setpoint_setSetpoint (n k : Fin 16) (x : Setpoint) (h : Hub) :
    (h.setSetpoint n x).setpoint k = if n = k then x else h.setpoint k := by
  simp only [setpoint, setSetpoint, Fin.getElem_fin, Vector.getElem_set, ← Fin.ext_iff]

@[simp] theorem modSounder_sounder (f : Sounder → Sounder) (h : Hub) : (h.modSounder f).sounder = f h.sounder := rfl

@[simp] theorem modWork_work (f : Blocks → Blocks) (h : Hub) : (h.modWork f).work = f h.work := rfl

/-- An update of a port that leaves its tenancy leaves who is ATTACHED. -/
theorem attached_modPort (p q : Port) (f : PortUnit → PortUnit) (h : Hub)
    (same : (f (h.port p)).tenancy = (h.port p).tenancy) : (h.modPort p f).attached q = h.attached q := by
  unfold attached
  rw [port_modPort]
  by_cases e : p = q
  · subst e; rw [if_pos rfl, same]
  · rw [if_neg e]

end Sys2Proof.Machine.Hub
end

