-- ==== Sys2Proof/Laws/Contest.lean ====
section
/-! SUPPORT. The steps of a pass of the contest (R100, R102, R103): what each leaves of the relays and the dead timers. -/

namespace Sys2Proof.Machine.Hub

theorem relay_setRelayState (r q : Fin 12) (x : RelayState) (why : Option LeaveReason) (h : Hub) :
    (h.setRelayState r x why).relay q = if r = q then { h.relay r with state := x, leave := why } else h.relay q := by
  rw [setRelayState, relay_modRelay]

theorem deadTimer_setRelayState (r : Fin 12) (x : RelayState) (why : Option LeaveReason) (h : Hub) (k : Fin 4) :
    (h.setRelayState r x why).deadTimer k = h.deadTimer k := rfl

/-- A switch to OFF opens the relay and starts its MIN_OFF run (R94). -/
theorem relay_switchOff (r q : Fin 12) (into : RelayState) (h : Hub) :
    (h.switchOff r into).relay q =
      if r = q then ⟨into, none, false, minOffRun (Config.tenths h.work.relays[r].minOff)⟩ else h.relay q := by
  unfold switchOff
  dsimp only
  split <;> simp [startDeadTimer, relay_modRelay]

/-- A switch to OFF starts the dead timer of the relay's group (R98). -/
theorem deadTimer_switchOff {r : Fin 12} {g : Fin 4} (into : RelayState) {h : Hub} (mine : h.groupOf r = some g)
    (k : Fin 4) :
    (h.switchOff r into).deadTimer k =
      if g = k then deadRun (Config.hundredths h.work.groups[g].deadTime) (h.deadRunning g) else h.deadTimer k := by
  unfold switchOff
  dsimp only
  rw [mine]
  exact deadTimer_setDead ..

/-- The first step of a pass touches no member but the one it settles (R100). -/
theorem settleMember_others {r q : Fin 12} (other : r ≠ q) (h : Hub) : (h.settleMember r).relay q = h.relay q := by
  unfold settleMember
  repeat' split
  all_goals first
    | rfl
    | rw [relay_setRelayState, if_neg other]
    | rw [relay_switchOff, if_neg other]

/-- Members made HELD_OFF one after another. -/
theorem relay_holdAll (q : Fin 12) : ∀ (held : List (Fin 12)) (h : Hub),
    (held.foldl (fun x r => x.setRelayState r .heldOff none) h).relay q =
      if q ∈ held then { h.relay q with state := .heldOff, leave := none } else h.relay q
  | [], _ => rfl
  | r :: held, h => by
    rw [List.foldl_cons, relay_holdAll q held, relay_setRelayState]
    by_cases e : r = q
    · subst e; simp
    · simp [e, Ne.symm e]

theorem mem_members {g : Fin 4} {r : Fin 12} {h : Hub} : r ∈ h.members g ↔ h.namesRelay g r = true := by
  simp [members]

/-- The fifth step with nobody in WAIT_DEAD (R103). -/
theorem closeChosen_none {g : Fin 4} {h : Hub}
    (nobody : ∀ r, h.namesRelay g r = true → (h.relay r).state ≠ .waitDead) : h.closeChosen g = h := by
  unfold closeChosen
  rw [List.find?_eq_none.mpr fun r m => by simpa using nobody r (mem_members.mp m)]

/-- A pass that switches a member is followed by another (R99). -/
theorem contestPasses_succ (g : Fin 4) (more : Nat) (h : Hub) :
    h.contestPasses g (more + 1) =
      if (h.contestPass g).2 then (h.contestPass g).1.contestPasses g more else (h.contestPass g).1 := rfl

end Sys2Proof.Machine.Hub
end

