-- ==== Sys2Proof/Laws/Reach.lean ====
section
/-! SUPPORT. What the shared operations of the Arbiter and the engines may move: each keeps within `Hub.Reach`. -/

namespace Sys2Proof.Machine.Hub

/-! ## Reach composes -/

theorem rest_iff (h t : Hub) :
    (t = { h with
      ports := t.ports, channels := t.channels, relays := t.relays, dead := t.dead, lamps := t.lamps
      sounder := t.sounder, steppers := t.steppers }) ↔
    (t.relayCond = h.relayCond ∧ t.flash = h.flash ∧ t.slots = h.slots ∧ t.setpoints = h.setpoints ∧ t.mode = h.mode ∧
      t.cause = h.cause ∧ t.faults = h.faults ∧ t.firstFault = h.firstFault ∧ t.marks = h.marks ∧
      t.storeOp = h.storeOp ∧ t.lastStore = h.lastStore ∧ t.loadElapsed = h.loadElapsed ∧ t.work = h.work ∧
      t.stored = h.stored ∧ t.storedGood = h.storedGood ∧ t.resetNLow = h.resetNLow ∧ t.stepInhibit = h.stepInhibit ∧
      t.adr0 = h.adr0 ∧ t.adr1 = h.adr1 ∧ t.i2cAddr = h.i2cAddr ∧ t.freeCount = h.freeCount) := by
  constructor
  · intro e
    refine ⟨?_, ?_, ?_, ?_, ?_, ?_, ?_, ?_, ?_, ?_, ?_, ?_, ?_, ?_, ?_, ?_, ?_, ?_, ?_, ?_, ?_⟩ <;> rw [e]
  · intro e
    cases t; cases h
    simpa using e

theorem port_rest_iff (x y : PortUnit) :
    (y = { x with flags := y.flags, change := y.change, asked := y.asked }) ↔
    (y.tenancy = x.tenancy ∧ y.rx = x.rx ∧ y.resp = x.resp ∧ y.mask = x.mask ∧ y.resetLow = x.resetLow ∧
      y.link = x.link) := by
  cases x; cases y; simp

theorem sounder_rest_iff (x y : Sounder) :
    (y = { x with mute := y.mute }) ↔
    (y.cond = x.cond ∧ y.tone = x.tone ∧ y.level = x.level ∧ y.decay = x.decay ∧ y.queue = x.queue ∧ y.engine = x.engine ∧
      y.decayCut = x.decayCut ∧ y.chimeCut = x.chimeCut) := by
  cases x; cases y; simp

theorem Reach.work {C : Fin 23 → Bool} {h t : Hub} (a : Reach C h t) : t.work = h.work :=
  ((rest_iff h t).mp a.rest).2.2.2.2.2.2.2.2.2.2.2.2.1

theorem Reach.mode {C : Fin 23 → Bool} {h t : Hub} (a : Reach C h t) : t.mode = h.mode :=
  ((rest_iff h t).mp a.rest).2.2.2.2.1

theorem groupOf_of_work {h t : Hub} (e : t.work = h.work) (r : Fin 12) : t.groupOf r = h.groupOf r := by
  simp only [groupOf, namesRelay, e]

theorem reachesRelay_of_work {h t : Hub} (e : t.work = h.work) (C : Fin 23 → Bool) (r : Fin 12) :
    t.reachesRelay C r = h.reachesRelay C r := by
  simp only [reachesRelay, groupOf, namesRelay, e]

theorem reachesGroup_of_work {h t : Hub} (e : t.work = h.work) (C : Fin 23 → Bool) (g : Fin 4) :
    t.reachesGroup C g = h.reachesGroup C g := by
  simp only [reachesGroup, reachesRelay, groupOf, namesRelay, e]

theorem Reach.attached {C : Fin 23 → Bool} {h t : Hub} (a : Reach C h t) (p : Port) : t.attached p = h.attached p := by
  have e := ((port_rest_iff _ _).mp (a.ports p)).1
  simp only [Hub.attached, e]

theorem Reach.refl (C : Fin 23 → Bool) (h : Hub) : Reach C h h :=
  { rest := rfl, ports := fun _ => rfl, unattached := fun _ _ => ⟨rfl, rfl⟩, flagsGain := fun _ _ e => e
    changeGains := fun _ _ e => e, changeFrom := fun _ _ e => .inl e, asked := fun _ _ _ => rfl
    channels := fun _ _ => rfl, relays := fun _ _ => rfl, dead := fun _ _ => rfl, lamps := fun _ _ => rfl
    sounder := fun _ => rfl, steppers := fun _ _ => rfl, mute := fun _ => rfl }

theorem Reach.trans {C : Fin 23 → Bool} {h t v : Hub} (a : Reach C h t) (b : Reach C t v) : Reach C h v where
  rest := by
    rw [rest_iff]
    have x := (rest_iff h t).mp a.rest
    have y := (rest_iff t v).mp b.rest
    simp only [x] at y
    exact y
  ports p := by
    rw [port_rest_iff]
    have x := (port_rest_iff _ _).mp (a.ports p)
    have y := (port_rest_iff _ _).mp (b.ports p)
    simp only [x] at y
    exact y
  unattached p e := by
    have x := a.unattached p e
    have y := b.unattached p (by rw [a.attached]; exact e)
    exact ⟨y.1.trans x.1, y.2.trans x.2⟩
  flagsGain p n e := b.flagsGain p n (a.flagsGain p n e)
  changeGains p n e := b.changeGains p n (a.changeGains p n e)
  changeFrom p c e := by
    rcases b.changeFrom p c e with e | e | e
    · exact a.changeFrom p c e
    · exact .inr (.inl e)
    · simp only [reachesRelay_of_work a.work] at e
      exact .inr (.inr e)
  asked p c e := (b.asked p c e).trans (a.asked p c e)
  channels c e := (b.channels c e).trans (a.channels c e)
  relays r e := (b.relays r (by rw [reachesRelay_of_work a.work]; exact e)).trans (a.relays r e)
  dead g e := (b.dead g (by rw [reachesGroup_of_work a.work]; exact e)).trans (a.dead g e)
  lamps l e := (b.lamps l e).trans (a.lamps l e)
  sounder e := by
    have x := (sounder_rest_iff _ _).mp (a.sounder e)
    have y := (sounder_rest_iff _ _).mp (b.sounder e)
    rw [sounder_rest_iff]
    simp only [x] at y
    exact y
  steppers u e := (b.steppers u e).trans (a.steppers u e)
  mute e := (b.mute e).trans (a.mute e)

/-- A wider set reaches no less. -/
theorem reachesRelay_mono {C D : Fin 23 → Bool} (sub : ∀ c, C c = true → D c = true) {h : Hub} {r : Fin 12}
    (e : h.reachesRelay C r = true) : h.reachesRelay D r = true := by
  simp only [reachesRelay, List.any_eq_true, Bool.and_eq_true] at e ⊢
  obtain ⟨q, m, x, y⟩ := e
  exact ⟨q, m, sub _ x, y⟩

theorem Reach.mono {C D : Fin 23 → Bool} (sub : ∀ c, C c = true → D c = true) {h t : Hub} (a : Reach C h t) :
    Reach D h t := by
  have out : ∀ c, D c = false → C c = false := fun c e => by
    cases x : C c
    · rfl
    · rw [sub c x] at e; exact absurd e (by decide)
  have relayOut : ∀ r, h.reachesRelay D r = false → h.reachesRelay C r = false := fun r e => by
    cases x : h.reachesRelay C r
    · rfl
    · rw [reachesRelay_mono sub x] at e; exact absurd e (by decide)
  have groupOut : ∀ g, h.reachesGroup D g = false → h.reachesGroup C g = false := fun g e => by
    cases x : h.reachesGroup C g
    · rfl
    · simp only [reachesGroup, List.any_eq_true, Bool.and_eq_true] at x
      obtain ⟨r, m, x, y⟩ := x
      have : h.reachesGroup D g = true := by
        simp only [reachesGroup, List.any_eq_true, Bool.and_eq_true]
        exact ⟨r, m, reachesRelay_mono sub x, y⟩
      rw [this] at e; exact absurd e (by decide)
  exact
    { rest := a.rest, ports := a.ports, unattached := a.unattached, flagsGain := a.flagsGain
      changeGains := a.changeGains
      changeFrom := fun p c e => by
        rcases a.changeFrom p c e with e | e | ⟨r, e, f⟩
        · exact .inl e
        · exact .inr (.inl (sub c e))
        · exact .inr (.inr ⟨r, e, reachesRelay_mono sub f⟩)
      asked := fun p c e => a.asked p c (out c e), channels := fun c e => a.channels c (out c e)
      relays := fun r e => a.relays r (relayOut r e), dead := fun g e => a.dead g (groupOut g e)
      lamps := fun l e => a.lamps l (out _ e), sounder := fun e => a.sounder (out _ e)
      steppers := fun u e => a.steppers u (out _ e), mute := fun e => a.mute fun u => out _ (e u) }

end Sys2Proof.Machine.Hub
end

