-- ==== Sys2Proof/Laws/Engines.lean ====
section
/-! SUPPORT. What the flags, the engine units and the forming may move (Hub.Reach). -/

namespace Sys2Proof.Machine.Hub

/-! ## Elementary updates -/

theorem reach_modChan {C : Fin 23 → Bool} {c : Fin 23} (i : C c = true) (f : Channel → Channel) (h : Hub) :
    Reach C h (h.modChan c f) :=
  { Reach.refl C h with
    rest := rfl
    channels := fun k e => by
      rw [chan_modChan]
      split
      · next x => rw [x, e] at i; exact absurd i (by decide)
      · rfl }

theorem reach_modRelay {C : Fin 23 → Bool} {h : Hub} {r : Fin 12} (i : h.reachesRelay C r = true)
    (f : Relay → Relay) : Reach C h (h.modRelay r f) :=
  { Reach.refl C h with
    rest := rfl
    relays := fun k e => by
      rw [relay_modRelay]
      split
      · next x => rw [x, e] at i; exact absurd i (by decide)
      · rfl }

theorem reach_setDead {C : Fin 23 → Bool} {h : Hub} {g : Fin 4} (i : h.reachesGroup C g = true)
    (t : DeadTimer) : Reach C h (h.setDead g t) :=
  { Reach.refl C h with
    rest := rfl
    dead := fun k e => by
      rw [deadTimer_setDead]
      split
      · next x => rw [x, e] at i; exact absurd i (by decide)
      · rfl }

theorem reach_setLamp {C : Fin 23 → Bool} {l : Fin 8} (i : C (lampChannel l) = true) (o : LampOutput) (h : Hub) :
    Reach C h (h.setLamp l o) :=
  { Reach.refl C h with
    rest := rfl
    lamps := fun k e => by
      rw [lamp_setLamp]
      split
      · next x => rw [x, e] at i; exact absurd i (by decide)
      · rfl }

theorem reach_modSounder {C : Fin 23 → Bool} (i : C soundChannel = true) (f : Sounder → Sounder) {h : Hub}
    (m : (f h.sounder).mute = h.sounder.mute) : Reach C h (h.modSounder f) :=
  { Reach.refl C h with
    rest := rfl
    sounder := fun e => by rw [e] at i; exact absurd i (by decide)
    mute := fun _ => m }

theorem reach_modStepper {C : Fin 23 → Bool} {u : Fin 2} (i : C (stepperChannel u) = true) (f : Stepper → Stepper)
    (h : Hub) : Reach C h (h.modStepper u f) :=
  { Reach.refl C h with
    rest := rfl
    sounder := fun _ => rfl
    steppers := fun k e => by
      rw [stepper_modStepper]
      split
      · next x => rw [x, e] at i; exact absurd i (by decide)
      · rfl
    mute := fun e => by rw [e u] at i; exact absurd i (by decide) }

/-- An update of a port's flags and sets that only gains. -/
theorem reach_gain {C : Fin 23 → Bool} {p : Port} {h : Hub} (live : h.attached p = true) (flags : BitVec 14)
    (change : BitVec 23)
    (from_ : ∀ c : Fin 23, change.getLsbD c = true →
      C c = true ∨ ∃ r, c = relayChannel r ∧ h.reachesRelay C r = true) :
    Reach C h (h.modPort p fun t => { t with flags := t.flags ||| flags, change := t.change ||| change }) :=
  { Reach.refl C h with
    rest := rfl
    ports := fun q => by
      rw [port_modPort]
      split
      · next x => subst x; rfl
      · rfl
    unattached := fun q e => by
      rw [port_modPort]
      split
      · next x => subst x; rw [live] at e; exact absurd e (by decide)
      · exact ⟨rfl, rfl⟩
    flagsGain := fun q n e => by
      rw [port_modPort]
      split
      · next x => subst x; simp [e]
      · exact e
    changeGains := fun q n e => by
      rw [port_modPort]
      split
      · next x => subst x; simp [e]
      · exact e
    changeFrom := fun q c e => by
      rw [port_modPort] at e
      split at e
      · next x =>
        subst x
        simp only [BitVec.getLsbD_or, Bool.or_eq_true] at e
        rcases e with e | e
        · exact .inl e
        · exact .inr (from_ c e)
      · exact .inl e
    asked := fun q c _ => by
      rw [port_modPort]
      split
      · next x => subst x; rfl
      · rfl }

theorem reach_giveFlag (C : Fin 23 → Bool) (p : Port) (f : Flag) (h : Hub) : Reach C h (h.giveFlag p f) := by
  unfold giveFlag
  split
  · next e =>
    have x := reach_gain (C := C) e f.word 0 (fun c y => by simp at y)
    simpa using x
  · exact Reach.refl C h

theorem channelBit_of {c k : Fin 23} (e : (channelBit c).getLsbD k.val = true) : k = c := by
  simp only [channelBit, BitVec.getLsbD_twoPow, Bool.and_eq_true, decide_eq_true_eq] at e
  exact Fin.ext e.2.symm

theorem reach_giveFlagOn {C : Fin 23 → Bool} {h : Hub} {c : Fin 23} (p : Port) (f : Flag)
    (i : C c = true ∨ ∃ r, c = relayChannel r ∧ h.reachesRelay C r = true) : Reach C h (h.giveFlagOn p f c) := by
  unfold giveFlagOn
  split
  · next e => exact reach_gain e f.word (channelBit c) fun k y => by rw [channelBit_of y]; exact i
  · exact Reach.refl C h

theorem reach_dropAsked {C : Fin 23 → Bool} {c : Fin 23} (i : C c = true) (p : Port) (h : Hub) :
    Reach C h (h.dropAsked p c) :=
  { Reach.refl C h with
    rest := rfl
    ports := fun q => by
      unfold dropAsked; rw [port_modPort]
      split
      · next x => subst x; rfl
      · rfl
    unattached := fun q _ => by
      unfold dropAsked; rw [port_modPort]
      split
      · next x => subst x; exact ⟨rfl, rfl⟩
      · exact ⟨rfl, rfl⟩
    flagsGain := fun q n e => by
      unfold dropAsked; rw [port_modPort]
      split
      · next x => subst x; exact e
      · exact e
    changeGains := fun q n e => by
      unfold dropAsked; rw [port_modPort]
      split
      · next x => subst x; exact e
      · exact e
    changeFrom := fun q k e => by
      unfold dropAsked at e; rw [port_modPort] at e
      split at e
      · next x => subst x; exact .inl e
      · exact .inl e
    asked := fun q k e => by
      unfold dropAsked; rw [port_modPort]
      split
      · next x =>
        subst x
        have ne : (channelBit c).getLsbD k.val = false := by
          cases y : (channelBit c).getLsbD k.val
          · rfl
          · rw [channelBit_of y, i] at e; exact absurd e (by decide)
        simp only [BitVec.getLsbD_and, BitVec.getLsbD_not, ne, k.isLt, decide_true, Bool.not_false, Bool.and_true]
      · rfl }

/-! ## Drives: what an engine does moves no channel record -/

/-- Within reach, and every channel record stays. -/
structure Drive (C : Fin 23 → Bool) (h t : Hub) : Prop extends Reach C h t where
  same : t.channels = h.channels

theorem Drive.refl (C : Fin 23 → Bool) (h : Hub) : Drive C h h := ⟨Reach.refl C h, rfl⟩

theorem Drive.trans {C : Fin 23 → Bool} {h t v : Hub} (a : Drive C h t) (b : Drive C t v) : Drive C h v :=
  ⟨a.toReach.trans b.toReach, b.same.trans a.same⟩

theorem Drive.work {C : Fin 23 → Bool} {h t : Hub} (a : Drive C h t) : t.work = h.work := a.toReach.work

theorem drive_modRelay {C : Fin 23 → Bool} {h : Hub} {r : Fin 12} (i : h.reachesRelay C r = true)
    (f : Relay → Relay) : Drive C h (h.modRelay r f) := ⟨reach_modRelay i f, rfl⟩

theorem drive_setDead {C : Fin 23 → Bool} {h : Hub} {g : Fin 4} (i : h.reachesGroup C g = true)
    (t : DeadTimer) : Drive C h (h.setDead g t) := ⟨reach_setDead i t, rfl⟩

theorem drive_setLamp {C : Fin 23 → Bool} {l : Fin 8} (i : C (lampChannel l) = true) (o : LampOutput) (h : Hub) :
    Drive C h (h.setLamp l o) := ⟨reach_setLamp i o h, rfl⟩

theorem drive_modSounder {C : Fin 23 → Bool} (i : C soundChannel = true) (f : Sounder → Sounder) {h : Hub}
    (m : (f h.sounder).mute = h.sounder.mute) : Drive C h (h.modSounder f) := ⟨reach_modSounder i f m, rfl⟩

theorem drive_modStepper {C : Fin 23 → Bool} {u : Fin 2} (i : C (stepperChannel u) = true) (f : Stepper → Stepper)
    (h : Hub) : Drive C h (h.modStepper u f) := ⟨reach_modStepper i f h, rfl⟩

theorem drive_giveFlag (C : Fin 23 → Bool) (p : Port) (f : Flag) (h : Hub) : Drive C h (h.giveFlag p f) :=
  ⟨reach_giveFlag C p f h, by unfold giveFlag; split <;> rfl⟩

theorem drive_giveFlagOn {C : Fin 23 → Bool} {h : Hub} {c : Fin 23} (p : Port) (f : Flag)
    (i : C c = true ∨ ∃ r, c = relayChannel r ∧ h.reachesRelay C r = true) : Drive C h (h.giveFlagOn p f c) :=
  ⟨reach_giveFlagOn p f i, by unfold giveFlagOn; split <;> rfl⟩

theorem drive_giveChimesDone (C : Fin 23 → Bool) (xs : List Chime) (h : Hub) : Drive C h (h.giveChimesDone xs) := by
  unfold giveChimesDone
  induction xs generalizing h with
  | nil => exact Drive.refl C h
  | cons x xs more => exact (drive_giveFlag C x.port .chimeDone h).trans (more _)

/-! ## The Relay unit -/

theorem drive_setRelayState {C : Fin 23 → Bool} {h : Hub} {r : Fin 12} (i : h.reachesRelay C r = true) (x : RelayState)
    (why : Option LeaveReason) : Drive C h (h.setRelayState r x why) := drive_modRelay i _

theorem drive_switchOn {C : Fin 23 → Bool} {h : Hub} {r : Fin 12} (i : h.reachesRelay C r = true) :
    Drive C h (h.switchOn r) := drive_modRelay i _

theorem reachesGroup_of_groupOf {C : Fin 23 → Bool} {h : Hub} {r : Fin 12} {g : Fin 4} (i : h.reachesRelay C r = true)
    (e : h.groupOf r = some g) : h.reachesGroup C g = true := by
  simp only [reachesGroup, List.any_eq_true, Bool.and_eq_true, beq_iff_eq]
  exact ⟨r, List.mem_finRange r, i, e⟩

theorem drive_switchOff {C : Fin 23 → Bool} {h : Hub} {r : Fin 12} (i : h.reachesRelay C r = true) (x : RelayState) :
    Drive C h (h.switchOff r x) := by
  unfold switchOff
  dsimp only
  split
  · next g e =>
    exact (drive_modRelay i _).trans (drive_setDead (reachesGroup_of_groupOf (h := h.modRelay r _) i e) _)
  · exact drive_modRelay i _

theorem drive_follow {C : Fin 23 → Bool} {h : Hub} {r : Fin 12} (i : h.reachesRelay C r = true) :
    Drive C h (h.follow r) := by
  unfold follow followOn followOff
  repeat' split
  all_goals first
    | exact Drive.refl C h
    | exact drive_setRelayState i _ _
    | exact drive_switchOn i
    | exact drive_switchOff i _

theorem drive_settleMember {C : Fin 23 → Bool} {h : Hub} {r : Fin 12} (i : h.reachesRelay C r = true) :
    Drive C h (h.settleMember r) := by
  unfold settleMember
  repeat' split
  all_goals first
    | exact Drive.refl C h
    | exact drive_setRelayState i _ _
    | exact drive_switchOff i _

/-- A fold over members that are reached keeps within reach. -/
theorem drive_foldl {α : Type} {C : Fin 23 → Bool} (f : Hub → α → Hub) (ok : Hub → α → Prop)
    (keep : ∀ {h t : Hub} {a : α}, t.work = h.work → ok h a → ok t a) (one : ∀ h a, ok h a → Drive C h (f h a)) :
    ∀ (xs : List α) (h : Hub), (∀ a ∈ xs, ok h a) → Drive C h (xs.foldl f h)
  | [], h, _ => Drive.refl C h
  | a :: xs, h, all =>
    have x := one h a (all a (List.mem_cons_self ..))
    x.trans (drive_foldl f ok keep one xs (f h a) fun b m => keep x.work (all b (List.mem_cons_of_mem _ m)))

theorem drive_forceOut {C : Fin 23 → Bool} {h : Hub} {r : Fin 12} (i : h.reachesRelay C r = true) :
    Drive C h (h.forceOut r) := by
  unfold forceOut
  repeat' split
  all_goals first
    | exact drive_setRelayState i _ _
    | exact drive_switchOff i _

/-- Every member of the group is reached. -/
def GroupReached (C : Fin 23 → Bool) (g : Fin 4) (h : Hub) : Prop := ∀ r ∈ h.members g, h.reachesRelay C r = true

theorem members_of_work {h t : Hub} (e : t.work = h.work) (g : Fin 4) : t.members g = h.members g := by
  unfold members
  congr 1
  funext r
  simp only [namesRelay, e]

theorem GroupReached.of_work {C : Fin 23 → Bool} {g : Fin 4} {h t : Hub} (e : t.work = h.work)
    (a : GroupReached C g h) : GroupReached C g t := fun r m => by
  rw [reachesRelay_of_work e]
  rw [members_of_work e] at m
  exact a r m

theorem drive_settleMembers {C : Fin 23 → Bool} {g : Fin 4} {h : Hub} (a : GroupReached C g h) :
    Drive C h ((h.members g).foldl settleMember h) :=
  drive_foldl settleMember (fun t r => t.reachesRelay C r = true)
    (fun e x => by rw [reachesRelay_of_work e]; exact x) (fun _ _ x => drive_settleMember x) _ h a

theorem incumbent_mem {g : Fin 4} {h : Hub} {r : Fin 12} (e : h.incumbent g = some r) : r ∈ h.members g := by
  unfold incumbent at e
  split at e
  · next q x => cases e; exact List.mem_of_find?_eq_some x
  · exact List.mem_of_find?_eq_some e

theorem drive_preemption {C : Fin 23 → Bool} {g : Fin 4} {h : Hub} (a : GroupReached C g h) :
    Drive C h (h.preemption g).1 := by
  unfold preemption
  repeat' split
  · next i e _ => exact drive_forceOut (a i (incumbent_mem e))
  · exact Drive.refl C h
  · exact Drive.refl C h

theorem stronger_mem {h : Hub} {best : Option (Fin 12)} {r q : Fin 12} (e : h.stronger best r = some q) :
    q = r ∨ best = some q := by
  unfold stronger at e
  split at e
  · cases e; exact .inl rfl
  · split at e
    · cases e; exact .inl rfl
    · cases e; exact .inr rfl

theorem strongest_mem (h : Hub) : ∀ (xs : List (Fin 12)) (best : Option (Fin 12)) (q : Fin 12),
    xs.foldl h.stronger best = some q → q ∈ xs ∨ best = some q
  | [], _, _, e => .inr e
  | r :: xs, best, q, e => by
    rcases strongest_mem h xs (h.stronger best r) q e with x | x
    · exact .inl (List.mem_cons_of_mem _ x)
    · rcases stronger_mem x with y | y
      · exact .inl (y ▸ List.mem_cons_self ..)
      · exact .inr y

theorem choose_mem {g : Fin 4} {h : Hub} {q : Fin 12} (e : h.choose g = some q) :
    q ∈ h.members g ∧ h.eligible q = true := by
  rcases strongest_mem h _ none q e with x | x
  · exact List.mem_filter.mp x
  · exact absurd x (by simp)

theorem drive_chooseAndHold {C : Fin 23 → Bool} {g : Fin 4} {h : Hub} (a : GroupReached C g h)
    (remains : Option (Fin 12)) : Drive C h (h.chooseAndHold g remains) := by
  have hold : ∀ (t : Hub) (keeps : Option (Fin 12)), t.work = h.work → Drive C h t →
      Drive C h (((h.members g).filter fun r => t.eligible r && keeps != some r).foldl
        (fun x r => x.setRelayState r .heldOff none) t) := fun t keeps e x =>
    x.trans (drive_foldl _ (fun t r => t.reachesRelay C r = true)
      (fun e x => by rw [reachesRelay_of_work e]; exact x) (fun _ _ x => drive_setRelayState x _ _) _ t
      fun r m => by
        rw [reachesRelay_of_work e]
        exact a r (List.mem_filter.mp m).1)
  unfold chooseAndHold
  cases remains with
  | some i => exact hold h (some i) rfl (Drive.refl C h)
  | none =>
    cases e : h.choose g with
    | none => exact hold h none rfl (Drive.refl C h)
    | some r => exact hold _ (some r) rfl (drive_setRelayState (a r (choose_mem e).1) _ _)

theorem drive_closeChosen {C : Fin 23 → Bool} {g : Fin 4} {h : Hub} (a : GroupReached C g h) :
    Drive C h (h.closeChosen g) := by
  unfold closeChosen
  repeat' split
  · next r e _ => exact drive_switchOn (a r (List.mem_of_find?_eq_some e))
  · exact Drive.refl C h
  · exact Drive.refl C h

theorem drive_contestPass {C : Fin 23 → Bool} {g : Fin 4} {h : Hub} (a : GroupReached C g h) :
    Drive C h (h.contestPass g).1 := by
  have x := drive_settleMembers a
  have y := drive_preemption (a.of_work x.work)
  have xy := x.trans y
  have z := drive_chooseAndHold (a.of_work xy.work) (preemption g ((h.members g).foldl settleMember h)).2
  have xyz := xy.trans z
  exact xyz.trans (drive_closeChosen (a.of_work xyz.work))

theorem drive_contestPasses {C : Fin 23 → Bool} {g : Fin 4} :
    ∀ (fuel : Nat) {h : Hub}, GroupReached C g h → Drive C h (h.contestPasses g fuel)
  | 0, h, _ => Drive.refl C h
  | n + 1, h, a => by
    have x := drive_contestPass a
    unfold contestPasses
    simp only
    split
    · exact x.trans (drive_contestPasses n (a.of_work x.work))
    · exact x

theorem drive_interlockNotice {C : Fin 23 → Bool} (before : Hub) {h : Hub} {r : Fin 12}
    (i : h.reachesRelay C r = true) : Drive C h (interlockNotice before h r) := by
  unfold interlockNotice
  repeat' split
  · exact drive_giveFlagOn _ _ (.inr ⟨r, rfl, i⟩)
  · exact Drive.refl C h
  · exact Drive.refl C h

theorem drive_contest {C : Fin 23 → Bool} {g : Fin 4} {h : Hub} (a : GroupReached C g h) (before : Hub) :
    Drive C h (contest g h before) := by
  have x := drive_contestPasses (C := C) 32 a
  refine x.trans ?_
  exact drive_foldl (interlockNotice before) (fun t r => t.reachesRelay C r = true)
    (fun e x => by rw [reachesRelay_of_work e]; exact x) (fun _ _ x => drive_interlockNotice before x) _ _
    fun r m => by rw [reachesRelay_of_work x.work]; exact a r m

theorem groupReached_of {C : Fin 23 → Bool} {h : Hub} {r : Fin 12} {g : Fin 4} (i : C (relayChannel r) = true)
    (e : h.groupOf r = some g) : GroupReached C g h := fun q m => by
  simp only [reachesRelay, List.any_eq_true, Bool.and_eq_true, Bool.or_eq_true, beq_iff_eq]
  exact ⟨r, List.mem_finRange r, i, .inr (by rw [e]; exact (List.mem_filter.mp m).2)⟩

theorem reachesRelay_own {C : Fin 23 → Bool} {h : Hub} {r : Fin 12} (i : C (relayChannel r) = true) :
    h.reachesRelay C r = true := by
  simp only [reachesRelay, List.any_eq_true, Bool.and_eq_true, Bool.or_eq_true, beq_iff_eq]
  exact ⟨r, List.mem_finRange r, i, .inl rfl⟩

theorem drive_relayTakes {C : Fin 23 → Bool} {r : Fin 12} (i : C (relayChannel r) = true) (cc : Bool) (h before : Hub) :
    Drive C h (relayTakes r cc h before) := by
  unfold relayTakes
  repeat' split
  · exact Drive.refl C h
  · next e => exact drive_contest (groupReached_of i e) before
  · exact drive_follow (reachesRelay_own i)
  · exact Drive.refl C h

/-! ## The Sounder unit -/

theorem drive_startTone {C : Fin 23 → Bool} (i : C soundChannel = true) (h : Hub) : Drive C h h.startTone := by
  unfold startTone
  split <;> first
    | exact Drive.refl C h
    | exact drive_modSounder i _ rfl

theorem drive_silenceTone {C : Fin 23 → Bool} (i : C soundChannel = true) (h : Hub) : Drive C h h.silenceTone :=
  drive_modSounder i _ rfl

theorem drive_emptyChimes {C : Fin 23 → Bool} (i : C soundChannel = true) (h : Hub) : Drive C h h.emptyChimes :=
  (drive_giveChimesDone C _ h).trans (drive_modSounder i _ rfl)

theorem drive_sounderTakes {C : Fin 23 → Bool} (i : C soundChannel = true) (cc : Bool) (h : Hub) :
    Drive C h (h.sounderTakes cc) := by
  unfold sounderTakes
  repeat' split
  · exact Drive.refl C h
  · exact drive_startTone i h
  · exact (drive_emptyChimes i h).trans (drive_startTone i _)
  · exact drive_silenceTone i h
  · exact Drive.refl C h

theorem drive_sounderRenewed {C : Fin 23 → Bool} (i : C soundChannel = true) (h : Hub) :
    Drive C h h.sounderRenewed := by
  unfold sounderRenewed
  split
  · exact Drive.refl C h
  · exact drive_startTone i h

/-! ## The Stepper units -/

theorem drive_giveArrived {C : Fin 23 → Bool} {u : Fin 2} (i : C (stepperChannel u) = true) (h : Hub) :
    Drive C h (h.giveArrived u) := by
  unfold giveArrived
  split
  · exact drive_giveFlagOn _ _ (.inl i)
  · exact Drive.refl C h

theorem drive_decision {C : Fin 23 → Bool} {u : Fin 2} (i : C (stepperChannel u) = true) (h : Hub) :
    Drive C h (h.decision u) := by
  unfold decision
  dsimp only
  repeat' split
  all_goals first
    | exact Drive.refl C h
    | exact (drive_modStepper i _ h).trans (drive_giveArrived i _)
    | exact drive_modStepper i _ h

theorem drive_startRunStep {C : Fin 23 → Bool} {u : Fin 2} (i : C (stepperChannel u) = true) (h : Hub) :
    Drive C h (h.startRunStep u) := by
  unfold startRunStep
  split <;> exact drive_modStepper i _ h

theorem drive_startRun {C : Fin 23 → Bool} {u : Fin 2} (i : C (stepperChannel u) = true) (h : Hub) :
    Drive C h (h.startRun u) := by
  unfold startRun
  simp only
  split
  · exact (drive_modStepper i _ h).trans (drive_modStepper i _ _)
  · exact (drive_modStepper i _ h).trans (drive_startRunStep i _)

theorem drive_goOn {C : Fin 23 → Bool} {u : Fin 2} (i : C (stepperChannel u) = true) (h : Hub) :
    Drive C h (h.goOn u) := by
  unfold goOn
  split
  · exact drive_startRunStep i h
  split
  · exact drive_startRun i h
  · exact drive_decision i h

theorem drive_stepperTakes {C : Fin 23 → Bool} {u : Fin 2} (i : C (stepperChannel u) = true) (cc : Bool) (h : Hub) :
    Drive C h (h.stepperTakes u cc) := by
  unfold stepperTakes
  repeat' split
  all_goals first
    | exact Drive.refl C h
    | exact drive_decision i h

theorem drive_comeToRest {C : Fin 23 → Bool} {u : Fin 2} (i : C (stepperChannel u) = true) (h : Hub) :
    Drive C h (h.comeToRest u) := drive_modStepper i _ h

theorem drive_stepCompletes {C : Fin 23 → Bool} {u : Fin 2} (i : C (stepperChannel u) = true) (h : Hub) :
    Drive C h (h.stepCompletes u) := by
  have drained : ∀ t, Drive C t (t.drainStep u) := fun t => by
    unfold drainStep
    simp only
    split
    · exact (drive_comeToRest i t).trans (drive_giveArrived i _)
    · exact drive_comeToRest i t
  unfold stepCompletes
  dsimp only
  split
  · split
    · split
      · exact (drive_modStepper i _ h).trans (drive_startRun i _)
      · exact (drive_modStepper i _ h).trans (drive_decision i _)
    · exact (drive_modStepper i _ h).trans (drained _)
    · exact (drive_modStepper i _ h).trans (drained _)
  all_goals exact Drive.refl C h

theorem drive_referencingStepCompletes {C : Fin 23 → Bool} {u : Fin 2} (i : C (stepperChannel u) = true) (h : Hub) :
    Drive C h (h.referencingStepCompletes u) := by
  unfold referencingStepCompletes
  dsimp only
  split
  · split
    · split
      · exact (drive_modStepper i _ h).trans ((drive_modStepper i _ _).trans (drive_decision i _))
      · exact (drive_modStepper i _ h).trans (drive_startRunStep i _)
    · exact (drive_modStepper i _ h).trans ((drive_modStepper i _ _).trans (drive_comeToRest i _))
    · exact (drive_modStepper i _ h).trans ((drive_modStepper i _ _).trans (drive_comeToRest i _))
  all_goals exact Drive.refl C h

theorem drive_pauseEnds {C : Fin 23 → Bool} {u : Fin 2} (i : C (stepperChannel u) = true) (h : Hub) :
    Drive C h (h.pauseEnds u) := by
  unfold pauseEnds
  split
  · exact (drive_modStepper i _ h).trans (drive_goOn i _)
  all_goals exact Drive.refl C h

/-! ## The forming -/

theorem outputOf_cases (c : Fin 23) :
    (∃ r, outputOf c = .relay r ∧ c = relayChannel r) ∨ (∃ l, outputOf c = .lamp l ∧ c = lampChannel l) ∨
      (outputOf c = .sounder ∧ c = soundChannel) ∨ ∃ u, outputOf c = .stepper u ∧ c = stepperChannel u := by
  revert c; decide

theorem reach_handOverAs {C : Fin 23 → Bool} {c : Fin 23} (i : C c = true) (cc : Bool) (pair : Pair) (h : Hub) :
    Reach C h (h.handOverAs c cc pair) := by
  unfold handOverAs
  refine (reach_modChan i (fun x => { x with taken := some pair }) h).trans ?_
  rcases outputOf_cases c with ⟨r, e, k⟩ | ⟨l, e, k⟩ | ⟨e, k⟩ | ⟨u, e, k⟩ <;> rw [e] <;> subst k <;> simp only
  · exact (drive_relayTakes i cc _ h).toReach
  · split
    · exact reach_setLamp i _ _
    · exact Reach.refl C _
  · exact (drive_sounderTakes i cc _).toReach
  · exact (drive_stepperTakes i cc _).toReach

theorem reach_passOn {C : Fin 23 → Bool} {c : Fin 23} (i : C c = true) (pair : Pair) (h : Hub) :
    Reach C h (h.passOn c pair) := by
  unfold passOn
  repeat' split
  all_goals first
    | exact Reach.refl C h
    | exact reach_handOverAs i _ _ h
    | exact reach_modChan i _ h

theorem reach_winnerNotices {C : Fin 23 → Bool} {c : Fin 23} (i : C c = true) (h : Hub) :
    Reach C h (h.winnerNotices c) := by
  unfold winnerNotices
  repeat' split
  all_goals first
    | exact Reach.refl C h
    | exact reach_giveFlagOn _ _ (.inl i)
    | exact (reach_giveFlagOn _ _ (.inl i)).trans (reach_giveFlagOn _ _ (.inl i))

/-- A forming of a channel moves nothing but what a hand-over to that channel may move. -/
theorem reach_form {C : Fin 23 → Bool} {c : Fin 23} (i : C c = true) (cause : FormCause) (h : Hub) :
    Reach C h (h.form c cause) := by
  unfold form
  exact ((reach_winnerNotices i h).trans (reach_modChan i _ _)).trans (reach_passOn i _ _)

theorem reach_passInput {C : Fin 23 → Bool} {c : Fin 23} (i : C c = true) (x : LocalInput) (cause : FormCause) (h : Hub) :
    Reach C h (h.passInput c x cause) := (reach_modChan i _ h).trans (reach_form i cause _)

theorem reach_formLayer {C : Fin 23 → Bool} {c : Fin 23} (i : C c = true) (h : Hub) : Reach C h (h.formLayer c) := by
  unfold formLayer
  simp only
  split
  · exact Reach.refl C h
  · exact reach_passInput i _ _ h

/-! ## The Handover unit -/

theorem reach_resolve {C : Fin 23 → Bool} {c : Fin 23} (i : C c = true) (o : HandoverOutcome) (q d : Port) (h : Hub) :
    Reach C h (h.resolve c o q d) :=
  ((reach_modChan i _ h).trans (reach_dropAsked i d _)).trans (reach_giveFlagOn q _ (.inl i))

theorem reach_resolveByDefault {C : Fin 23 → Bool} {c : Fin 23} (i : C c = true) (q d : Port) (h : Hub) :
    Reach C h (h.resolveByDefault c q d) := by
  unfold resolveByDefault
  simp only
  split
  · exact ((reach_modChan i _ h).trans (reach_form i _ _)).trans (reach_resolve i _ q d _)
  · exact reach_resolve i _ q d h

theorem reach_settleByDefault {C : Fin 23 → Bool} {c : Fin 23} (i : C c = true) (q d : Port) (h : Hub) :
    Reach C h (h.settleByDefault c q d) := by
  unfold settleByDefault
  simp only
  split
  · exact (reach_modChan i _ h).trans (reach_resolve i _ q d _)
  · exact reach_resolve i _ q d h

theorem reach_settleEdit {C : Fin 23 → Bool} {c : Fin 23} (i : C c = true) (p : Port) (k : EditKind) (h : Hub) :
    Reach C h (h.settleEdit c p k) := by
  unfold settleEdit
  repeat' split
  all_goals first
    | exact Reach.refl C h
    | exact reach_resolve i _ _ _ h
    | exact reach_settleByDefault i _ _ h

/-- An edit of a channel's list with its report and its forming moves nothing but what a hand-over to that channel may
move. -/
theorem reach_editClaims {C : Fin 23 → Bool} {c : Fin 23} (i : C c = true) (p : Port) (k : EditKind)
    (edit : List Claim → List Claim) (h : Hub) : Reach C h (h.editClaims c p k edit) :=
  ((reach_modChan i _ h).trans (reach_settleEdit i p k _)).trans (reach_form i _ _)

/-- The removals of a lapse, a detach or a RELEASE_ALL keep within the channels the port holds claims on. -/
theorem reach_editsAt {C : Fin 23 → Bool} (f : Hub → Fin 23 → Hub) (one : ∀ h c, C c = true → Reach C h (f h c)) :
    ∀ (xs : List (Fin 23)) (h : Hub), (∀ c ∈ xs, C c = true) → Reach C h (xs.foldl f h)
  | [], h, _ => Reach.refl C h
  | c :: xs, h, all =>
    (one h c (all c (List.mem_cons_self ..))).trans
      (reach_editsAt f one xs (f h c) fun b m => all b (List.mem_cons_of_mem _ m))

theorem reach_removeClaims (p : Port) (h : Hub) : Reach (h.heldBy p) h (h.removeClaims p) :=
  reach_editsAt _ (fun _ _ i => reach_editClaims i _ _ _ _) _ h fun _ m => (List.mem_filter.mp m).2

theorem reach_lapseClaims (p : Port) (h : Hub) : Reach (h.heldBy p) h (h.lapseClaims p) :=
  reach_editsAt _
    (fun t c i => by
      unfold lapseClaim
      repeat' split
      · exact Reach.refl _ t
      · exact reach_editClaims i _ _ _ _
      · exact reach_editClaims i _ _ _ _)
    _ h fun _ m => (List.mem_filter.mp m).2

end Sys2Proof.Machine.Hub
end

