-- ==== Sys2Proof/Laws/Forming.lean ====
section
/-! SUPPORT. The channel record a hand-over and a forming leave, what an edit of a claim list leaves, and how
a handover is settled. -/

namespace Sys2Proof.Machine.Hub

theorem chan_of_channels {h t : Hub} (e : t.channels = h.channels) (k : Fin 23) : t.chan k = h.chan k := by
  simp only [chan, e]

/-- A hand-over writes the taken command of its channel and no other part of any channel record. -/
theorem handOverAs_channels (c : Fin 23) (cc : Bool) (pair : Pair) (h : Hub) :
    (h.handOverAs c cc pair).channels = (h.modChan c fun x => { x with taken := some pair }).channels := by
  unfold handOverAs
  dsimp only
  rcases outputOf_cases c with ⟨r, e, k⟩ | ⟨l, e, k⟩ | ⟨e, k⟩ | ⟨u, e, k⟩ <;> rw [e] <;> subst k <;> dsimp only
  · exact (drive_relayTakes (C := fun _ => true) rfl cc _ h).same
  · split <;> rfl
  · exact (drive_sounderTakes (C := fun _ => true) rfl cc _).same
  · exact (drive_stepperTakes (C := fun _ => true) rfl cc _).same

theorem winnerNotices_channels (c : Fin 23) (h : Hub) : (h.winnerNotices c).channels = h.channels := by
  unfold winnerNotices giveFlagOn
  repeat' split
  all_goals rfl

theorem winnerNotices_mode (c : Fin 23) (h : Hub) : (h.winnerNotices c).mode = h.mode :=
  (reach_winnerNotices (C := fun _ => true) rfl h).mode

/-- The channel record after a forming (R40, R13, R14). -/
def formedChannel (c : Fin 23) (cause : FormCause) (h : Hub) : Channel :=
  { h.chan c with
    winner := h.winnerPort c
    stay := h.stayAfter c cause
    eff := h.formedPair c (h.stayAfter c cause)
    taken := if h.mode = .run then some (h.formedPair c (h.stayAfter c cause)) else (h.chan c).taken
    pendingEff :=
      if h.mode = .run then (h.chan c).pendingEff
      else if (h.chan c).taken = some (h.formedPair c (h.stayAfter c cause)) then none
      else some (h.formedPair c (h.stayAfter c cause)) }

theorem chan_form (c k : Fin 23) (cause : FormCause) (h : Hub) :
    (h.form c cause).chan k = if c = k then h.formedChannel c cause else h.chan k := by
  have told : ∀ q, (h.winnerNotices c).chan q = h.chan q := chan_of_channels (winnerNotices_channels c h)
  unfold form passOn
  dsimp only
  simp only [modChan_mode, winnerNotices_mode, chan_modChan, told, if_true]
  by_cases run : h.mode = .run
  · rw [if_pos run]
    by_cases same : (h.chan c).taken = some (h.formedPair c (h.stayAfter c cause))
    · rw [if_pos same, chan_modChan, told, told]
      simp only [formedChannel, run, if_true, same]
    · rw [if_neg same]
      unfold handOver
      rw [chan_of_channels (handOverAs_channels ..), chan_modChan, chan_modChan, chan_modChan, told, told]
      simp only [formedChannel, run, if_true]
      by_cases e : c = k <;> simp [e]
  · rw [if_neg run, chan_modChan, chan_modChan, chan_modChan, told, told]
    simp only [formedChannel, run, if_false]
    by_cases e : c = k <;> simp [e]

theorem form_mode (c : Fin 23) (cause : FormCause) (h : Hub) : (h.form c cause).mode = h.mode :=
  (reach_form (C := fun _ => true) rfl cause h).mode

theorem form_work (c : Fin 23) (cause : FormCause) (h : Hub) : (h.form c cause).work = h.work :=
  (reach_form (C := fun _ => true) rfl cause h).work

theorem formedPair_source (h : Hub) (c : Fin 23) (stay : Option Command) : (h.formedPair c stay).source = h.sourceOf c := by
  cases e : (h.chan c).claims with
  | nil => simp [formedPair, e]
  | cons x xs => simp [formedPair, sourceOf, e]

theorem formedPair_claim {h : Hub} {c : Fin 23} {x : Claim} {xs : List Claim} (e : (h.chan c).claims = x :: xs)
    (stay : Option Command) : h.formedPair c stay = ⟨x.value, .port x.port x.level⟩ := by
  simp [formedPair, e]

theorem formedPair_empty {h : Hub} {c : Fin 23} (e : (h.chan c).claims = []) (stay : Option Command) :
    h.formedPair c stay = ⟨h.inputCommand c stay, h.sourceOf c⟩ := by
  simp [formedPair, e]

theorem stayAfter_isSome {h : Hub} {c : Fin 23} (cause : FormCause) (src : h.sourceOf c = .fallback)
    (v : (h.chan c).input.value = .stay) : ∃ x, h.stayAfter c cause = some x := by
  unfold stayAfter
  simp only [src, v, beq_self_eq_true, Bool.and_self, decide_true, if_true]
  split <;> exact ⟨_, rfl⟩

/-- A forming leaves its channel formed. -/
theorem formed_form (c : Fin 23) (cause : FormCause) (h : Hub) : (h.form c cause).Formed c := by
  have e : (h.form c cause).chan c = h.formedChannel c cause := by rw [chan_form, if_pos rfl]
  have rate : (h.form c cause).refRateOf c = h.refRateOf c := by
    unfold refRateOf stepperItem; rw [form_work]
  refine ⟨?_, ⟨?_, ?_⟩, ?_⟩
  · unfold winnerPort; rw [e]; rfl
  · unfold sourceOf
    rw [e]
    exact formedPair_source h c _
  · rw [e, rate]
    show match (h.chan c).claims with
      | x :: _ => (h.formedPair c (h.stayAfter c cause)).command = x.value
      | [] =>
        match (h.chan c).input.value with
        | .command v => (h.formedPair c (h.stayAfter c cause)).command = v
        | .position p => (h.formedPair c (h.stayAfter c cause)).command = .target p (h.refRateOf c)
        | .stay =>
          (h.chan c).input.driven = false →
            h.stayAfter c cause = some (h.formedPair c (h.stayAfter c cause)).command
    cases x : (h.chan c).claims with
    | cons y ys => rw [formedPair_claim x]
    | nil =>
      rw [formedPair_empty x]
      cases v : (h.chan c).input.value with
      | command w => simp [inputCommand, v]
      | position w => simp [inputCommand, v]
      | stay =>
        intro undriven
        have src : h.sourceOf c = .fallback := by simp [sourceOf, x, undriven]
        obtain ⟨y, e⟩ := stayAfter_isSome cause src v
        simp [inputCommand, v, e]
  · unfold EnginePassed
    rw [e, form_mode]
    simp only [formedChannel]
    split
    · rfl
    · rfl

/-! ## The stay value -/

theorem refRateOf_stepper (h : Hub) (u : Fin 2) : h.refRateOf (stepperChannel u) = h.work.steppers[u].refRate := by
  unfold refRateOf stepperItem
  rw [show outputOf (stepperChannel u) = .stepper u by revert u; decide]

theorem stayNow_stepper (h : Hub) (u : Fin 2) : h.stayNow (stepperChannel u) = h.stayOf u := by
  unfold stayNow stayOf stayPosition
  rw [refRateOf_stepper, show outputOf (stepperChannel u) = .stepper u by revert u; decide]
  dsimp only
  congr 1
  cases (h.stepper u).ref <;> simp
  cases (h.stepper u).engine with
  | moving d k => cases d <;> rfl
  | idle => rfl
  | referencing k => rfl
  | paused => rfl
  | reversing k => rfl

theorem sourceOf_rests {h : Hub} {c : Fin 23} (r : h.RestsOnStay c) : h.sourceOf c = .fallback := by
  simp [sourceOf, r.1, r.2]

/-- Where STAY does not rule the channel, a forming leaves no stay value. -/
theorem stayAfter_absent {h : Hub} {c : Fin 23} (cause : FormCause) (r : ¬ h.RestsOnStay c) : h.stayAfter c cause = none := by
  unfold stayAfter
  rw [if_neg]
  intro both
  simp only [Bool.and_eq_true, decide_eq_true_eq, beq_iff_eq] at both
  refine r ⟨?_, ?_⟩
  · cases e : (h.chan c).claims with
    | nil => rfl
    | cons x xs => have := both.1; simp [sourceOf, e] at this
  · have src := both.1
    generalize ei : (h.chan c).input = i at both
    obtain ⟨v, driven⟩ := i
    cases driven with
    | false => rw [show v = .stay from both.2]
    | true =>
      exfalso
      cases e : (h.chan c).claims with
      | nil => simp [sourceOf, e, ei] at src
      | cons x xs => simp [sourceOf, e] at src

/-- The stay value a forming leaves where STAY rules the channel (R49). -/
theorem stayAfter_rests {h : Hub} {c : Fin 23} (cause : FormCause) (r : h.RestsOnStay c) :
    h.stayAfter c cause =
      match (h.chan c).stay, cause with
      | none, _ => some (h.stayNow c)
      | some _, .load => some (h.stayNow c)
      | some _, .pass true => some (h.stayNow c)
      | some v, .rateWrite => some (withRate v (h.refRateOf c))
      | some v, .edit => some (if (h.chan c).eff.source = .fallback then v else h.stayNow c)
      | some v, .pass false => some (if (h.chan c).eff.source = .fallback then v else h.stayNow c) := by
  unfold stayAfter
  exact if_pos (by rw [sourceOf_rests r, r.2]; decide)

/-- A forming leaves the stay value as R49 says. -/
theorem stayFormed_form (u : Fin 2) (cause : FormCause) (h : Hub) :
    StayFormed u cause h (h.form (stepperChannel u) cause) := by
  have e : (h.form (stepperChannel u) cause).chan (stepperChannel u) = h.formedChannel (stepperChannel u) cause := by
    rw [chan_form, if_pos rfl]
  have now := h.stayNow_stepper u
  refine ⟨?_, ?_, ?_, ?_, ?_, ?_, ?_⟩
  · intro r away other
    rw [e]
    show h.stayAfter _ _ = _
    rw [stayAfter_rests _ r, ← now]
    cases (h.chan (stepperChannel u)).stay with
    | none => rfl
    | some v =>
      cases cause with
      | edit => simp [away]
      | pass toStay => cases toStay <;> simp [away]
      | rateWrite => exact absurd rfl other
      | load => rfl
  · intro r why
    rw [e]
    show h.stayAfter _ _ = _
    rw [stayAfter_rests _ r, ← now]
    rcases why with rfl | rfl <;> cases (h.chan (stepperChannel u)).stay <;> rfl
  · intro r why q k held
    subst why
    rw [e]
    show h.stayAfter _ _ = _
    rw [stayAfter_rests _ r, held, ← refRateOf_stepper]
    rfl
  · intro r stays why v held
    rw [e]
    show h.stayAfter _ _ = _
    rw [stayAfter_rests _ r, held]
    rcases why with rfl | rfl <;> simp [stays]
  · intro r
    rw [e]
    exact stayAfter_absent _ r
  · intro r v held
    rw [e] at held ⊢
    have held : h.stayAfter (stepperChannel u) cause = some v := held
    show h.formedPair _ _ = _
    rw [formedPair_empty r.1, sourceOf_rests r, held]
    simp [inputCommand, r.2]
  · intro p empty input
    rw [e]
    show h.formedPair _ _ = _
    rw [formedPair_empty empty]
    simp [inputCommand, sourceOf, empty, input, refRateOf_stepper]

/-! ## Handovers and edits -/

theorem giveFlagOn_channels (p : Port) (f : Flag) (c : Fin 23) (h : Hub) : (h.giveFlagOn p f c).channels = h.channels := by
  unfold giveFlagOn; split <;> rfl

theorem chan_resolve (c k : Fin 23) (o : HandoverOutcome) (q d : Port) (h : Hub) :
    (h.resolve c o q d).chan k =
      if c = k then { h.chan c with handover := ⟨none, some ⟨o, q, d⟩⟩ } else h.chan k := by
  unfold resolve dropAsked
  rw [chan_of_channels (giveFlagOn_channels ..), modPort_chan, chan_modChan]

/-- A resolution is what HandoverSettled asks of it: the record, the asked set, HANDOVER_DONE (R86). -/
theorem resolve_settles (c : Fin 23) (o : HandoverOutcome) (q d : Port) (h : Hub) :
    ((h.resolve c o q d).chan c).handover = ⟨none, some ⟨o, q, d⟩⟩ ∧
      ((h.resolve c o q d).port d).asked.getLsbD c.val = false ∧
      ((h.resolve c o q d).attached q = true →
        (h.resolve c o q d).hasFlag q .handoverDone = true ∧ (h.resolve c o q d).hasChange q c = true) := by
  refine ⟨by rw [chan_resolve, if_pos rfl], ?_, fun live => ?_⟩
  · have asked (x : Hub) : ((x.giveFlagOn q .handoverDone c).port d).asked = (x.port d).asked := by
      unfold giveFlagOn
      split
      · rw [port_modPort]
        split
        · next e => subst e; rfl
        · rfl
      · rfl
    unfold resolve
    rw [asked, dropAsked, port_modPort, if_pos rfl]
    simp [channelBit]
  · have old := live
    rw [(reach_resolve (C := fun _ => true) (c := c) rfl o q d h).attached] at old
    have held : ((h.modChan c fun x => { x with handover := ⟨none, some ⟨o, q, d⟩⟩ }).dropAsked d c).attached q = true := by
      rw [(reach_dropAsked (C := fun _ => true) (c := c) rfl d _).attached]; exact old
    unfold resolve giveFlagOn hasFlag hasChange
    rw [if_pos held, port_modPort, if_pos rfl]
    simp [Flag.word, channelBit, Flag.bit]

theorem resolve_mode (c : Fin 23) (o : HandoverOutcome) (q d : Port) (h : Hub) : (h.resolve c o q d).mode = h.mode :=
  (reach_resolve (C := fun _ => true) rfl o q d h).mode

theorem resolve_work (c : Fin 23) (o : HandoverOutcome) (q d : Port) (h : Hub) : (h.resolve c o q d).work = h.work :=
  (reach_resolve (C := fun _ => true) rfl o q d h).work

/-- A settlement leaves the claim list, but for the reorder of a grant at a lapse (R87, R88). -/
theorem settleEdit_claims (c : Fin 23) (p : Port) (k : EditKind) (h : Hub) (kind : k ≠ .orphaned) :
    ((h.settleEdit c p k).chan c).claims = (h.chan c).claims := by
  unfold settleEdit
  repeat' split
  all_goals first
    | rfl
    | (rw [chan_resolve, if_pos rfl]; done)
    | exact absurd rfl kind

/-- The settlement of a removal (R87). -/
theorem settleEdit_removed {c : Fin 23} {p : Port} {h : Hub} (holds : h.holdsClaim p c = true) :
    HandoverSettled c (h.removalOutcome p c) h (h.settleEdit c p .removed) := by
  unfold HandoverSettled settleEdit
  cases (h.chan c).handover.pending with
  | none => rfl
  | some w =>
    have out : h.removalOutcome p c w =
        if p = w.holder then some .vacated else if p = w.requester then some .cancelled else none := by
      unfold removalOutcome; rw [if_neg (by rw [holds]; decide)]
    by_cases holder : p = w.holder
    · rw [if_pos holder] at out
      simp only [out, if_pos holder]
      exact resolve_settles ..
    · by_cases requester : p = w.requester
      · rw [if_neg holder, if_pos requester] at out
        simp only [out, if_neg holder, if_pos requester]
        exact resolve_settles ..
      · rw [if_neg holder, if_neg requester] at out
        simp only [out, if_neg holder, if_neg requester]

theorem settleEdit_mode (c : Fin 23) (p : Port) (k : EditKind) (h : Hub) : (h.settleEdit c p k).mode = h.mode :=
  (reach_settleEdit (C := fun _ => true) rfl p k h).mode

theorem formedChannel_claims (c : Fin 23) (cause : FormCause) (h : Hub) :
    (h.formedChannel c cause).claims = (h.chan c).claims := rfl

/-- The list an edit leaves (R24 to R32). -/
theorem editClaims_claims (c : Fin 23) (p : Port) (k : EditKind) (edit : List Claim → List Claim) (h : Hub)
    (kind : k ≠ .orphaned) : ((h.editClaims c p k edit).chan c).claims = edit (h.chan c).claims := by
  unfold editClaims
  rw [chan_form, if_pos rfl, formedChannel_claims, settleEdit_claims _ _ _ _ kind, chan_modChan, if_pos rfl]

theorem formed_editClaims (c : Fin 23) (p : Port) (k : EditKind) (edit : List Claim → List Claim) (h : Hub) :
    (h.editClaims c p k edit).Formed c := formed_form ..

/-- A resolution keeps the channel formed: it touches its handover record and flags only. -/
theorem Formed.resolve {c : Fin 23} {h : Hub} (a : h.Formed c) (o : HandoverOutcome) (q d : Port) :
    (h.resolve c o q d).Formed c := by
  have e : (h.resolve c o q d).chan c = { h.chan c with handover := ⟨none, some ⟨o, q, d⟩⟩ } := by
    rw [chan_resolve, if_pos rfl]
  have rate : (h.resolve c o q d).refRateOf c = h.refRateOf c := by
    unfold refRateOf stepperItem; rw [resolve_work]
  refine ⟨?_, ?_, ?_⟩
  · have := a.winner
    unfold winnerPort at this ⊢
    rw [e]; exact this
  · have := a.effective
    unfold EffectiveStands sourceOf at this ⊢
    rw [e, rate]; exact this
  · have := a.passed
    unfold EnginePassed at this ⊢
    rw [e, resolve_mode]; exact this

end Sys2Proof.Machine.Hub
end

