-- ==== Sys2Proof/Laws/Frames.lean ====
section
/-! SUPPORT. Frames and the numbers of a body: what is laid out is read back. -/

namespace Sys2Proof.Machine

/-- A frame of a body that a request can have opens to its code and body. -/
theorem openFrame_frameOf (code : Byte) (body : List Byte) (short : body.length ≤ maxRequestBody) :
    openFrame (frameOf code body) = some (code, body) := by
  unfold maxRequestBody at short
  have len : (BitVec.ofNat 8 body.length).toNat = body.length := by
    rw [BitVec.toNat_ofNat]; omega
  simp [openFrame, frameOf, len, maxRequestBody, short]

theorem toNat_append8 {n : Nat} (a : BitVec n) (b : Byte) : (a ++ b).toNat = a.toNat * 256 + b.toNat := by
  rw [BitVec.toNat_append, ← Nat.shiftLeft_add_eq_or_of_lt b.isLt, Nat.shiftLeft_eq]

theorem join16_split (x : BitVec 16) : join16 (x.extractLsb' 8 8) (x.extractLsb' 0 8) = x := by
  apply BitVec.eq_of_toNat_eq
  have := x.isLt
  simp only [join16, toNat_append8, BitVec.extractLsb'_toNat, Nat.shiftRight_eq_div_pow]
  omega

theorem join24_split (x : BitVec 24) :
    join24 (x.extractLsb' 16 8) (x.extractLsb' 8 8) (x.extractLsb' 0 8) = x := by
  apply BitVec.eq_of_toNat_eq
  have := x.isLt
  simp only [join24, toNat_append8, BitVec.extractLsb'_toNat, Nat.shiftRight_eq_div_pow]
  omega

theorem join32_split (x : BitVec 32) :
    join32 (x.extractLsb' 24 8) (x.extractLsb' 16 8) (x.extractLsb' 8 8) (x.extractLsb' 0 8) = x := by
  apply BitVec.eq_of_toNat_eq
  have := x.isLt
  simp only [join32, toNat_append8, BitVec.extractLsb'_toNat, Nat.shiftRight_eq_div_pow]
  omega

/-- The body of a request of the table is read back as that request (R193). -/
theorem requestOf_requestBody (i : Instr) (p : Port) (code : Byte) (body : List Byte)
    (laid : requestBody i = some (p, code, body)) (known : ∀ c b, i ≠ .badRequest p c b) :
    requestOf p code body = some i ∧ body.length ≤ maxRequestBody := by
  cases i <;> simp only [requestBody, Option.some.injEq, Prod.mk.injEq, reduceCtorEq] at laid <;>
    obtain ⟨rfl, rfl, rfl⟩ := laid
  case badRequest q c b => exact absurd rfl (known c b)
  case clearNotices p f c =>
    exact ⟨congrArg (fun x => some (Instr.clearNotices p x c)) (join16_split f), Nat.le_of_ble_eq_true rfl⟩
  case setMask p m => exact ⟨congrArg (fun x => some (Instr.setMask p x)) (join16_split m), Nat.le_of_ble_eq_true rfl⟩
  case claim p ch lv v pol =>
    exact ⟨congrArg (fun x => some (Instr.claim p ch lv x pol)) (join24_split v), Nat.le_of_ble_eq_true rfl⟩
  case sample p k v => exact ⟨congrArg (fun x => some (Instr.sample p k x)) (join32_split v), Nat.le_of_ble_eq_true rfl⟩
  case zero p k v => exact ⟨congrArg (fun x => some (Instr.zero p k x)) (join32_split v), Nat.le_of_ble_eq_true rfl⟩
  case configWrite p b j f v =>
    exact ⟨congrArg (fun x => some (Instr.configWrite p b j f x)) (join32_split v), Nat.le_of_ble_eq_true rfl⟩
  all_goals exact ⟨rfl, Nat.le_of_ble_eq_true rfl⟩

end Sys2Proof.Machine
end

