-- ==== Sys2Proof/Laws/Records.lean ====
section
/-! SUPPORT. The bodies of the queries, byte by byte: what R191, R193 and R195 lay out is what the records hold. -/

namespace Sys2Proof.Machine.Hub

/-! ## One byte of a body -/

theorem Shows.bits {record : List LayoutByte} {body : List Byte} (s : Shows record body) {n : Nat} {x : LayoutByte}
    (e : record[n]? = some x) (low width : Nat) (full : x.mask.extractLsb' low width = BitVec.allOnes width) :
    bitsAt body n low width = (x.val.extractLsb' low width).toNat := by
  have inside : n < body.length := by
    rw [s.1]; exact (List.getElem?_eq_some_iff.mp e).1
  have at' : body[n]? = some body[n] := List.getElem?_eq_getElem inside
  have agree := congrArg (BitVec.extractLsb' low width) (s.2 n x _ e at')
  rw [BitVec.extractLsb'_and, BitVec.extractLsb'_and, full, BitVec.and_allOnes, BitVec.and_allOnes] at agree
  unfold bitsAt byteAt
  rw [at', Option.getD_some, agree]

theorem Shows.byte {record : List LayoutByte} {body : List Byte} (s : Shows record body) {n : Nat} {v : Byte}
    (e : record[n]? = some (known v)) : byteAt body n = v := by
  have whole := s.bits e 0 8 (by show (0xFF : Byte).extractLsb' 0 8 = _; decide)
  have same (b : Byte) : b.extractLsb' 0 8 = b := by ext; simp
  unfold bitsAt at whole
  rw [same, same] at whole
  exact BitVec.eq_of_toNat_eq whole

theorem byteOf_toNat (n : Nat) : (byteOf n).toNat = n % 256 := by simp [byteOf]

theorem extract_byteOf (n low width : Nat) (low8 : low + width ≤ 8) :
    ((byteOf n).extractLsb' low width).toNat = n / 2 ^ low % 2 ^ width := by
  rw [BitVec.extractLsb'_toNat, byteOf_toNat, Nat.shiftRight_eq_div_pow]
  have : (256 : Nat) = 2 ^ low * 2 ^ (8 - low) := by
    rw [← Nat.pow_add, show low + (8 - low) = 8 by omega]
  rw [this, Nat.mod_mul_right_div_self]
  exact Nat.mod_mod_of_dvd _ (Nat.pow_dvd_pow 2 (by omega))

theorem Shows.count {record : List LayoutByte} {body : List Byte} (s : Shows record body) {n k : Nat}
    (e : record[n]? = some (known (byteOf k))) : CountAt body n k := by
  intro small
  rw [s.byte e, byteOf_toNat]; exact Nat.mod_eq_of_lt small

theorem Shows.tenths {record : List LayoutByte} {body : List Byte} (s : Shows record body) {n left : Nat}
    (e : record[n]? = some (known (byteOf (tenthsUp left)))) : TenthsAt body n left := by
  intro small
  rw [s.byte e, byteOf_toNat]
  simp only [tenthsUp, Config.tenths, Config.ms, Config.unitsPerMs] at small ⊢
  omega

/-! ## Command values and sources -/

theorem toNat_ofNat24 (n low : Nat) (low24 : low + 8 ≤ 24) :
    ((BitVec.ofNat 24 n).extractLsb' low 8).toNat = n / 2 ^ low % 256 := by
  rw [BitVec.extractLsb'_toNat, BitVec.toNat_ofNat, Nat.shiftRight_eq_div_pow]
  have : (2 ^ 24 : Nat) = 2 ^ low * 2 ^ (24 - low) := by rw [← Nat.pow_add]; congr 1; omega
  rw [this, Nat.mod_mul_right_div_self]
  exact Nat.mod_mod_of_dvd _ (Nat.pow_dvd_pow 2 (by omega))

theorem Shows.command {record : List LayoutByte} {body : List Byte} (s : Shows record body) {n : Nat} {v : Command}
    (e : ∀ i : Fin 3, record[n + i.val]? = (knownAll (be24 v.bits))[i.val]?) : CommandAt body n v := by
  have b0 : byteAt body n = v.bits.extractLsb' 16 8 := s.byte (e 0)
  have b1 : byteAt body (n + 1) = v.bits.extractLsb' 8 8 := s.byte (e 1)
  have b2 : byteAt body (n + 2) = v.bits.extractLsb' 0 8 := s.byte (e 2)
  unfold CommandAt
  rw [b0, b1, b2]
  dsimp only
  cases v with
  | off => decide
  | on => decide
  | steady x =>
    intro small
    simp only [Command.bits, toNat_ofNat24 _ _ (by decide : 16 + 8 ≤ 24), toNat_ofNat24 _ _ (by decide : 8 + 8 ≤ 24),
      toNat_ofNat24 _ _ (by decide : 0 + 8 ≤ 24)]
    omega
  | slow x =>
    intro small
    simp only [Command.bits, toNat_ofNat24 _ _ (by decide : 16 + 8 ≤ 24), toNat_ofNat24 _ _ (by decide : 8 + 8 ≤ 24),
      toNat_ofNat24 _ _ (by decide : 0 + 8 ≤ 24)]
    omega
  | fast x =>
    intro small
    simp only [Command.bits, toNat_ofNat24 _ _ (by decide : 16 + 8 ≤ 24), toNat_ofNat24 _ _ (by decide : 8 + 8 ≤ 24),
      toNat_ofNat24 _ _ (by decide : 0 + 8 ≤ 24)]
    omega
  | tone p l d =>
    intro small smaller
    cases d <;>
      simp only [Command.bits, Decay.code, toNat_ofNat24 _ _ (by decide : 16 + 8 ≤ 24),
        toNat_ofNat24 _ _ (by decide : 8 + 8 ≤ 24), toNat_ofNat24 _ _ (by decide : 0 + 8 ≤ 24)] <;>
      omega
  | target p r =>
    intro small smaller
    simp only [Command.bits, toNat_ofNat24 _ _ (by decide : 16 + 8 ≤ 24), toNat_ofNat24 _ _ (by decide : 8 + 8 ≤ 24),
      toNat_ofNat24 _ _ (by decide : 0 + 8 ≤ 24)]
    omega

theorem Shows.source {record : List LayoutByte} {body : List Byte} (s : Shows record body) {n : Nat} {x : Source}
    (e : record[n]? = some (sourceByte (some x))) : SourceAt body n x := by
  cases x with
  | port p level =>
    have small := p.idx.isLt
    intro low
    refine ⟨?_, ?_, ?_⟩
    · rw [s.bits e 6 2 (by show (0xF7 : Byte).extractLsb' 6 2 = _; decide)]
      show ((byteOf _).extractLsb' 6 2).toNat = _
      rw [extract_byteOf _ 6 2 (by decide)]; omega
    · rw [s.bits e 4 2 (by show (0xF7 : Byte).extractLsb' 4 2 = _; decide)]
      show ((byteOf _).extractLsb' 4 2).toNat = _
      rw [extract_byteOf _ 4 2 (by decide)]; omega
    · rw [s.bits e 0 3 (by show (0xF7 : Byte).extractLsb' 0 3 = _; decide)]
      show ((byteOf _).extractLsb' 0 3).toNat = _
      rw [extract_byteOf _ 0 3 (by decide)]; omega
  | localLayer => exact s.bits e 6 2 (by show (0xC0 : Byte).extractLsb' 6 2 = _; decide)
  | fallback => exact s.bits e 6 2 (by show (0xC0 : Byte).extractLsb' 6 2 = _; decide)

theorem pairBytes_length (x : Option Pair) : (pairBytes x).length = 4 := by cases x <;> rfl

theorem Shows.pair {record : List LayoutByte} {body : List Byte} (s : Shows record body) {n : Nat} {x : Option Pair}
    (e : ∀ i : Fin 4, record[n + i.val]? = (pairBytes x)[i.val]?) : PairAt body n x := by
  cases x with
  | none => exact s.bits (e 3) 6 2 (by show (0xC0 : Byte).extractLsb' 6 2 = _; decide)
  | some y =>
    refine ⟨s.command fun i => ?_, s.source (e 3)⟩
    rw [show i.val = (i.castSucc : Fin 4).val from rfl, e i.castSucc]
    match i with
    | 0 => rfl
    | 1 => rfl
    | 2 => rfl

/-! ## The hub record -/

/-- The low nibble of a byte of which the record gives no more. -/
theorem Shows.nibble {record : List LayoutByte} {body : List Byte} (s : Shows record body) {n k : Nat}
    (e : record[n]? = some ⟨0x0F, byteOf k⟩) : (byteAt body n).toNat % 16 = k % 16 := by
  have low := s.bits e 0 4 (by show (0x0F : Byte).extractLsb' 0 4 = _; decide)
  rw [show bitsAt body n 0 4 = (byteAt body n).toNat % 16 by
    unfold bitsAt; rw [BitVec.extractLsb'_toNat]; simp] at low
  rw [low]
  show ((byteOf k).extractLsb' 0 4).toNat = _
  rw [extract_byteOf _ 0 4 (by decide)]; simp

theorem marksWord_eq (h : Hub) : h.marksWord =
    4 * (4 * (4 * (4 * (4 * (4 * 0 + h.marks[0].code) + h.marks[1].code) + h.marks[2].code) + h.marks[3].code) +
      h.marks[4].code) + h.marks[5].code := rfl

theorem mark_lt (m : BlockMark) : m.code < 4 := by cases m <;> decide

theorem hubRecord_marks {h : Hub} {body : List Byte} (s : Shows h.hubRecord body) (n : Fin 6) :
    wordAt body 4 / 4 ^ (5 - n.val) % 4 = h.marks[n].code := by
  have high := s.nibble (n := 4) (k := h.marksWord / 256) rfl
  have low : (byteAt body (4 + 1)).toNat = h.marksWord % 256 := by rw [s.byte (n := 5) rfl, byteOf_toNat]
  have word := h.marksWord_eq
  have b0 := mark_lt h.marks[0]
  have b1 := mark_lt h.marks[1]
  have b2 := mark_lt h.marks[2]
  have b3 := mark_lt h.marks[3]
  have b4 := mark_lt h.marks[4]
  have b5 := mark_lt h.marks[5]
  unfold wordAt
  match n with
  | 0 => show _ / 1024 % 4 = h.marks[0].code; omega
  | 1 => show _ / 256 % 4 = h.marks[1].code; omega
  | 2 => show _ / 64 % 4 = h.marks[2].code; omega
  | 3 => show _ / 16 % 4 = h.marks[3].code; omega
  | 4 => show _ / 4 % 4 = h.marks[4].code; omega
  | 5 => show _ / 1 % 4 = h.marks[5].code; omega

theorem add_if (b : Bool) (x k : Nat) : (if b = true then x + k else x) = x + k * b.toNat := by cases b <;> simp

theorem imageWord_eq (h : Hub) :
    let b (r : Fin 12) : Nat := (h.relay r).output.toNat
    h.imageWord = 0 + 1 * b 0 + 2 * b 1 + 4 * b 2 + 8 * b 3 + 16 * b 4 + 32 * b 5 + 64 * b 6 + 128 * b 7 + 256 * b 8 +
      512 * b 9 + 1024 * b 10 + 2048 * b 11 := by
  have image (r : Fin 12) : h.relayImage[r] = (h.relay r).output := by simp [relayImage, relay]
  unfold imageWord
  simp only [add_if, image]
  rfl

theorem testBit_of_div {x r : Nat} {b : Bool} (e : x / 2 ^ r % 2 = b.toNat) : x.testBit r = b := by
  rw [Nat.testBit_eq_decide_div_mod_eq, e]; cases b <;> rfl

theorem hubRecord_image {h : Hub} {body : List Byte} (s : Shows h.hubRecord body) (r : Fin 12) :
    (wordAt body 13).testBit r.val = (h.relay r).output := by
  have high := s.nibble (n := 13) (k := h.imageWord / 256) rfl
  have low : (byteAt body (13 + 1)).toNat = h.imageWord % 256 := by rw [s.byte (n := 13 + 1) rfl, byteOf_toNat]
  have word := h.imageWord_eq
  have one (q : Fin 12) : (h.relay q).output.toNat ≤ 1 := Bool.toNat_le _
  have b0 := one 0; have b1 := one 1; have b2 := one 2; have b3 := one 3
  have b4 := one 4; have b5 := one 5; have b6 := one 6; have b7 := one 7
  have b8 := one 8; have b9 := one 9; have b10 := one 10; have b11 := one 11
  clear one
  dsimp only at word
  apply testBit_of_div
  unfold wordAt
  match r with
  | 0 => show _ / 1 % 2 = (h.relay 0).output.toNat; omega
  | 1 => show _ / 2 % 2 = (h.relay 1).output.toNat; omega
  | 2 => show _ / 4 % 2 = (h.relay 2).output.toNat; omega
  | 3 => show _ / 8 % 2 = (h.relay 3).output.toNat; omega
  | 4 => show _ / 16 % 2 = (h.relay 4).output.toNat; omega
  | 5 => show _ / 32 % 2 = (h.relay 5).output.toNat; omega
  | 6 => show _ / 64 % 2 = (h.relay 6).output.toNat; omega
  | 7 => show _ / 128 % 2 = (h.relay 7).output.toNat; omega
  | 8 => show _ / 256 % 2 = (h.relay 8).output.toNat; omega
  | 9 => show _ / 512 % 2 = (h.relay 9).output.toNat; omega
  | 10 => show _ / 1024 % 2 = (h.relay 10).output.toNat; omega
  | 11 => show _ / 2048 % 2 = (h.relay 11).output.toNat; omega

theorem Shows.hubRecord {h : Hub} {body : List Byte} (s : Shows h.hubRecord body) : h.HubRecordIs body where
  length := s.1
  mode := by rw [s.byte (n := 0) (v := h.mode.code) rfl]; cases h.mode <;> rfl
  faults := s.byte rfl
  firstFault := s.count rfl
  cause := by rw [s.byte (n := 3) (v := h.cause.code) rfl]; cases h.cause <;> rfl
  marks := by intro n; rw [hubRecord_marks s]; cases h.marks[n] <;> rfl
  pool := s.count rfl
  holdings := by intro p; cases p <;> exact s.count rfl
  tenancies := by
    intro p
    have e : h.hubRecord[8 + 2 * p.idx.val]? = some (tenancyByte (h.port p).tenancy) := by cases p <;> rfl
    rw [s.bits e 0 2 (by show (0x0F : Byte).extractLsb' 0 2 = _; decide)]
    unfold tenancyByte
    split <;> simp_all
  leases := by
    intro p
    have e : h.hubRecord[8 + 2 * p.idx.val]? = some (tenancyByte (h.port p).tenancy) := by cases p <;> rfl
    rw [s.bits e 2 2 (by show (0x0F : Byte).extractLsb' 2 2 = _; decide)]
    unfold tenancyByte
    split <;> simp_all
  image := hubRecord_image s
  store := by
    have e : h.hubRecord[15]? = some h.storeByte := rfl
    unfold storeByte at e
    split
    · next x op =>
      rw [op] at e
      rw [s.bits e 7 1 (by show (0x87 : Byte).extractLsb' 7 1 = _; decide),
        s.bits e 0 3 (by show (0x87 : Byte).extractLsb' 0 3 = _; decide)]
      have codes (b : Block) : ((byteOf (128 + b.code)).extractLsb' 7 1).toNat = 1 ∧
          ((byteOf (128 + b.code)).extractLsb' 0 3).toNat = b.code := by cases b <;> decide
      exact codes x.1
    · next op =>
      rw [op] at e
      exact s.bits e 7 1 (by show (0x80 : Byte).extractLsb' 7 1 = _; decide)
  lastStore := by
    have e : h.hubRecord[16]? = some h.outcomeByte := rfl
    unfold outcomeByte at e
    split
    · next x op =>
      rw [op] at e
      rw [s.bits e 6 2 (by show (0xC7 : Byte).extractLsb' 6 2 = _; decide),
        s.bits e 0 3 (by show (0xC7 : Byte).extractLsb' 0 3 = _; decide)]
      obtain ⟨ok, b⟩ := x
      cases ok <;> cases b <;> decide
    · next op =>
      rw [op] at e
      exact s.bits e 6 2 (by show (0xC0 : Byte).extractLsb' 6 2 = _; decide)

/-! ## The slot record and the body of QUERY_SETPOINTS -/

theorem bytes_append (x : BitVec 32) :
    x.extractLsb' 24 8 ++ x.extractLsb' 16 8 ++ x.extractLsb' 8 8 ++ x.extractLsb' 0 8 = x := by
  rw [BitVec.extractLsb'_append_extractLsb'_eq_extractLsb' (by rfl),
    BitVec.extractLsb'_append_extractLsb'_eq_extractLsb' (by rfl),
    BitVec.extractLsb'_append_extractLsb'_eq_extractLsb' (by rfl)]
  exact BitVec.extractLsb'_eq_self

theorem Shows.slotRecord {h : Hub} {k : Fin 8} {body : List Byte} (s : Shows (h.slotRecord k) body) :
    h.SlotRecordIs k body where
  length := s.1
  number := by rw [s.byte (n := 0) rfl, byteOf_toNat]; omega
  mode := by
    rw [s.bits (n := 1) rfl 7 1 (by show (0x83 : Byte).extractLsb' 7 1 = _; decide)]
    show (((if h.work.slots[k].mode = .total then 0x80 else 0) ||| byteOf h.work.slots[k].source.idx.val : Byte).extractLsb' 7 1).toNat = _
    cases h.work.slots[k].mode <;> cases h.work.slots[k].source <;> decide
  source := by
    rw [s.bits (n := 1) rfl 0 2 (by show (0x83 : Byte).extractLsb' 0 2 = _; decide)]
    show (((if h.work.slots[k].mode = .total then 0x80 else 0) ||| byteOf h.work.slots[k].source.idx.val : Byte).extractLsb' 0 2).toNat = _
    cases h.work.slots[k].mode <;> cases h.work.slots[k].source <;> decide
  freshness := s.count rfl
  state := by rw [s.byte (n := 3) (v := slotStateCode (h.slot k).state) rfl]; cases (h.slot k).state <;> rfl
  value := by
    intro small
    have b4 := s.byte (n := 4) rfl
    have b5 := s.byte (n := 5) rfl
    have b6 := s.byte (n := 6) rfl
    have b7 := s.byte (n := 7) rfl
    rw [b4, b5, b6, b7, bytes_append, BitVec.toInt_ofInt, Int.bmod_eq_of_le] <;> omega
  left := by
    have e : (h.slotRecord k)[8]? = some (known (byteOf (freshnessLeft (h.slot k)))) := rfl
    unfold freshnessLeft at e
    split
    · next t at' => rw [at'] at e; exact s.tenths e
    · next at' => rw [at'] at e; exact s.byte e

theorem set_bit (on : Fin 16 → Bool) (xs : List (Fin 16)) (start : BitVec 16) (n : Fin 16) :
    (xs.foldl (fun x k => if on k then x ||| BitVec.twoPow 16 k.val else x) start).getLsbD n.val =
      (start.getLsbD n.val || (decide (n ∈ xs) && on n)) := by
  induction xs generalizing start with
  | nil => simp
  | cons k rest more =>
    rw [List.foldl_cons, more]
    by_cases e : n = k
    · subst e
      cases o : on n <;> simp
    · have apart : k.val ≠ n.val := fun x => e (Fin.ext x.symm)
      cases o : on k <;> simp [e, apart.symm]

theorem drivingSet_bit (h : Hub) (n : Fin 16) : h.drivingSet.getLsbD n.val = h.driving n := by
  unfold drivingSet
  rw [set_bit]
  simp

theorem setpointCode_lt (x : SetpointState) : setpointCode x < 16 := by cases x <;> decide

theorem setpointsBodyIs (h : Hub) : h.SetpointsBodyIs h.setpointsBody where
  length := rfl
  states := by
    intro n
    suffices code : bitsAt h.setpointsBody (n.val / 2) (if n.val % 2 = 0 then 4 else 0) 4 =
        setpointCode (h.setpoint n).state by
      rw [code]; cases (h.setpoint n).state <;> rfl
    have half : n.val / 2 < 8 := by omega
    have e : byteAt h.setpointsBody (n.val / 2) = h.statePair ⟨n.val / 2, half⟩ := by
      unfold byteAt setpointsBody
      rw [List.getElem?_append_left (by simpa using half)]
      simp [half]
    unfold bitsAt
    rw [e]
    unfold statePair
    rw [extract_byteOf _ _ _ (by split <;> decide)]
    have a := setpointCode_lt (h.setpoint ⟨2 * (n.val / 2), by omega⟩).state
    have b := setpointCode_lt (h.setpoint ⟨2 * (n.val / 2) + 1, by omega⟩).state
    split
    · next even =>
      have same : n = ⟨2 * (n.val / 2), by omega⟩ := Fin.ext (by show n.val = 2 * (n.val / 2); omega)
      rw [show (h.setpoint n) = h.setpoint ⟨2 * (n.val / 2), by omega⟩ by rw [← same]]
      show (16 * setpointCode (h.setpoint ⟨2 * (n.val / 2), _⟩).state + setpointCode (h.setpoint ⟨2 * (n.val / 2) + 1, _⟩).state) / 2 ^ 4 % 2 ^ 4 = _
      omega
    · next odd =>
      have same : n = ⟨2 * (n.val / 2) + 1, by omega⟩ := Fin.ext (by show n.val = 2 * (n.val / 2) + 1; omega)
      rw [show (h.setpoint n) = h.setpoint ⟨2 * (n.val / 2) + 1, by omega⟩ by rw [← same]]
      show (16 * setpointCode (h.setpoint ⟨2 * (n.val / 2), _⟩).state + setpointCode (h.setpoint ⟨2 * (n.val / 2) + 1, _⟩).state) / 2 ^ 0 % 2 ^ 4 = _
      omega
  driving := by
    intro n
    have word : wordAt h.setpointsBody 8 = h.drivingSet.toNat := by
      show 256 * (h.drivingSet.extractLsb' 8 8).toNat + (h.drivingSet.extractLsb' 0 8).toNat = _
      have := h.drivingSet.isLt
      rw [BitVec.extractLsb'_toNat, BitVec.extractLsb'_toNat, Nat.shiftRight_eq_div_pow, Nat.shiftRight_eq_div_pow]
      omega
    rw [word, show h.drivingSet.toNat.testBit n.val = h.drivingSet.getLsbD n.val from rfl, drivingSet_bit]
    unfold driving
    cases (h.setpoint n).state <;> simp [SetpointState.drives]

/-! ## The channel record and the body of QUERY_CLAIMS -/

theorem engineBytes_length (h : Hub) (c : Fin 23) : (h.engineBytes c).length = 3 := by
  unfold engineBytes
  cases outputOf c with
  | relay r => rfl
  | lamp l => dsimp only; split <;> rfl
  | sounder => cases h.soundOutput <;> simp
  | stepper u => rfl

theorem handoverBytes_eq (x : HandoverRecord) : ∃ a b c, handoverBytes x = [a, b, c] := by
  obtain ⟨w, o⟩ := x
  cases w <;> cases o <;> exact ⟨_, _, _, rfl⟩

theorem handoverBytes_length (x : HandoverRecord) : (handoverBytes x).length = 3 := by
  obtain ⟨a, b, c, e⟩ := handoverBytes_eq x
  rw [e]; rfl

theorem kindBytes_length (h : Hub) (c : Fin 23) : (h.kindBytes c).length = 2 := by
  unfold kindBytes
  cases outputOf c <;> rfl

theorem list_of_two {xs : List LayoutByte} (e : xs.length = 2) : ∃ a b, xs = [a, b] := by
  match xs, e with
  | [a, b], _ => exact ⟨a, b, rfl⟩

theorem list_of_three {xs : List LayoutByte} (e : xs.length = 3) : ∃ a b d, xs = [a, b, d] := by
  match xs, e with
  | [a, b, d], _ => exact ⟨a, b, d, rfl⟩

theorem kind_code (c : Fin 23) :
    (kindOf c).code.toNat = if c.val < 12 then 0 else if c.val < 20 then 1 else if c.val = 20 then 2 else 3 := by
  revert c; decide

/-- Where each part of a channel record stands. -/
theorem channelRecord_parts (h : Hub) (c : Fin 23) :
    (h.channelRecord c).length = 23 ∧
    (h.channelRecord c)[0]? = some (known (byteOf c.val)) ∧ (h.channelRecord c)[1]? = some (known (kindOf c).code) ∧
    (∀ i : Fin 4, (h.channelRecord c)[2 + i.val]? = (pairBytes (some (h.chan c).eff))[i.val]?) ∧
    (∀ i : Fin 4, (h.channelRecord c)[6 + i.val]? = (pairBytes (h.chan c).pendingEff)[i.val]?) ∧
    (∀ i : Fin 4, (h.channelRecord c)[10 + i.val]? = (pairBytes (h.chan c).taken)[i.val]?) ∧
    (∀ i : Fin 3, (h.channelRecord c)[14 + i.val]? = (h.engineBytes c)[i.val]?) ∧
    (h.channelRecord c)[17]? = some (known (byteOf (h.chan c).claims.length)) ∧
    (∀ i : Fin 3, (h.channelRecord c)[18 + i.val]? = (handoverBytes (h.chan c).handover)[i.val]?) ∧
    ∀ i : Fin 2, (h.channelRecord c)[21 + i.val]? = (h.kindBytes c)[i.val]? := by
  obtain ⟨p0, p1, p2, p3, p⟩ : ∃ a b d e, pairBytes (h.chan c).pendingEff = [a, b, d, e] := by
    cases (h.chan c).pendingEff <;> exact ⟨_, _, _, _, rfl⟩
  obtain ⟨t0, t1, t2, t3, t⟩ : ∃ a b d e, pairBytes (h.chan c).taken = [a, b, d, e] := by
    cases (h.chan c).taken <;> exact ⟨_, _, _, _, rfl⟩
  obtain ⟨e0, e1, e2, e⟩ : ∃ a b d, h.engineBytes c = [a, b, d] := list_of_three (h.engineBytes_length c)
  obtain ⟨h0, h1, h2, w⟩ := handoverBytes_eq (h.chan c).handover
  obtain ⟨k0, k1, k⟩ : ∃ a b, h.kindBytes c = [a, b] := list_of_two (h.kindBytes_length c)
  unfold channelRecord
  dsimp only
  rw [p, t, e, w, k]
  refine ⟨rfl, rfl, rfl, ?_, ?_, ?_, ?_, rfl, ?_, ?_⟩ <;> intro i
  · match i with
    | 0 => rfl
    | 1 => rfl
    | 2 => rfl
    | 3 => rfl
  · match i with
    | 0 => rfl
    | 1 => rfl
    | 2 => rfl
    | 3 => rfl
  · match i with
    | 0 => rfl
    | 1 => rfl
    | 2 => rfl
    | 3 => rfl
  · match i with
    | 0 => rfl
    | 1 => rfl
    | 2 => rfl
  · match i with
    | 0 => rfl
    | 1 => rfl
    | 2 => rfl
  · match i with
    | 0 => rfl
    | 1 => rfl

theorem Shows.channelRecord {h : Hub} {c : Fin 23} {body : List Byte} (s : Shows (h.channelRecord c) body) :
    h.ChannelRecordIs c body := by
  obtain ⟨len, at0, at1, eff, pend, taken, _, count, hand, _⟩ := channelRecord_parts h c
  refine ⟨s.1.trans len, ?_, ?_, s.pair eff, s.pair pend, s.pair taken, s.count count, ?_, ?_⟩
  · rw [s.byte at0, byteOf_toNat]; omega
  · rw [s.byte at1]; exact kind_code c
  · have e18 := hand 0
    have e19 := hand 1
    generalize (h.chan c).handover = x at e18 e19
    obtain ⟨w, o⟩ := x
    cases w with
    | none =>
      exact ⟨s.bits e18 7 1 (by show (0x80 : Byte).extractLsb' 7 1 = _; decide), s.byte e19⟩
    | some w =>
      have codes (q d : Port) : ((byteOf (128 + 16 * q.idx.val + d.idx.val)).extractLsb' 7 1).toNat = 1 ∧
          ((byteOf (128 + 16 * q.idx.val + d.idx.val)).extractLsb' 4 2).toNat = q.idx.val ∧
          ((byteOf (128 + 16 * q.idx.val + d.idx.val)).extractLsb' 0 2).toNat = d.idx.val := by
        cases q <;> cases d <;> decide
      have good := codes w.requester w.holder
      refine ⟨(s.bits e18 7 1 ?_).trans good.1, (s.bits e18 4 2 ?_).trans good.2.1,
        (s.bits e18 0 2 ?_).trans good.2.2, s.tenths e19⟩
      · show (0xB3 : Byte).extractLsb' 7 1 = _; decide
      · show (0xB3 : Byte).extractLsb' 4 2 = _; decide
      · show (0xB3 : Byte).extractLsb' 0 2 = _; decide
  · have e20 := hand 2
    generalize (h.chan c).handover = x at e20
    obtain ⟨w, o⟩ := x
    have last : (handoverBytes ⟨w, o⟩)[2]? = some (match o with
      | some o => known (byteOf (16 * o.outcome.code.toNat + 4 * o.requester.idx.val + o.holder.idx.val))
      | none => ⟨0xF0, 0⟩) := by cases w <;> cases o <;> rfl
    have e := e20.trans last
    cases o with
    | none => exact s.bits e 4 4 (by show (0xF0 : Byte).extractLsb' 4 4 = _; decide)
    | some o =>
      have codes (x : HandoverOutcome) (q d : Port) :
          ((byteOf (16 * x.code.toNat + 4 * q.idx.val + d.idx.val)).extractLsb' 4 4).toNat = x.code.toNat ∧
          ((byteOf (16 * x.code.toNat + 4 * q.idx.val + d.idx.val)).extractLsb' 2 2).toNat = q.idx.val ∧
          ((byteOf (16 * x.code.toNat + 4 * q.idx.val + d.idx.val)).extractLsb' 0 2).toNat = d.idx.val := by
        cases x <;> cases q <;> cases d <;> decide
      have good := codes o.outcome o.requester o.holder
      refine ⟨(s.bits e 4 4 ?_).trans good.1, (s.bits e 2 2 ?_).trans good.2.1, (s.bits e 0 2 ?_).trans good.2.2⟩
      · show (0xFF : Byte).extractLsb' 4 4 = _; decide
      · show (0xFF : Byte).extractLsb' 2 2 = _; decide
      · show (0xFF : Byte).extractLsb' 0 2 = _; decide

theorem outputOf_relayChannel (r : Fin 12) : outputOf (relayChannel r) = .relay r := by revert r; decide

theorem outputOf_lampChannel (l : Fin 8) : outputOf (lampChannel l) = .lamp l := by revert l; decide

theorem outputOf_stepperChannel (u : Fin 2) : outputOf (stepperChannel u) = .stepper u := by revert u; decide

theorem Shows.relayRecord {h : Hub} {r : Fin 12} {body : List Byte} (s : Shows (h.channelRecord (relayChannel r)) body) :
    h.RelayRecordIs r body := by
  obtain ⟨_, _, _, _, _, _, engine, _, _, kind⟩ := channelRecord_parts h (relayChannel r)
  unfold engineBytes at engine
  unfold kindBytes at kind
  rw [outputOf_relayChannel] at engine kind
  refine ⟨?_, s.byte (engine 1), s.byte (engine 2), ?_, s.byte (kind 1)⟩
  · rw [s.bits (n := 14) (engine 0) 0 7 (by show (0x7F : Byte).extractLsb' 0 7 = _; decide)]
    show ((relayStateCode (h.relay r).state).extractLsb' 0 7).toNat = _
    cases (h.relay r).state <;> rfl
  · rw [s.byte (n := 21) (kind 0)]
    cases h.groupOf r with
    | none => rfl
    | some g => show (byteOf (g.val + 1)).toNat = _; rw [byteOf_toNat]; show _ = g.val + 1; omega

theorem Shows.lampRecord {h : Hub} {l : Fin 8} {body : List Byte} (s : Shows (h.channelRecord (lampChannel l)) body) :
    h.LampRecordIs l body := by
  obtain ⟨_, _, _, _, _, _, engine, _, _, kind⟩ := channelRecord_parts h (lampChannel l)
  unfold engineBytes at engine
  unfold kindBytes at kind
  rw [outputOf_lampChannel] at engine kind
  refine ⟨?_, ?_, s.byte (kind 0), s.byte (kind 1)⟩
  · rw [s.bits (n := 14) (engine 0) 0 7 (by show (0x7F : Byte).extractLsb' 0 7 = _; decide)]
    show ((lampStateCode (h.chan (lampChannel l)).taken).extractLsb' 0 7).toNat = _
    cases (h.chan (lampChannel l)).taken with
    | none => rfl
    | some x => obtain ⟨v, q⟩ := x; cases v <;> rfl
  · have e15 := engine 1
    have e16 := engine 2
    dsimp only at e15 e16
    cases o : h.lamp l with
    | dark => rw [o] at e15; exact s.byte e15
    | lit b => rw [o] at e15 e16; exact ⟨s.byte e15, s.count e16⟩

theorem Shows.soundRecord {h : Hub} {body : List Byte} (s : Shows (h.channelRecord soundChannel) body) :
    h.SoundRecordIs body := by
  obtain ⟨_, _, _, _, _, _, engine, _, _, kind⟩ := channelRecord_parts h soundChannel
  unfold engineBytes at engine
  unfold kindBytes at kind
  rw [show outputOf soundChannel = .sounder from rfl] at engine kind
  have e14 : (h.channelRecord soundChannel)[14]? =
      some (known (soundStateCode h.sounder ||| (if h.sounder.mute then 0x80 else 0))) := engine 0
  refine ⟨?_, ?_, ?_, s.byte (kind 0), s.byte (kind 1)⟩
  · rw [s.bits e14 0 7 (by show (0xFF : Byte).extractLsb' 0 7 = _; decide)]
    unfold known soundStateCode
    cases h.sounder.tone <;> cases h.sounder.engine <;> cases h.sounder.mute <;> simp
  · rw [s.bits e14 7 1 (by show (0xFF : Byte).extractLsb' 7 1 = _; decide)]
    unfold known soundStateCode
    cases h.sounder.tone <;> cases h.sounder.engine <;> cases h.sounder.mute <;> dsimp only <;> decide
  · have e15 := engine 1
    have e16 := engine 2
    dsimp only at e15 e16
    cases o : h.soundOutput with
    | silent => rw [o] at e15; exact s.byte e15
    | sounding p l =>
      rw [o] at e15 e16
      refine ⟨s.byte e15, fun small smaller => ⟨?_, ?_⟩⟩
      · rw [s.bits (n := 16) e16 4 4 (by show (0xFF : Byte).extractLsb' 4 4 = _; decide)]
        show ((byteOf (16 * p + l)).extractLsb' 4 4).toNat = _
        rw [extract_byteOf _ 4 4 (by decide)]; omega
      · rw [s.bits (n := 16) e16 0 4 (by show (0xFF : Byte).extractLsb' 0 4 = _; decide)]
        show ((byteOf (16 * p + l)).extractLsb' 0 4).toNat = _
        rw [extract_byteOf _ 0 4 (by decide)]; omega

theorem Shows.stepperRecord {h : Hub} {u : Fin 2} {body : List Byte}
    (s : Shows (h.channelRecord (stepperChannel u)) body) : h.StepperRecordIs u body := by
  obtain ⟨_, _, _, _, _, _, engine, _, _, kind⟩ := channelRecord_parts h (stepperChannel u)
  unfold engineBytes at engine
  unfold kindBytes at kind
  rw [outputOf_stepperChannel] at engine kind
  refine ⟨?_, ?_, s.byte (engine 2), ?_, ?_⟩
  · rw [s.bits (n := 14) (engine 0) 0 7 (by show (0x7F : Byte).extractLsb' 0 7 = _; decide)]
    show ((stepStateCode (h.stepper u).engine).extractLsb' 0 7).toNat = _
    cases (h.stepper u).engine <;> rfl
  · rw [s.byte (n := 15) (engine 1)]
    cases (h.stepper u).engine with
    | moving d k => cases d <;> rfl
    | idle => rfl
    | referencing k => rfl
    | paused => rfl
    | reversing k => rfl
  · rw [s.bits (n := 21) (kind 0) 6 2 (by show (0xCF : Byte).extractLsb' 6 2 = _; decide)]
    show ((byteOf (64 * refCode (h.stepper u).ref + _ / 256 % 16)).extractLsb' 6 2).toNat = _
    rw [extract_byteOf _ 6 2 (by decide)]
    cases (h.stepper u).ref <;> simp only [refCode] <;> omega
  · intro small
    rw [s.bits (n := 21) (kind 0) 0 4 (by show (0xCF : Byte).extractLsb' 0 4 = _; decide), s.byte (n := 22) (kind 1), byteOf_toNat]
    show 256 * ((byteOf (64 * refCode (h.stepper u).ref + _ / 256 % 16)).extractLsb' 0 4).toNat + _ = _
    rw [extract_byteOf _ 0 4 (by decide)]
    cases (h.stepper u).ref <;> simp [refCode] <;> omega

theorem claimBytes_length (c : Fin 23) (x : Claim) : (claimBytes c x).length = 7 := rfl

theorem claimBytes_at (c : Fin 23) (xs : List Claim) (n : Nat) (x : Claim) (e : xs[n]? = some x) (i : Fin 7) :
    (xs.flatMap (claimBytes c))[7 * n + i.val]? = (claimBytes c x)[i.val]? := by
  induction xs generalizing n with
  | nil => simp at e
  | cons y rest more =>
    rw [List.flatMap_cons]
    cases n with
    | zero =>
      simp only [List.getElem?_cons_zero, Option.some.injEq] at e
      subst e
      rw [List.getElem?_append_left (by rw [claimBytes_length]; omega)]
      simp
    | succ n =>
      rw [List.getElem?_append_right (by rw [claimBytes_length]; omega), claimBytes_length,
        show 7 * (n + 1) + i.val - 7 = 7 * n + i.val by omega]
      exact more n (by simpa using e)

theorem claimsBytes_length (c : Fin 23) (xs : List Claim) : (xs.flatMap (claimBytes c)).length = 7 * xs.length := by
  induction xs with
  | nil => rfl
  | cons x rest more => rw [List.flatMap_cons, List.length_append, more, claimBytes_length, List.length_cons]; omega

theorem Shows.claimsRecord {h : Hub} {c : Fin 23} {body : List Byte} (s : Shows (h.claimsRecord c) body) :
    h.ClaimsBodyIs c body := by
  refine ⟨?_, s.count rfl, ?_⟩
  · rw [s.1]
    unfold Hub.claimsRecord
    rw [List.length_cons, claimsBytes_length]; omega
  · intro n x e
    have at' (i : Fin 7) : (h.claimsRecord c)[1 + i.val + 7 * n]? = (claimBytes c x)[i.val]? := by
      unfold Hub.claimsRecord
      rw [show 1 + i.val + 7 * n = (7 * n + i.val) + 1 by omega, List.getElem?_cons_succ]
      exact claimBytes_at c _ n x e i
    refine ⟨?_, ?_, s.count (at' 2), s.command fun i => ?_, ?_, ?_⟩
    · rw [s.byte (n := 1 + 7 * n) (at' 0), byteOf_toNat]; omega
    · rw [s.byte (n := 2 + 7 * n) (at' 1), byteOf_toNat]; omega
    · have := at' ⟨3 + i.val, by omega⟩
      rw [show 4 + 7 * n + i.val = 1 + (3 + i.val) + 7 * n by omega, this]
      match i with
      | 0 => rfl
      | 1 => rfl
      | 2 => rfl
    · rw [s.bits (n := 7 + 7 * n) (at' 6) 0 1 (by show (0x03 : Byte).extractLsb' 0 1 = _; decide)]
      show (((if x.policy = .keep then 1 else 0) ||| (if x.state = .orphaned then 2 else 0) : Byte).extractLsb' 0 1).toNat = _
      cases x.policy <;> cases x.state <;> decide
    · rw [s.bits (n := 7 + 7 * n) (at' 6) 1 1 (by show (0x03 : Byte).extractLsb' 1 1 = _; decide)]
      show (((if x.policy = .keep then 1 else 0) ||| (if x.state = .orphaned then 2 else 0) : Byte).extractLsb' 1 1).toNat = _
      cases x.policy <;> cases x.state <;> decide

end Sys2Proof.Machine.Hub
end

