-- ==== Sys2Proof/Laws/Requests.lean ====
section
/-! SUPPORT. The arrival of a request: the lease restart, the ordered checks, and the response. -/

namespace Sys2Proof.Machine
namespace Hub

/-! ## The lease restart (R61) -/

section
variable (h : Hub) (p : Port)
@[simp] theorem restartLease_channels : (restartLease p h).channels = h.channels := by unfold restartLease; split <;> rfl
@[simp] theorem restartLease_relayCond : (restartLease p h).relayCond = h.relayCond := by unfold restartLease; split <;> rfl
@[simp] theorem restartLease_relays : (restartLease p h).relays = h.relays := by unfold restartLease; split <;> rfl
@[simp] theorem restartLease_dead : (restartLease p h).dead = h.dead := by unfold restartLease; split <;> rfl
@[simp] theorem restartLease_lamps : (restartLease p h).lamps = h.lamps := by unfold restartLease; split <;> rfl
@[simp] theorem restartLease_flash : (restartLease p h).flash = h.flash := by unfold restartLease; split <;> rfl
@[simp] theorem restartLease_sounder : (restartLease p h).sounder = h.sounder := by unfold restartLease; split <;> rfl
@[simp] theorem restartLease_steppers : (restartLease p h).steppers = h.steppers := by unfold restartLease; split <;> rfl
@[simp] theorem restartLease_slots : (restartLease p h).slots = h.slots := by unfold restartLease; split <;> rfl
@[simp] theorem restartLease_setpoints : (restartLease p h).setpoints = h.setpoints := by unfold restartLease; split <;> rfl
@[simp] theorem restartLease_mode : (restartLease p h).mode = h.mode := by unfold restartLease; split <;> rfl
@[simp] theorem restartLease_cause : (restartLease p h).cause = h.cause := by unfold restartLease; split <;> rfl
@[simp] theorem restartLease_faults : (restartLease p h).faults = h.faults := by unfold restartLease; split <;> rfl
@[simp] theorem restartLease_firstFault : (restartLease p h).firstFault = h.firstFault := by unfold restartLease; split <;> rfl
@[simp] theorem restartLease_marks : (restartLease p h).marks = h.marks := by unfold restartLease; split <;> rfl
@[simp] theorem restartLease_storeOp : (restartLease p h).storeOp = h.storeOp := by unfold restartLease; split <;> rfl
@[simp] theorem restartLease_lastStore : (restartLease p h).lastStore = h.lastStore := by unfold restartLease; split <;> rfl
@[simp] theorem restartLease_loadElapsed : (restartLease p h).loadElapsed = h.loadElapsed := by unfold restartLease; split <;> rfl
@[simp] theorem restartLease_work : (restartLease p h).work = h.work := by unfold restartLease; split <;> rfl
@[simp] theorem restartLease_stored : (restartLease p h).stored = h.stored := by unfold restartLease; split <;> rfl
@[simp] theorem restartLease_storedGood : (restartLease p h).storedGood = h.storedGood := by unfold restartLease; split <;> rfl
@[simp] theorem restartLease_resetNLow : (restartLease p h).resetNLow = h.resetNLow := by unfold restartLease; split <;> rfl
@[simp] theorem restartLease_stepInhibit : (restartLease p h).stepInhibit = h.stepInhibit := by unfold restartLease; split <;> rfl
@[simp] theorem restartLease_adr0 : (restartLease p h).adr0 = h.adr0 := by unfold restartLease; split <;> rfl
@[simp] theorem restartLease_adr1 : (restartLease p h).adr1 = h.adr1 := by unfold restartLease; split <;> rfl
@[simp] theorem restartLease_i2cAddr : (restartLease p h).i2cAddr = h.i2cAddr := by unfold restartLease; split <;> rfl
@[simp] theorem restartLease_freeCount : (restartLease p h).freeCount = h.freeCount := by unfold restartLease; split <;> rfl

end

/-- The lease restart of an ATTACHED port writes its tenancy record and clears its LEASE_LOW. -/
theorem restartLease_attached {p : Port} {h : Hub} (live : h.attached p = true) :
    restartLease p h = h.modPort p fun t =>
      { t with
        tenancy := .attached { h.newLease p with cut := true }
        flags := t.flags &&& ~~~(BitVec.twoPow 14 Flag.leaseLow.bit) } := by
  unfold restartLease; rw [if_pos live]

/-- A frame of a port that is not ATTACHED starts no lease. -/
theorem restartLease_other {p : Port} {h : Hub} (out : h.attached p = false) : restartLease p h = h := by
  unfold restartLease; rw [if_neg (by rw [out]; decide)]

theorem port_restartLease_ne {p q : Port} (e : p ≠ q) (h : Hub) : (restartLease p h).port q = h.port q := by
  unfold restartLease
  split
  · rw [port_modPort, if_neg e]
  · rfl

@[simp] theorem restartLease_attached_iff (p q : Port) (h : Hub) : (restartLease p h).attached q = h.attached q := by
  by_cases live : h.attached p = true
  · rw [restartLease_attached live]
    by_cases e : p = q
    · subst e
      rw [live]
      simp only [attached, port_modPort, if_true]
    · simp only [attached, port_modPort, if_neg e]
  · unfold restartLease; rw [if_neg live]

@[simp] theorem restartLease_chan (p : Port) (c : Fin 23) (h : Hub) : (restartLease p h).chan c = h.chan c := by
  unfold restartLease; split <;> rfl

@[simp] theorem restartLease_portItem (p q : Port) (h : Hub) : (restartLease p h).portItem q = h.portItem q := by
  unfold restartLease; split <;> rfl

@[simp] theorem restartLease_resetLow (p q : Port) (h : Hub) :
    ((restartLease p h).port q).resetLow = (h.port q).resetLow := by
  unfold restartLease
  split
  · rw [port_modPort]; split
    · next e => subst e; rfl
    · rfl
  · rfl

@[simp] theorem restartLease_takesFrames (p q : Port) (h : Hub) : (restartLease p h).takesFrames q = h.takesFrames q := by
  simp only [takesFrames, restartLease_resetNLow, restartLease_resetLow]

/-! ## The ordered checks -/

/-- Where no check fails, the request is taken. -/
theorem refuseFirst_pass (p : Port) (checks : List (Bool × Result)) (h taken : Hub)
    (pass : ∀ x ∈ checks, x.1 = false) : h.refuseFirst p checks taken = taken := by
  unfold refuseFirst
  have none_ : checks.find? (fun x => x.1) = none := by
    rw [List.find?_eq_none]
    intro x m
    rw [pass x m]; decide
  rw [none_]

/-- Whatever fails, the response names it and nothing else moves; or the request is taken. -/
theorem refuseFirst_cases (p : Port) (checks : List (Bool × Result)) (h taken : Hub) :
    (∃ x ∈ checks, x.1 = true ∧ h.refuseFirst p checks taken = h.respond p x.2 []) ∨
      h.refuseFirst p checks taken = taken := by
  unfold refuseFirst
  cases e : checks.find? (fun x => x.1) with
  | some x => exact .inl ⟨x, List.mem_of_find?_eq_some e, by simpa using List.find?_some e, rfl⟩
  | none => exact .inr rfl

/-- The first check that fails gives the response. -/
theorem refuseFirst_first (p : Port) (checks : List (Bool × Result)) (h taken : Hub) (x : Bool × Result)
    (e : checks.find? (fun y => y.1) = some x) : h.refuseFirst p checks taken = h.respond p x.2 [] := by
  unfold refuseFirst; rw [e]

theorem standing_pass {h : Hub} {p : Port} (mode : h.mode ≠ .startup) (live : h.attached p = true) :
    ∀ x ∈ h.standing p, x.1 = false := by
  intro x m
  simp only [standing, List.mem_cons, List.not_mem_nil, or_false] at m
  rcases m with e | e <;> subst e
  · simpa using mode
  · simp [live]

theorem port_respond (p q : Port) (y : Result) (b : List Byte) (h : Hub) :
    (h.respond p y b).port q = if p = q then { h.port p with resp := some ⟨y, b⟩ } else h.port q :=
  port_modPort ..

end Hub

/-- A request that is heard is decided whole, the lease restarted first. -/
theorem onRequest_heard (p : Port) (decided : Hub → Hub) (s : State) (heard : s.hub.takesFrames p = true) :
    onRequest p decided s = .next { s with hub := decided (Hub.restartLease p s.hub) } := by
  unfold onRequest; rw [if_pos heard]

/-- A frame while the port takes none changes nothing. -/
theorem onRequest_deaf (p : Port) (decided : Hub → Hub) (s : State) (deaf : s.hub.takesFrames p = false) :
    onRequest p decided s = .next s := by
  unfold onRequest; rw [if_neg (by rw [deaf]; decide)]

end Sys2Proof.Machine
end

