-- ==== Sys2Proof/Laws/Serial.lean ====
section
/-! SUPPORT. The serial lines: what each operation leaves of a port, and that a transaction touches its receive buffer and
its line alone. -/

namespace Sys2Proof.Machine
namespace Hub

section
variable (p : Port) (x : Link) (b : Byte) (h : Hub)

@[simp] theorem port_openLink : (h.openLink p x).port p = { h.port p with rx := [], link := x } := by
  simp [openLink, port_modPort]

@[simp] theorem port_setLink : (h.setLink p x).port p = { h.port p with link := x } := by
  simp [setLink, port_modPort]

/-- A byte of a frame goes into the receive buffer while it has room. -/
theorem port_receive_room (room : (h.port p).rx.length < Config.frameSize) :
    (h.receive p b).port p = { h.port p with rx := (h.port p).rx ++ [b] } := by
  simp [receive, room, port_modPort]

/-- A byte past the receive buffer is kept as the latest beyond it. -/
theorem port_receive_full (full : Config.frameSize ≤ (h.port p).rx.length) :
    (h.receive p b).port p = { h.port p with link := .request (some b) } := by
  simp [receive, Nat.not_lt.mpr full]

/-- A frame that a reset has discarded brings no command, and its further bytes change nothing (R70, R181). -/
theorem arrival_dropped {n : Nat} (gone : (h.port p).link = .dropped n) : h.arrival p = none := by
  unfold arrival; rw [gone]

theorem shifted_dropped {n : Nat} (gone : (h.port p).link = .dropped n) : h.shifted p b = h := by
  unfold shifted; rw [gone]

/-- A transaction that begins or ends forgets what was received and how the line stood. -/
@[simp] theorem openLink_openLink (y : Link) : (h.openLink p y).openLink p x = h.openLink p x := modPort_modPort ..

@[simp] theorem openLink_setLink (y : Link) : (h.setLink p y).openLink p x = h.openLink p x := modPort_modPort ..

@[simp] theorem openLink_receive : (h.receive p b).openLink p x = h.openLink p x := by
  unfold receive
  split
  · exact modPort_modPort ..
  · exact openLink_setLink ..

@[simp] theorem openLink_shifted : (h.shifted p b).openLink p x = h.openLink p x := by
  unfold shifted
  split <;> first
    | rfl
    | exact openLink_setLink ..
    | exact openLink_receive ..

end

/-- What a port reads back depends on its response, its reset pin and RESET_N alone. -/
theorem responseFrame_congr {h t : Hub} {p : Port} (low : t.resetNLow = h.resetNLow)
    (pin : (t.port p).resetLow = (h.port p).resetLow) (resp : (t.port p).resp = (h.port p).resp) :
    responseFrame t p = responseFrame h p := by
  unfold responseFrame takesFrames
  rw [low, pin, resp]

@[simp] theorem responseFrame_openLink (p : Port) (x : Link) (h : Hub) :
    responseFrame (h.openLink p x) p = responseFrame h p :=
  responseFrame_congr rfl (by simp) (by simp)

end Hub

namespace State

/-- Bytes shifted in bring no command before CSn_N is released, and move the receive buffer and the line alone. -/
theorem spiBytes_hub (p : Port) (x : Link) :
    ∀ (bytes : List Byte) (s : State),
      (s.spiBytes p bytes).1.pending = s.pending ∧ (s.spiBytes p bytes).1.hub.openLink p x = s.hub.openLink p x
  | [], _ => ⟨rfl, rfl⟩
  | b :: rest, s => by
    have more := spiBytes_hub p x rest { s with hub := s.hub.shifted p b }
    exact ⟨more.1, more.2.trans (Hub.openLink_shifted p x b s.hub)⟩

/-- FFh goes out while a request frame comes in or nothing is taken. -/
theorem spiShift_out (p : Port) (b : Byte) (s : State) (still : ∀ left, (s.hub.port p).link ≠ .reading left) :
    (s.spiShift p b).2 = 0xFF := by
  cases e : (s.hub.port p).link <;> simp_all [spiShift, Hub.byteOut]

/-- A transaction that carries no frame ends with no command. -/
theorem endTransaction_none {p : Port} {s : State} (quiet : s.hub.arrival p = none) :
    s.endTransaction p = { s with hub := s.hub.openLink p .idle } := by
  unfold endTransaction; rw [quiet]

/-- A frame is taken within its arrival (R184). -/
theorem endTransaction_some {p : Port} {i : Instr} {s : State} (frame : s.hub.arrival p = some i) :
    s.endTransaction p = { s with hub := s.hub.openLink p .idle }.arrive i := by
  unfold endTransaction; rw [frame]

/-- A frame that arrives with no command waiting is its command, taken at once. -/
theorem arrive_alone {i : Instr} {s t : State} (nothing : s.pending = []) (taken : exec i s = .next t) :
    s.arrive i = t := by
  cases s with
  | mk h pending => cases nothing; simp [arrive, steps, step, taken]

/-- The address after a START, where it is the part's own: acknowledged, and a read takes the response frame as it stands
now (R182). -/
theorem i2cAddress_own (read : Bool) {s : State} (started : (s.hub.port .p2).link = .selected) :
    s.i2cAddress s.hub.i2cAddr read =
      ({ s with hub := s.hub.openLink .p2 (if read then .reading (responseFrame s.hub .p2) else .request none) }, true) := by
  unfold i2cAddress; rw [started]; exact if_pos rfl

/-- After a START an address is to come. -/
theorem i2cStart_selected (s : State) : (s.i2cStart.hub.port .p2).link = .selected := by simp [i2cStart]

end State
end Sys2Proof.Machine
end

