-- ==== Sys2Proof/Laws/Time.lean ====
section
/-! SUPPORT. The passing of a unit of time, event by event; and the events of a run that has been cut short. -/

namespace Sys2Proof.Machine

/-- Events none of which is due change nothing. -/
theorem runDue_none : ∀ (events : List Instr) (s : State), (∀ i ∈ events, s.hub.due i = false) → runDue events s = .next s
  | [], _, _ => rfl
  | i :: rest, s, quiet => by
    rw [runDue, if_neg (by simp [quiet i List.mem_cons_self])]
    exact runDue_none rest s fun j m => quiet j (List.mem_cons_of_mem i m)

/-- Events that are not due are passed over. -/
theorem runDue_skip : ∀ (pre rest : List Instr) (s : State), (∀ i ∈ pre, s.hub.due i = false) →
    runDue (pre ++ rest) s = runDue rest s
  | [], _, _, _ => rfl
  | i :: pre, rest, s, quiet => by
    rw [List.cons_append, runDue, if_neg (by simp [quiet i List.mem_cons_self])]
    exact runDue_skip pre rest s fun j m => quiet j (List.mem_cons_of_mem i m)

/-- An event that is due is taken, and the rest are judged on what it leaves. -/
theorem runDue_take {i : Instr} {rest : List Instr} {s t : State} (due : s.hub.due i = true)
    (taken : exec i s = .next t) : runDue (i :: rest) s = runDue rest t := by
  rw [runDue, if_pos due, taken]

namespace Hub

/-- Restarted, the lease of an ATTACHED port is a fresh run that has cut the old one short. -/
theorem restartLease_tenancy {p : Port} {h : Hub} (live : h.attached p = true) :
    ((restartLease p h).port p).tenancy = .attached { h.newLease p with cut := true } := by
  rw [restartLease_attached live, port_modPort, if_pos rfl]

/-- The half point of a run that was cut short clears the mark of the cut, and nothing else (R62, log 26). -/
theorem leaseHalf_cut {p : Port} {h : Hub} {d left : Nat}
    (cut : (h.port p).tenancy = .attached ⟨d, left, .pending, true⟩) :
    h.leaseHalf p = h.modPort p fun t => { t with tenancy := .attached ⟨d, left, .pending, false⟩ } := by
  unfold leaseHalf setTenancy; rw [cut]

/-- The expiry of a run that was cut short clears the mark of the cut, and nothing else (R64, log 26). -/
theorem lapsePort_cut {p : Port} {h : Hub} {run : LeaseRun} (live : (h.port p).tenancy = .attached run)
    (cut : run.cut = true) :
    h.lapsePort p = h.modPort p fun t => { t with tenancy := .attached { run with cut := false } } := by
  unfold lapsePort setTenancy; rw [live]; simp only [cut, if_true]

/-- The expiry of a run that no frame has cut short is the lapse of R63. -/
theorem lapsePort_whole {p : Port} {h : Hub} {run : LeaseRun} (live : (h.port p).tenancy = .attached run)
    (whole : run.cut = false) : h.lapsePort p = (h.setTenancy p .lapsed).lapseClaims p := by
  unfold lapsePort; rw [live]; simp only [whole, Bool.false_eq_true, if_false]

/-- The expiry of a dead time that was cut short clears the mark of the cut, and nothing else (log 26). -/
theorem deadTimerExpires_cut {g : Fin 4} {h : Hub} {left : Nat} (cut : h.deadTimer g = .running left true) :
    h.deadTimerExpires g = h.setDead g (.running left false) := by
  unfold deadTimerExpires; rw [cut]

/-- The expiry of a dead time that nothing has cut short is its end (R98). -/
theorem deadTimerExpires_whole {g : Fin 4} {h : Hub} {left : Nat} (whole : h.deadTimer g = .running left false) :
    h.deadTimerExpires g = h.endDead g := by
  unfold deadTimerExpires; rw [whole]

/-- The expiry of a delay that was cut short clears the mark of the cut, and nothing else (log 26). -/
theorem delayExpires_cut {n : Fin 16} {h : Hub} {left : Nat} (runs : (h.setpoint n).timer = some left)
    (cut : (h.setpoint n).cut = true) : h.delayExpires n = h.setSetpoint n { h.setpoint n with cut := false } := by
  unfold delayExpires; rw [runs]; simp only [cut, if_true]

/-- The expiry of a delay that nothing has cut short is the move of R158. -/
theorem delayExpires_whole {n : Fin 16} {h : Hub} {left : Nat} (runs : (h.setpoint n).timer = some left)
    (whole : (h.setpoint n).cut = false) :
    h.delayExpires n = (h.setSetpoint n ((h.setpoint n).delayEnds (h.setpointItem n))).settleSetpoints h [] := by
  unfold delayExpires; rw [runs]; simp only [whole, Bool.false_eq_true, if_false]

/-- A taken TONE starts, or starts again, at its loudness; a run of the decay timer in progress is cut short (R136,
log 26). -/
theorem startTone_tone {h : Hub} {pitch loudness : Nat} {d : Decay}
    (tone : h.soundCommand = some (.tone pitch loudness d)) :
    h.startTone = h.modSounder fun x =>
      { x with tone := .sounding, level := loudness, decay := decayTimer d loudness, decayCut := x.decay.isSome } := by
  unfold startTone; rw [tone]

end Hub
end Sys2Proof.Machine
end

