-- ==== Sys2Proof/Laws/Writes.lean ====
section
/-! SUPPORT. Which configuration writes are refused: the writes of the model answer nothing exactly where the rules of the
fields refuse. -/

namespace Sys2Proof.Machine.Hub

theorem map_none {α β : Type} {x : Option α} {f : α → β} : x.map f = none ↔ x = none := Option.map_eq_none_iff

theorem boolOf_none (v : BitVec 32) : boolOf v = none ↔ 1 < v.toNat := by
  unfold boolOf
  have z : v = 0 ↔ v.toNat = 0 := by rw [BitVec.toNat_eq]; rfl
  have o : v = 1 ↔ v.toNat = 1 := by rw [BitVec.toNat_eq]; rfl
  split
  · next e => simp [z.mp e]
  · next e =>
    split
    · next k => simp [o.mp k]
    · next k => rw [z] at e; rw [o] at k; simp; omega

theorem natIn_none (low high : Nat) (v : BitVec 32) : natIn low high v = none ↔ v.toNat < low ∨ high < v.toNat := by
  unfold natIn; split <;> simp <;> omega

theorem finOf_none (n : Nat) (v : BitVec 32) : finOf n v = none ↔ n ≤ v.toNat := by
  unfold finOf; split <;> simp <;> omega

theorem intWithin_none (limit : Int) (v : BitVec 32) :
    intWithin limit v = none ↔ v.toInt < -limit ∨ limit < v.toInt := by
  unfold intWithin; split <;> simp <;> omega

theorem always {p : Prop} {α : Type} {x : Option α} (e : x = none) (t : p) : x = none ↔ p := ⟨fun _ => t, fun _ => e⟩

theorem grantElsewhere_false (h : Hub) (p : Port) :
    h.grantElsewhere p = false ↔ ∀ q, q ≠ p → (h.portItem q).configGrant = false := by
  unfold grantElsewhere Port.all
  constructor
  · intro e q away
    cases q <;> simp_all
  · intro e
    cases p <;> simp [e]

theorem writePort_none (p : Port) (field : Nat) (v : BitVec 32) (h : Hub) :
    h.writePort p field v = none ↔ h.PortRefuses p field v := by
  match field with
  | 0 =>
    show (boolOf v).bind _ = none ↔ 1 < v.toNat ∨ (v.toNat = 0 ∧ ∀ q, q ≠ p → (h.portItem q).configGrant = false)
    rw [← grantElsewhere_false]
    cases e : boolOf v with
    | none => simp [(boolOf_none v).mp e]
    | some x =>
      have small : ¬ 1 < v.toNat := fun big => by rw [(boolOf_none v).mpr big] at e; cases e
      have value : x = false ↔ v.toNat = 0 := by
        unfold boolOf at e
        have z : v = 0 ↔ v.toNat = 0 := by rw [BitVec.toNat_eq]; rfl
        rw [← z]
        split at e
        · next k => cases e; simp [k]
        · next k =>
          split at e <;> cases e
          exact ⟨fun x => (by cases x), fun x => absurd x k⟩
      rw [← value]
      cases x <;> cases g : h.grantElsewhere p <;> simp [small]
  | 1 => show _ ↔ 1 < v.toNat; exact map_none.trans (boolOf_none v)
  | 2 =>
    show (natIn 0 48 v).bind _ = none ↔ 48 < v.toNat ∨ v.toNat < h.holding p
    unfold natIn
    split
    · next k => simp only [Option.bind_some]; split <;> simp <;> omega
    · next k => simp; omega
  | 3 => show _ ↔ v.toNat < 1 ∨ 255 < v.toNat; exact map_none.trans (natIn_none 1 255 v)
  | n + 4 => exact always rfl trivial

theorem upTo_none (high : Nat) (v : BitVec 32) : natIn 0 high v = none ↔ high < v.toNat := by
  rw [natIn_none]; omega

theorem writeSlot_none (k : Fin 8) (field : Nat) (v : BitVec 32) (h : Hub) :
    h.writeSlot k field v = none ↔ SlotRefuses field v :=
  match field with
  | 0 => map_none.trans (boolOf_none v)
  | 1 => map_none.trans (finOf_none 3 v)
  | 2 => map_none.trans (upTo_none 255 v)
  | _ + 3 => always rfl trivial

theorem writeCalibration_none (k : Fin 8) (field : Nat) (v : BitVec 32) (h : Hub) :
    h.writeCalibration k field v = none ↔ CalibrationRefuses field v :=
  match field with
  | 0 => map_none.trans (natIn_none 1 65535 v)
  | 1 => map_none.trans (intWithin_none 1000000 v)
  | _ + 2 => always rfl trivial

/-! ## Command values -/

/-- What a value spells, its form byte apart. -/
theorem valueOf_split (v : BitVec 32) {form ab : Nat} (e : v.toNat = 65536 * form + ab) (low : ab < 65536)
    (high : form < 256) :
    valueOf v =
      match (generalizing := false) form with
      | 0 => if ab = 0 then some (.command .off) else none
      | 1 => if ab = 0 then some (.command .on) else none
      | 2 => if ab % 256 = 0 then some (.command (.steady (ab / 256))) else none
      | 3 => if ab % 256 = 0 then some (.command (.slow (ab / 256))) else none
      | 4 => if ab % 256 = 0 then some (.command (.fast (ab / 256))) else none
      | 5 => (decayOf (ab % 16)).map fun d => .command (.tone (ab / 256) (ab % 256 / 16) d)
      | 6 => some (.command (.target (ab % 4096) (ab / 4096)))
      | 7 => if ab = 0 then some .stay else none
      | 8 => if ab < 4096 then some (.position ab) else none
      | _ => none := by
  unfold valueOf parseValue
  have whole : (v.setWidth 24).toNat = v.toNat := by
    rw [BitVec.toNat_setWidth]; exact Nat.mod_eq_of_lt (by omega)
  rw [if_pos (by omega), whole, e]
  rw [show (65536 * form + ab) / 65536 = form by omega, show (65536 * form + ab) % 65536 = ab by omega,
    show (65536 * form + ab) / 256 % 256 = ab / 256 by omega, show (65536 * form + ab) % 256 = ab % 256 by omega]
  dsimp only
  rw [show ab % 256 % 16 = ab % 16 by omega]
  all_goals rfl

theorem valueOf_high (v : BitVec 32) (high : 16777216 ≤ v.toNat) : valueOf v = none := by
  unfold valueOf; rw [if_neg (by omega)]

/-- A value spells a command value that a kind other than a stepper takes. -/
theorem commandWord_iff (k : Kind) (away : k ≠ .stepper) (v : BitVec 32) :
    (∃ x, valueOf v = some (.command x) ∧ commandFits k 0 x = true) ↔ CommandWord k v.toNat := by
  constructor
  · rintro ⟨x, e, fits⟩
    by_cases high : 16777216 ≤ v.toNat
    · rw [valueOf_high v high] at e; cases e
    · have at' : v.toNat = 65536 * (v.toNat / 65536) + v.toNat % 65536 := by omega
      rw [valueOf_split v at' (by omega) (by omega)] at e
      generalize v.toNat / 65536 = form at at' e
      have low : v.toNat % 65536 < 65536 := by omega
      generalize v.toNat % 65536 = ab at at' e low
      rw [at']
      split at e
      · split at e <;> cases e
        cases k <;> first | exact absurd rfl away | (left; omega)
      · split at e <;> cases e
        cases k <;> first | exact Or.inr (by omega) | cases fits
      · split at e <;> cases e
        cases k <;> first
          | cases fits
          | exact Or.inr ⟨2, ab / 256, by
              have := of_decide_eq_true fits
              omega⟩
      · split at e <;> cases e
        cases k <;> first
          | cases fits
          | exact Or.inr ⟨3, ab / 256, by
              have := of_decide_eq_true fits
              omega⟩
      · split at e <;> cases e
        cases k <;> first
          | cases fits
          | exact Or.inr ⟨4, ab / 256, by
              have := of_decide_eq_true fits
              omega⟩
      · obtain ⟨d, decay, shape⟩ := Option.map_eq_some_iff.mp e
        cases shape
        cases k <;> first
          | cases fits
          | exact Or.inr ⟨ab / 256, ab % 256 / 16, ab % 16, by
              have := of_decide_eq_true fits
              have small : ab % 16 ≤ 2 := by
                unfold decayOf at decay
                split at decay <;> first | omega | cases decay
              omega⟩
      · cases e
        cases k <;> first | cases fits | exact absurd rfl away
      · split at e <;> cases e
      · split at e <;> cases e
      · cases e
  · intro word
    cases k with
    | stepper => exact absurd rfl away
    | relay =>
      rcases word with e | e
      · exact ⟨.off, valueOf_split v (form := 0) (ab := 0) (by omega) (by omega) (by omega), rfl⟩
      · exact ⟨.on, valueOf_split v (form := 1) (ab := 0) (by omega) (by omega) (by omega), rfl⟩
    | lamp =>
      rcases word with e | ⟨form, b, least, most, dim, bright, e⟩
      · exact ⟨.off, valueOf_split v (form := 0) (ab := 0) (by omega) (by omega) (by omega), rfl⟩
      · have split := valueOf_split v (form := form) (ab := 256 * b) (by omega) (by omega) (by omega)
        rw [show 256 * b % 256 = 0 by omega, show 256 * b / 256 = b by omega] at split
        obtain rfl | rfl | rfl : form = 2 ∨ form = 3 ∨ form = 4 := by omega
        · exact ⟨.steady b, split, decide_eq_true ⟨dim, bright⟩⟩
        · exact ⟨.slow b, split, decide_eq_true ⟨dim, bright⟩⟩
        · exact ⟨.fast b, split, decide_eq_true ⟨dim, bright⟩⟩
    | sounder =>
      rcases word with e | ⟨pitch, loudness, decay, high, soft, loud, long, e⟩
      · exact ⟨.off, valueOf_split v (form := 0) (ab := 0) (by omega) (by omega) (by omega), rfl⟩
      · have split := valueOf_split v (form := 5) (ab := 256 * pitch + 16 * loudness + decay) (by omega) (by omega) (by omega)
        rw [show (256 * pitch + 16 * loudness + decay) / 256 = pitch by omega,
          show (256 * pitch + 16 * loudness + decay) % 256 / 16 = loudness by omega,
          show (256 * pitch + 16 * loudness + decay) % 16 = decay by omega] at split
        obtain rfl | rfl | rfl : decay = 0 ∨ decay = 1 ∨ decay = 2 := by omega
        · exact ⟨.tone pitch loudness .none, split, decide_eq_true ⟨high, soft, loud⟩⟩
        · exact ⟨.tone pitch loudness .fast, split, decide_eq_true ⟨high, soft, loud⟩⟩
        · exact ⟨.tone pitch loudness .slow, split, decide_eq_true ⟨high, soft, loud⟩⟩

theorem spelled (v : BitVec 32) {x : Fallback} (e : valueOf v = some x) :
    (x = .stay → v.toNat = 0x070000) ∧ ∀ p, x = .position p → p < 4096 ∧ v.toNat = 0x080000 + p := by
  by_cases high : 16777216 ≤ v.toNat
  · rw [valueOf_high v high] at e; cases e
  · have at' : v.toNat = 65536 * (v.toNat / 65536) + v.toNat % 65536 := by omega
    rw [valueOf_split v at' (by omega) (by omega)] at e
    generalize v.toNat / 65536 = form at at' e
    generalize v.toNat % 65536 = ab at at' e
    rw [at']
    split at e
    · split at e <;> cases e; exact ⟨nofun, nofun⟩
    · split at e <;> cases e; exact ⟨nofun, nofun⟩
    · split at e <;> cases e; exact ⟨nofun, nofun⟩
    · split at e <;> cases e; exact ⟨nofun, nofun⟩
    · split at e <;> cases e; exact ⟨nofun, nofun⟩
    · obtain ⟨d, _, shape⟩ := Option.map_eq_some_iff.mp e
      cases shape; exact ⟨nofun, nofun⟩
    · cases e; exact ⟨nofun, nofun⟩
    · split at e <;> cases e
      exact ⟨fun _ => by omega, nofun⟩
    · split at e <;> cases e
      refine ⟨nofun, fun p same => ?_⟩
      cases same
      omega
    · cases e

/-- A value spells a fallback its channel takes. -/
theorem fallbackWord_iff (c : Fin 23) (v : BitVec 32) (h : Hub) :
    (∃ x, valueOf v = some x ∧ h.work.fallbackFits c x = true) ↔ h.FallbackWord c v.toNat := by
  have plain (k : Kind) (away : k ≠ .stepper) (own : kindOf c = k) :
      (∃ x, valueOf v = some x ∧ h.work.fallbackFits c x = true) ↔ CommandWord k v.toNat := by
    rw [← commandWord_iff k away v]
    unfold Blocks.fallbackFits
    rw [own]
    constructor
    · rintro ⟨x, e, fits⟩
      cases x with
      | command x => cases k <;> first | exact ⟨x, e, fits⟩ | exact absurd rfl away
      | stay => cases k <;> first | exact absurd rfl away | cases fits
      | position p => cases k <;> first | exact absurd rfl away | cases fits
    · rintro ⟨x, e, fits⟩
      exact ⟨.command x, e, by cases k <;> first | exact fits | exact absurd rfl away⟩
  unfold FallbackWord
  cases o : outputOf c with
  | relay r => exact plain .relay (by decide) (by unfold kindOf; rw [o])
  | lamp l => exact plain .lamp (by decide) (by unfold kindOf; rw [o])
  | sounder => exact plain .sounder (by decide) (by unfold kindOf; rw [o])
  | stepper u =>
    have own : kindOf c = .stepper := by unfold kindOf; rw [o]
    have limit : h.work.travelOf c = h.work.steppers[u].travel := by unfold Blocks.travelOf; rw [o]
    unfold Blocks.fallbackFits
    rw [own, limit]
    constructor
    · rintro ⟨x, e, fits⟩
      cases x with
      | command x => cases fits
      | stay =>
        left
        exact (spelled v e).1 rfl
      | position p =>
        right
        have at' := (spelled v e).2 p rfl
        exact ⟨p, of_decide_eq_true fits, at'.1, at'.2⟩
    · rintro (e | ⟨p, inside, small, e⟩)
      · exact ⟨.stay, valueOf_split v (form := 7) (ab := 0) (by omega) (by omega) (by omega), rfl⟩
      · refine ⟨.position p, ?_, decide_eq_true inside⟩
        rw [valueOf_split v (form := 8) (ab := p) (by omega) (by omega) (by omega)]
        exact if_pos small

theorem writeSetpoint_none (n : Fin 16) (field : Nat) (v : BitVec 32) (h : Hub) :
    h.writeSetpoint n field v = none ↔ h.SetpointRefuses n field v := by
  refine map_none.trans ?_
  match field with
  | 0 => exact map_none.trans (boolOf_none v)
  | 1 => exact map_none.trans (finOf_none 8 v)
  | 2 => exact map_none.trans (boolOf_none v)
  | 3 => exact map_none.trans (intWithin_none _ v)
  | 4 =>
    show (intWithin Config.valueLimit v).bind _ = none ↔ v.toInt < 0 ∨ 2000000000 < v.toInt
    unfold intWithin Config.valueLimit
    split
    · next k => simp only [Option.bind_some]; split <;> simp <;> omega
    · next k => simp; omega
  | 5 => exact map_none.trans (upTo_none 255 v)
  | 6 => exact map_none.trans (upTo_none 255 v)
  | 7 => exact map_none.trans (finOf_none 21 v)
  | 8 =>
    refine map_none.trans ?_
    show setpointCommandOf _ v = none ↔ ¬ CommandWord (kindOf (targetChannel h.work.setpoints[n].target)) v.toNat
    rw [← commandWord_iff _ (by generalize h.work.setpoints[n].target = t; revert t; decide)]
    unfold setpointCommandOf setpointItem
    cases valueOf v with
    | none => simp
    | some f =>
      cases f with
      | command x => simp
      | stay => simp
      | position q => simp
  | 9 => exact map_none.trans (boolOf_none v)
  | 10 => exact map_none.trans (boolOf_none v)
  | n + 11 => exact always rfl trivial

theorem named_setWidth (v : BitVec 32) :
    memberCount (v.setWidth 12) = ((List.finRange 12).filter fun r => v.getLsbD r.val).length := by
  unfold memberCount
  congr 2
  funext r
  simp

theorem membersOf_none (g : Fin 4) (v : BitVec 32) (h : Hub) : h.membersOf g v = none ↔ h.GroupRefuses g 0 v := by
  have shared : h.sharesMember g (v.setWidth 12) = true ↔
      ∃ k : Fin 4, k ≠ g ∧ ∃ r : Fin 12, h.namesRelay k r = true ∧ v.getLsbD r.val = true := by
    unfold sharesMember
    simp only [List.any_eq_true, List.mem_finRange, true_and, Bool.and_eq_true, bne_iff_ne]
    refine exists_congr fun k => and_congr_right fun _ => ?_
    unfold namesRelay
    constructor
    · intro e
      refine Classical.byContradiction fun none => ?_
      refine e (BitVec.eq_of_getLsbD_eq fun i inside => ?_)
      have free := fun both => none ⟨⟨i, inside⟩, both⟩
      simp only [BitVec.getLsbD_and, BitVec.getLsbD_setWidth, inside, decide_true, Bool.true_and]
      cases a : (h.work.groups[k].members).getLsbD i <;> cases b : v.getLsbD i <;> simp_all
    · rintro ⟨r, both, named⟩ e
      have bit := congrArg (fun x => x.getLsbD r.val) e
      rw [BitVec.getLsbD_and, both, BitVec.getLsbD_setWidth, named] at bit
      simp at bit
  have fits : memberListFits (v.setWidth 12) = false ↔
      memberCount (v.setWidth 12) = 1 ∨ 4 < memberCount (v.setWidth 12) := by
    have empty : memberCount (v.setWidth 12) = 0 ↔ v.setWidth 12 = (0 : BitVec 12) := by
      unfold memberCount
      rw [List.length_eq_zero_iff, List.filter_eq_nil_iff]
      constructor
      · intro e
        refine BitVec.eq_of_getLsbD_eq fun i inside => ?_
        have := e ⟨i, inside⟩ (List.mem_finRange _)
        simpa using this
      · intro e r _
        rw [e]; simp
    unfold memberListFits
    by_cases e : v.setWidth 12 = (0 : BitVec 12)
    · have none := empty.mpr e
      rw [e] at none
      rw [e, none]
      decide
    · have some := mt empty.mp e
      rw [show (v.setWidth 12 == (0 : BitVec 12)) = false by simpa using e, Bool.false_or, decide_eq_false_iff_not]
      omega
  unfold membersOf GroupRefuses
  dsimp only
  rw [← named_setWidth, ← shared]
  split
  · cases a : memberListFits (v.setWidth 12) <;> cases b : h.sharesMember g (v.setWidth 12) <;> simp_all <;> omega
  · simp; omega

theorem writeGroup_none (g : Fin 4) (field : Nat) (v : BitVec 32) (h : Hub) :
    h.writeGroup g field v = none ↔ h.GroupRefuses g field v :=
  match field with
  | 0 => map_none.trans (membersOf_none g v h)
  | 1 => map_none.trans (upTo_none 255 v)
  | 2 => map_none.trans (boolOf_none v)
  | _ + 3 => always rfl trivial

theorem travelTooLow_iff (u : Fin 2) (n : Nat) (h : Hub) (range : 1 ≤ n ∧ n ≤ 4095) :
    h.travelTooLow u n = true ↔ h.TravelRefused u n := by
  have aims (x : Command) : targetAbove n x = true ↔ ∃ p r, x = .target p r ∧ n < p := by
    cases x <;> simp [targetAbove]
  have rests (x : Fallback) : fallbackAbove n x = true ↔ ∃ p, x = .position p ∧ n < p := by
    cases x <;> simp [fallbackAbove]
  unfold travelTooLow TravelRefused
  simp only [Bool.or_eq_true, Bool.and_eq_true, beq_iff_eq, decide_eq_true_eq, List.any_eq_true, aims, rests]
  rw [or_assoc]
  constructor
  · intro e; exact Or.inr (Or.inr e)
  · rintro (e | e | e)
    · omega
    · omega
    · exact e

theorem writeChannel_none (c : Fin 23) (field : Nat) (v : BitVec 32) (h : Hub) :
    h.writeChannel c field v = none ↔ h.ChannelRefuses c field v := by
  match field with
  | 0 =>
    show (valueOf v).bind _ = none ↔ ¬ h.FallbackWord c v.toNat
    rw [← fallbackWord_iff]
    cases valueOf v with
    | none => simp
    | some x => simp
  | 1 => exact map_none.trans (natIn_none 5 127 v)
  | 2 => exact map_none.trans (boolOf_none v)
  | n + 3 =>
    unfold writeChannel ChannelRefuses
    cases outputOf c with
    | relay r =>
      match n with
      | 0 => exact map_none.trans (upTo_none 255 v)
      | 1 => exact map_none.trans (upTo_none 255 v)
      | 2 => exact always rfl trivial
      | 3 => exact always rfl trivial
      | n + 4 => exact always rfl trivial
    | lamp l =>
      match n with
      | 0 => exact always rfl trivial
      | 1 => exact always rfl trivial
      | 2 => exact always rfl trivial
      | 3 => exact always rfl trivial
      | n + 4 => exact always rfl trivial
    | sounder =>
      match n with
      | 0 => exact map_none.trans (boolOf_none v)
      | 1 => exact always rfl trivial
      | 2 => exact always rfl trivial
      | 3 => exact always rfl trivial
      | n + 4 => exact always rfl trivial
    | stepper u =>
      match n with
      | 0 =>
        show (natIn 1 4095 v).bind _ = none ↔ h.TravelRefused u v.toNat
        unfold natIn
        split
        · next range =>
          rw [← travelTooLow_iff u _ h range]
          simp
        · next out =>
          refine always rfl ?_
          unfold TravelRefused
          omega
      | 1 => exact map_none.trans (upTo_none 255 v)
      | 2 => exact map_none.trans (upTo_none 8 v)
      | 3 => exact map_none.trans (boolOf_none v)
      | n + 4 => exact always rfl trivial

theorem indexOf_none {n : Nat} (b : Byte) : (indexOf n b : Option (Fin n)) = none ↔ n ≤ b.toNat := by
  unfold indexOf; split <;> simp <;> omega

theorem indexed_none {n : Nat} {α : Type} (b : Byte) (f : Fin n → Option α) :
    (indexOf n b).bind f = none ↔ ∀ k : Fin n, b.toNat = k.val → f k = none := by
  unfold indexOf
  split
  · next inside =>
    constructor
    · intro e k at'
      rw [show k = ⟨b.toNat, inside⟩ from Fin.ext at'.symm]; exact e
    · intro e; exact e ⟨b.toNat, inside⟩ rfl
  · next outside =>
    constructor
    · intro _ k at'; exact absurd (at' ▸ k.isLt) outside
    · intro _; rfl

/-- A write is refused exactly where its rule refuses it (R177, check 6). -/
theorem write_none (b : Block) (item field : Byte) (v : BitVec 32) (h : Hub) :
    h.write b item field v = none ↔ h.Unwritable b item field v := by
  unfold write Unwritable
  cases b with
  | ports =>
    rw [indexed_none]
    constructor
    · intro e p at'
      have := e p.idx at'
      rwa [show Port.ofIdx p.idx = p by cases p <;> rfl, writePort_none] at this
    · intro e k at'
      rw [writePort_none]
      refine e _ (at'.trans ?_)
      match k with
      | 0 => rfl
      | 1 => rfl
      | 2 => rfl
  | channels => simp only [indexed_none, writeChannel_none]
  | groups => simp only [indexed_none, writeGroup_none]
  | slots => simp only [indexed_none, writeSlot_none]
  | setpoints => simp only [indexed_none, writeSetpoint_none]
  | calibration => simp only [indexed_none, writeCalibration_none]

end Sys2Proof.Machine.Hub
end

