-- ==== Sys2Proof/Tests/Slice0.lean ====
section
/-! SUPPORT. Small tests: the well-formedness smoke, frames written out from R183 and R192, one or two commands on small
states, and for each obligation with hypotheses a state and operands that meet them. -/

set_option Elab.async false

namespace Sys2Proof.Tests
open Sys2Proof Sys2Proof.Machine

/-! ## Small states -/

/-- A port just attached. -/
def tenant (p : Port) : PortUnit :=
  { PortUnit.fresh with tenancy := .attached (Hub.reset.newLease p), mask := 0x3FFF }

/-- The factory part in RUN, three ports ATTACHED, every stepper REFERENCED at 100, nothing claimed. -/
def runHub : Hub :=
  { Hub.reset with
    mode := .run, ports := #v[tenant .p0, tenant .p1, tenant .p2], relayCond := .running
    channels := Hub.reset.channels.map fun c => { c with taken := some c.eff, pendingEff := none }
    relays := Vector.replicate 12 ⟨.off, none, false, .expired⟩, dead := Vector.replicate 4 .expired
    flash := some 0, sounder := { Sounder.afterReset false with cond := .running }
    steppers := Vector.replicate 2 ⟨.referenced, .idle, 100, none, 0, false, .running, false, 0⟩
    marks := Vector.replicate 6 .good }

/-- The same in HELD. -/
def heldHub : Hub :=
  { runHub with
    mode := .held, relayCond := .frozen, sounder := Sounder.afterReset false
    steppers := runHub.steppers.map fun t => { t with cond := .stopped } }

/-- The same in FAULT_HOLD with GROUPS found bad: code 3. -/
def faultHub : Hub := { heldHub with mode := .faultHold, faults := 0x08, firstFault := 3 }

/-- A LIVE claim. -/
def live (p : Port) (level : Nat) (value : Command) (policy : Policy) : Claim := ⟨p, level, value, policy, .live⟩

/-- The channel's list set and the channel formed on it. -/
def claimed (c : Fin 23) (claims : List Claim) (h : Hub) : Hub :=
  (h.modChan c fun x => { x with claims := claims }).form c .edit

/-- The port's tenancy set. -/
def standing (p : Port) (t : Tenancy) (h : Hub) : Hub := h.modPort p fun x => { x with tenancy := t }

/-- The channel's taken command set. -/
def taking (c : Fin 23) (value : Command) (source : Source) (h : Hub) : Hub :=
  h.modChan c fun x => { x with taken := some ⟨value, source⟩, eff := ⟨value, source⟩ }

/-- The relay's record set. -/
def relayAt (r : Fin 12) (x : Relay) (h : Hub) : Hub := h.modRelay r fun _ => x

/-- The stepper's record changed, with no refresh of the mute mark. -/
def stepperAt (u : Fin 2) (f : Stepper → Stepper) (h : Hub) : Hub := { h with steppers := h.steppers.set u (f h.steppers[u]) }

/-- Relays 0 and 1 made group 0. -/
def grouped (h : Hub) : Hub :=
  { h with work := { h.work with groups := h.work.groups.set 0 ⟨0x003, 50, true⟩ } }

/-- Setpoint 0 enabled on slot 0: ABOVE 2800 with hysteresis 200, latching, driving relay 0 ON. -/
def watching (h : Hub) : Hub :=
  let item : SetpointItem := ⟨true, 0, .above, 2800, 200, 0, 10, 0, .on, true, true⟩
  { h with work := { h.work with setpoints := h.work.setpoints.set 0 item } }

/-- P1 LAPSED with an ORPHANED claim on channel 3. -/
def orphanHub : Hub :=
  claimed 3 [{ live .p1 3 .on .keep with state := .orphaned }] (standing .p1 .lapsed runHub)

/-- P1 wins channel 3 before P0 at one level. -/
def contestedHub : Hub := claimed 3 [live .p1 3 .on .keep, live .p0 3 .off .drop] runHub

/-- The same with P0's handover pending. -/
def askedHub : Hub :=
  (contestedHub.modChan 3 fun x => { x with handover := ⟨some ⟨.p0, .p1, 24000⟩, none⟩ }).modPort .p1 fun t =>
    { t with asked := 8 }

/-- P0 holds 15 claims and each other port 16. -/
def nearlyFullHub : Hub :=
  { runHub with channels := Vector.ofFn fun c : Fin 23 => { runHub.chan c with
      claims :=
        (if c.val < 15 then [live .p0 3 .off .drop] else []) ++
          (if c.val < 16 then [live .p1 2 .off .drop, live .p2 1 .off .drop] else []) } }

/-- P0's SHORT chime of pitch 2 plays, and P1's waits. -/
def chimingHub : Hub :=
  { runHub with sounder := { runHub.sounder with
      queue := [⟨.p0, 2, 4, .short⟩, ⟨.p1, 5, 4, .long⟩], engine := .playing 100 } }

/-- A TONE of P0 sounds at level 8, decaying. -/
def toneHub : Hub :=
  claimed 20 [live .p0 4 (.tone 2 8 .fast) .drop] runHub

/-- SU0 steps UP from 100 toward 101 for P0. -/
def movingHub : Hub :=
  stepperAt 0 (fun t => { t with engine := .moving .up 5, lastDir := some .up })
    (taking 21 (.target 101 4) (.port .p0 4) runHub)

/-- SU0 in a referencing run with two steps to go. -/
def runningHub : Hub :=
  stepperAt 0 (fun t => { t with ref := .referencing, engine := .referencing 5, runCount := 2, lastDir := some .down }) runHub

/-- SU0 drains its last step; SU1 is at rest. -/
def drainingHub : Hub :=
  { stepperAt 0 (fun t => { t with cond := .draining }) (stepperAt 1 (fun t => { t with cond := .stopped }) movingHub) with
    mode := .holding }

/-! ## What a command answers -/

/-- The part after a command. -/
def hubAfter (i : Instr) (h : Hub) : Hub :=
  match exec i ⟨h, []⟩ with
  | .next t => t.hub
  | .fault _ => h
  | .refused _ => h

/-- The response a command leaves. -/
def answer (p : Port) (i : Instr) (h : Hub) : Option Response := ((hubAfter i h).port p).resp

/-- P0 is answered with a result and a body. -/
def answers (i : Instr) (h : Hub) (r : Result) (body : List Byte) : Bool := answer .p0 i h == some ⟨r, body⟩

/-! ## Well-formedness -/

theorem test_wf_good_frame_is_no_bad_frame : (Instr.badFrame .p0 [0x03, 0x00, 0xE8]).wf = false := by decide +kernel

theorem test_wf_known_request_is_no_bad_request : (Instr.badRequest .p0 0x03 []).wf = false := by decide +kernel

theorem test_wf_body_of_13_bytes_is_no_bad_request :
    (Instr.badRequest .p0 0x99 (List.replicate 13 0)).wf = false := by decide +kernel

theorem test_wf_accepts :
    (Instr.badFrame .p0 [0x03, 0x00, 0xE9]).wf = true ∧ (Instr.badRequest .p0 0x03 [0]).wf = true ∧
      (Instr.badRequest .p0 0x99 (List.replicate 12 0)).wf = true ∧ (Instr.powerOn).wf = true := by decide +kernel

/-! ## Frames -/

theorem test_keep_frame : commandOfFrame .p1 [0x03, 0x00, 0xE8] = .keep .p1 := by decide +kernel

theorem test_ok_frame_without_body : frameOf Result.ok.code [] = [0x01, 0x00, 0xC2] := by decide +kernel

theorem test_none_frame : responseFrame Hub.reset .p0 = [0x00, 0x00, 0xD7] := by decide +kernel

theorem test_claim_frame :
    commandOfFrame .p0 (frameOf 0x10 [0, 3, 1, 0, 0, 1]) = .claim .p0 0 3 0x010000 1 := by decide +kernel

theorem test_frame_with_wrong_crc : commandOfFrame .p0 [0x03, 0x00, 0xE9] = .badFrame .p0 [0x03, 0x00, 0xE9] := by
  decide +kernel

/-! ## The serial lines -/

/-- KEEP by SPI, taken at the release of CSn_N, then a read of its response. -/
theorem test_spi_request_and_read :
    let asked := (State.mk runHub []).spiTransaction .p1 [0x01, 0x03, 0x00, 0xE8]
    asked.1.pending = [] ∧ asked.2 = [0xFF, 0xFF, 0xFF, 0xFF] ∧
      (asked.1.spiTransaction .p1 [0x02, 0, 0, 0, 0]).2 = [0xFF, 0x01, 0x00, 0xC2, 0xFF] ∧
      ((State.mk runHub []).spiTransaction .p1 [0x03, 0x03, 0x00, 0xE8]).1.hub.port .p1 = runHub.port .p1 := by decide +kernel

/-- The part just after a START and the address of a write. -/
def writing (s : State) : State × Bool := s.i2cStart.i2cAddress 0x48 false

/-- KEEP by I2C: the address and 15 data bytes acknowledged, a 16th not; the frame is taken at the STOP, after a command that
waits. -/
theorem test_i2c_request_and_acknowledge :
    let asked := writing ⟨runHub, []⟩
    let waiting := writing ⟨runHub, [.portReset .p1]⟩
    asked.2 = true ∧ ((State.mk runHub []).i2cStart.i2cAddress 0x49 false).2 = false ∧
      ((State.mk runHub []).i2cAddress 0x48 false).2 = false ∧
      ((asked.1.i2cBytes [0x03, 0x00, 0xE8]).1.i2cStop.hub.port .p2).resp = some ⟨.ok, []⟩ ∧
      (asked.1.i2cBytes (List.replicate 16 0)).2 = List.replicate 15 true ++ [false] ∧
      ((asked.1.i2cBytes [0x03, 0x00]).1.hub.port .p2).rx = [0x03, 0x00] ∧
      (waiting.1.i2cBytes [0x03, 0x00, 0xE8]).1.i2cStop.pending = [] ∧
      (waiting.1.i2cBytes [0x03, 0x00, 0xE8]).1.i2cStop.hub.attached .p1 = false := by decide +kernel

/-- R182, R184: a repeated START ends the write in progress and its frame is taken, so that the read which follows gives the
response to it; a RESET_HUB leaves none. -/
theorem test_repeated_start_brings_the_frame :
    let written := ((writing ⟨runHub, []⟩).1.i2cBytes [0x03, 0x00, 0xE8]).1
    let again := written.i2cStart.i2cAddress 0x48 true
    let granted := { runHub with work := { runHub.work with ports := runHub.work.ports.set 2 ⟨true, true, 48, 20⟩ } }
    let reset := ((writing ⟨granted, []⟩).1.i2cBytes (frameOf 0x44 [])).1.i2cStart.i2cAddress 0x48 true
    (written.hub.port .p2).link = .request none ∧ written.hub.arrival .p2 = some (.keep .p2) ∧ again.2 = true ∧
      again.1.pending = [] ∧ (again.1.hub.port .p2).link = .reading [0x01, 0x00, 0xC2] ∧ (again.1.hub.port .p2).rx = [] ∧
      commandOfI2c [0x03, 0x00, 0xE8] = some (.keep .p2) ∧ runHub.arrival .p2 = none ∧
      (written.i2cStart.hub.port .p2).link = .selected ∧ reset.1.hub.mode = .startup ∧
      (reset.1.hub.port .p2).link = .reading [0x00, 0x00, 0xD7] := by decide +kernel

/-- A hub reset in a read: FFh until the release. -/
theorem test_reset_ends_the_read :
    let reading := ((State.mk runHub []).spiSelect .p0).spiShift .p0 0x02
    let cut : State := ⟨hubAfter .powerOn reading.1.hub, []⟩
    (reading.1.spiShift .p0 0).2 = 0x00 ∧ (cut.spiShift .p0 0).2 = 0xFF ∧
      ((cut.spiRelease .p0).spiTransaction .p0 [0x02, 0]).2 = [0xFF, 0x00] := by decide +kernel

/-- R70: a port reset within a request, the pin released before CSn_N or the STOP, discards the frame, whose rest would be a
good frame; on I2C the first 15 data bytes are acknowledged all the same. -/
theorem test_reset_drops_the_request :
    let again (p : Port) (s : State) : State := ⟨hubAfter (.portResetRelease p) (hubAfter (.portReset p) s.hub), []⟩
    let spi := (((State.mk runHub []).spiSelect .p1).spiBytes .p1 [0x01, 0x99]).1
    let i2c := ((writing ⟨runHub, []⟩).1.i2cBytes [0x99]).1
    ((((again .p1 spi).spiBytes .p1 [0x03, 0x00, 0xE8]).1.spiRelease .p1).hub.port .p1).resp = none ∧
      (((again .p2 i2c).i2cBytes [0x03, 0x00, 0xE8]).1.i2cStop.hub.port .p2).resp = none ∧
      ((again .p2 i2c).i2cBytes (List.replicate 16 0)).2 = List.replicate 14 true ++ [false, false] ∧
      ((((again .p1 spi).spiRelease .p1).spiTransaction .p1 [0x01, 0x03, 0x00, 0xE8]).1.hub.port .p1).resp =
        some ⟨.notAttached, []⟩ := by
  decide +kernel

theorem test_value_bytes :
    (Command.tone 4 6 .slow).bits = 0x050462 ∧ (Command.target 2751 8).bits = 0x068ABF ∧
      parseValue 0x068ABF = some (.command (.target 2751 8)) ∧ parseValue 0x020401 = none ∧
      parseValue 0x070000 = some .stay := by decide +kernel

/-! ## Commands on small states -/

theorem test_attach : answers (.attach .p0) (standing .p0 .detached runHub) .ok [0] = true := by decide +kernel

theorem test_detach : (hubAfter (.detach .p1) contestedHub).winnerPort 3 = some .p0 := by decide +kernel

theorem test_keep : answers (.keep .p0) runHub .ok [] = true := by decide +kernel

/-- The bytes of a response's body at the places given. -/
def bytesAt (places : List Nat) (r : Option Response) : Option (List (Option Byte)) :=
  r.map fun x => places.map fun n => x.body[n]?

/-- R195: mode RUN, no fault, POWER_ON, six marks GOOD, two claims, one of P0 and one of P1, RLY3 on; 17 bytes. -/
theorem test_query_hub :
    bytesAt [0, 1, 2, 3, 5, 6, 7, 9, 11, 14, 17] (answer .p0 (.queryHub .p0) contestedHub) =
      some [some 2, some 0, some 0, some 0, some 0x55, some 2, some 1, some 1, some 0, some 8, none] := by decide +kernel

theorem test_read_notices :
    answers (.readNotices .p0) (runHub.giveFlagOn .p0 .won 3) .ok [0x00, 0x01, 0x3F, 0xFF, 0x00, 0x00, 0x08, 0, 0, 0] = true := by
  decide +kernel

theorem test_clear_notices :
    ((hubAfter (.clearNotices .p0 0x0001 1) (runHub.giveFlagOn .p0 .won 3)).port .p0).change = 0 ∧
      answers (.clearNotices .p0 0x4000 0) runHub .badValue [] = true ∧
      answers (.clearNotices .p0 0 2) runHub .badValue [] = true := by decide +kernel

theorem test_set_mask : ((hubAfter (.setMask .p0 0x2001) runHub).port .p0).mask = 0x2001 := by decide +kernel

theorem test_claim_closes_relay :
    ((hubAfter (.claim .p0 0 3 0x010000 0) runHub).relay 0).output = true ∧
      answers (.claim .p0 0 3 0x010000 0) runHub .placed [1, 1] = true := by decide +kernel

theorem test_claim_refusals_in_order :
    answers (.claim .p0 23 0 0 2) faultHub .startupFault [] = true ∧ answers (.claim .p0 23 0 0 2) runHub .badChannel [] = true ∧
      answers (.claim .p0 22 0 0 2) runHub .badLevel [] = true ∧ answers (.claim .p0 22 8 0 2) runHub .badLevel [] = true ∧
      answer .p1 (.claim .p1 22 6 0 2) runHub = some ⟨.levelDenied, []⟩ ∧
      answers (.claim .p0 22 7 0x060000 2) runHub .badValue [] = true ∧
      answers (.claim .p0 0 7 0x060000 0) runHub .badValue [] = true ∧
      answer .p1 (.claim .p1 16 1 0 0) nearlyFullHub = some ⟨.quota, []⟩ ∧
      answers (.claim .p0 16 1 0 0) (hubAfter (.claim .p0 15 1 0 0)
        { nearlyFullHub with work := { nearlyFullHub.work with ports := Vector.replicate 3 ⟨true, true, 48, 20⟩ } })
          .poolFull [] = true := by decide +kernel

theorem test_release : (hubAfter (.release .p1 3) contestedHub).winnerPort 3 = some .p0 := by decide +kernel

theorem test_release_all : answer .p1 (.releaseAll .p1) nearlyFullHub = some ⟨.ok, [16]⟩ := by decide +kernel

theorem test_clear_orphans :
    answers (.clearOrphans .p0 3) orphanHub .ok [1] = true ∧ ((hubAfter (.clearOrphans .p0 3) orphanHub).chan 3).claims = [] := by
  decide +kernel

/-- R193: two claims, ON of P1 at level 3 first and OFF of P0 at level 3; 15 bytes. -/
theorem test_query_claims :
    bytesAt [0, 1, 2, 3, 4, 5, 6, 8, 9, 10, 11, 15] (answer .p0 (.queryClaims .p0 3) contestedHub) =
      some [some 2, some 3, some 1, some 3, some 1, some 0, some 0, some 3, some 0, some 3, some 0, none] := by decide +kernel

/-- R195: TONE(2, 8, FAST) is effective and sounds, one claim stands; SU0 steps UP from 100. -/
theorem test_query_channel :
    bytesAt [0, 1, 2, 3, 4, 14, 15, 16, 17, 23] (answer .p0 (.queryChannel .p0 20) toneHub) =
        some [some 20, some 2, some 5, some 2, some 0x81, some 1, some 1, some 0x28, some 1, none] ∧
      bytesAt [0, 1, 2, 3, 4, 15, 16, 22] (answer .p0 (.queryChannel .p0 21) movingHub) =
        some [some 21, some 3, some 6, some 0x40, some 101, some 1, some 0, some 100] := by decide +kernel

theorem test_handover_asks :
    answers (.handover .p0 3) contestedHub .started [1, 20] = true ∧
      (hubAfter (.handover .p0 3) contestedHub).hasFlag .p1 .handoverAsked = true := by decide +kernel

theorem test_answer_yields : (hubAfter (.answer .p1 3 1) askedHub).winnerPort 3 = some .p0 := by decide +kernel

theorem test_handover_expiry_denies :
    ((hubAfter (.handoverTimerExpiry 3) askedHub).chan 3).handover = ⟨none, some ⟨.timedOutDenied, .p0, .p1⟩⟩ := by
  decide +kernel

theorem test_chime_appends : answers (.chime .p0 3 8 1) chimingHub .ok [3] = true := by decide +kernel

theorem test_silence : (hubAfter (.silence .p0) chimingHub).sounder.engine = .gap (Config.ms 20) := by decide +kernel

theorem test_reference :
    ((hubAfter (.reference .p0 21) runHub).stepper 0).engine = .referencing (Config.stepTime 4) ∧
      ((hubAfter (.reference .p0 21) runHub).stepper 0).runCount = 1050 := by decide +kernel

theorem test_sample_trips_the_setpoint :
    ((hubAfter (.sample .p0 0 2801) (watching runHub)).setpoint 0).state = .active ∧
      ((hubAfter (.sample .p0 0 2801) (watching runHub)).relay 0).output = true ∧
      ((hubAfter (.sample .p0 0 2800) (watching runHub)).setpoint 0).state = .inactive := by decide +kernel

theorem test_zero_needs_total : answers (.zero .p0 0 0) runHub .badSlotMode [] = true := by decide +kernel

theorem test_ack_setpoint : answers (.ackSetpoint .p0 15) runHub .notLatched [] = true := by decide +kernel

/-- R195: S7 FRESH at -2, its freshness limit 0; 9 bytes. -/
theorem test_query_slot :
    bytesAt [0, 2, 3, 4, 5, 6, 7, 8, 9] (answer .p0 (.querySlot .p0 7) (hubAfter (.sample .p0 7 0xFFFFFFFE) runHub)) =
      some [some 7, some 0, some 1, some 0xFF, some 0xFF, some 0xFF, some 0xFE, some 0, none] := by decide +kernel

/-- R193: SP0 ACTIVE, in the high nibble of the first byte, and driving. -/
theorem test_query_setpoints :
    answers (.querySetpoints .p0) (hubAfter (.sample .p0 0 2801) (watching runHub)) .ok [0x20, 0, 0, 0, 0, 0, 0, 0, 0, 1] = true := by
  decide +kernel

theorem test_hold :
    (hubAfter (.hold .p0) runHub).mode = .held ∧ (hubAfter (.hold .p0) movingHub).mode = .holding := by decide +kernel

theorem test_enter_held : (hubAfter .enterHeld { heldHub with mode := .holding }).mode = .held := by decide +kernel

theorem test_resume : (hubAfter (.resume .p0) heldHub).mode = .run := by decide +kernel

theorem test_accept_fault : (hubAfter (.acceptFault .p0) faultHub).mode = .run := by decide +kernel

theorem test_clear_first_fault : (hubAfter (.clearFirstFault .p0) faultHub).firstFault = 0 := by decide +kernel

theorem test_reset_hub : (hubAfter (.resetHub .p0) runHub).cause = .software := by decide +kernel

theorem test_config_read : answers (.configRead .p0 1 0 3) runHub .ok [0, 0, 0, 20] = true := by decide +kernel

theorem test_config_write : answers (.configWrite .p0 1 1 3 21) heldHub .ok [] = true := by decide +kernel

theorem test_store : answers (.store .p0 3) faultHub .started [] = true := by decide +kernel

theorem test_store_completion_clears_the_code :
    (hubAfter (.storeCompletion true) { faultHub with storeOp := some (.groups, .p0) }).faults = 0 := by decide +kernel

theorem test_bad_frame : (hubAfter (.badFrame .p0 []) runHub).hasFlag .p0 .linkError = true := by decide +kernel

theorem test_bad_request : answers (.badRequest .p0 0x99 []) runHub .badRequest [] = true := by decide +kernel

theorem test_lease_low : (hubAfter (.leaseLow .p0) runHub).hasFlag .p0 .leaseLow = true := by decide +kernel

/-- R62 and R64: a frame, then the half point or the expiry of the run it cut short, leaves no LEASE_LOW and no lapse; the next
one is the new run's. -/
theorem test_frame_before_the_lease_event :
    let kept := hubAfter (.keep .p0) runHub
    (hubAfter (.leaseLow .p0) kept).hasFlag .p0 .leaseLow = false ∧
      (hubAfter (.leaseLow .p0) (hubAfter (.leaseLow .p0) kept)).hasFlag .p0 .leaseLow = true ∧
      (hubAfter (.lapse .p0) kept).attached .p0 = true ∧ (hubAfter (.lapse .p0) (hubAfter (.attach .p0) runHub)).attached .p0 = true ∧
      (hubAfter (.lapse .p0) (hubAfter (.lapse .p0) kept)).isLapsed .p0 = true := by decide +kernel

theorem test_lapse : ((hubAfter (.lapse .p1) contestedHub).chan 3).claims.map (·.state) = [.orphaned, .live] := by
  decide +kernel

theorem test_port_reset : (hubAfter (.portReset .p1) contestedHub).port .p1 = { PortUnit.fresh with resetLow := true } := by decide +kernel

theorem test_port_reset_release :
    (hubAfter (.portResetRelease .p1) (hubAfter (.portReset .p1) runHub)).takesFrames .p1 = true := by decide +kernel

theorem test_power_on : (hubAfter .powerOn runHub).mode = .startup := by decide +kernel

theorem test_reset_n_assert : (hubAfter .resetNAssert runHub).cause = .pin := by decide +kernel

theorem test_reset_n_release :
    (hubAfter .resetNRelease { hubAfter .resetNAssert runHub with adr0 := true }).i2cAddr = 0x49 := by decide +kernel

theorem test_end_of_load :
    (hubAfter (.endOfLoad true) Hub.reset).mode = .run ∧ (hubAfter (.endOfLoad false) Hub.reset).faults = 0x80 := by
  decide +kernel

theorem test_step_inhibit_assert : (hubAfter .stepInhibitAssert runHub).stepInhibit = true := by decide +kernel

theorem test_step_inhibit_release :
    ((hubAfter .stepInhibitRelease { stepperAt 0 (fun t => { t with engine := .paused }) runningHub with
      stepInhibit := true }).stepper 0).engine = .referencing (Config.stepTime 4) := by decide +kernel

theorem test_step_completion : ((hubAfter (.stepCompletion 0) movingHub).stepper 0).pos = 101 := by decide +kernel

theorem test_referencing_step_completion :
    ((hubAfter (.referencingStepCompletion 0) runningHub).stepper 0).runCount = 1 := by decide +kernel

theorem test_reversal_pause_end :
    ((hubAfter (.reversalPauseEnd 0) (stepperAt 0 (fun t => { t with engine := .reversing 1 }) runningHub)).stepper 0).engine =
      .referencing (Config.stepTime 4) := by decide +kernel

theorem test_min_time_expiry :
    ((hubAfter (.minTimeExpiry 0) (relayAt 0 ⟨.waitMinOff, none, false, .minOff 1⟩ runHub)).relay 0).output = true := by
  decide +kernel

theorem test_dead_timer_expiry : (hubAfter (.deadTimerExpiry 0) (runHub.setDead 0 (.running 1 false))).deadTimer 0 = .expired := by
  decide +kernel

theorem test_decay_timer_expiry :
    (hubAfter .decayTimerExpiry toneHub).sounder.level = 7 ∧
      (hubAfter .decayTimerExpiry toneHub).sounder.decay = some (Config.ms 100) := by decide +kernel

/-- R147: a renewal, then the expiry of the run it cut short, leaves the commanded level; the next expiry lets it fall. -/
theorem test_renewal_before_the_decay_expiry :
    let renewed := hubAfter (.claim .p0 20 4 0x050281 0) toneHub
    (hubAfter .decayTimerExpiry renewed).sounder.level = 8 ∧
      (hubAfter .decayTimerExpiry (hubAfter .decayTimerExpiry renewed)).sounder.level = 7 := by decide +kernel

/-- R147: a retrigger, then the end of the length it cut short, leaves the chime playing. -/
theorem test_retrigger_before_the_chime_end :
    let again := hubAfter (.chime .p0 2 6 1) chimingHub
    (hubAfter .chimeEnd again).sounder.engine = .playing (Config.ms 160) ∧
      (hubAfter .chimeEnd again).hasFlag .p0 .chimeDone = false := by decide +kernel

theorem test_chime_end : (hubAfter .chimeEnd chimingHub).hasFlag .p0 .chimeDone = true := by decide +kernel

theorem test_gap_end :
    (hubAfter .gapEnd { runHub with sounder := { chimingHub.sounder with engine := .gap 1 } }).sounder.engine =
      .playing (Config.ms 40) := by decide +kernel

theorem test_freshness_expiry :
    ((hubAfter (.freshnessExpiry 0) (watching (runHub.setSlot 0 ⟨.fresh, 5, some 1, false⟩))).setpoint 0).state = .active := by
  decide +kernel

/-- R152: a SAMPLE, then the expiry of the freshness run it cut short, leaves the slot FRESH. -/
theorem test_sample_before_the_freshness_expiry :
    let sampled := hubAfter (.sample .p0 0 7) (runHub.setSlot 0 ⟨.fresh, 5, some 1, false⟩)
    ((hubAfter (.freshnessExpiry 0) sampled).slot 0).state = .fresh ∧
      (hubAfter (.freshnessExpiry 0) sampled).hasFlag .p0 .slotStale = false := by decide +kernel

theorem test_delay_timer_expiry :
    ((hubAfter (.delayTimerExpiry 0) ((watching runHub).setSetpoint 0 ⟨.breaking, false, some 1, false⟩)).setpoint 0).state = .latched := by
  decide +kernel

/-- In a unit of time that lets a dead timer run out its expiry is taken, before the flash clock's. -/
theorem test_step_takes_the_due_event :
    (match step ⟨runHub.setDead 0 (.running 1 false), []⟩ with
      | .next t => t.hub.deadTimer 0
      | .fault _ => .fromReset
      | .refused _ => .fromReset) = .expired := by decide +kernel

theorem test_flash_clock : (hubAfter .flashClockLitHalfChange runHub).flash = some (Config.ms 125) := by decide +kernel

/-- Each refusal that an obligation states in order, met first. -/
theorem test_refusals_of_claims_and_handovers :
    answers (.release .p0 3) faultHub .startupFault [] = true ∧ answers (.release .p0 23) runHub .badChannel [] = true ∧
      answers (.release .p0 3) runHub .noClaim [] = true ∧ answers (.releaseAll .p0) faultHub .startupFault [] = true ∧
      answers (.clearOrphans .p0 3) faultHub .startupFault [] = true ∧
      answers (.clearOrphans .p0 23) runHub .badChannel [] = true ∧
      answers (.handover .p0 3) faultHub .startupFault [] = true ∧ answers (.handover .p0 23) runHub .badChannel [] = true ∧
      answers (.handover .p0 3) runHub .noClaim [] = true ∧ answers (.handover .p0 3) askedHub .handoverBusy [] = true ∧
      answers (.handover .p0 3) (claimed 3 [live .p0 3 .on .keep] runHub) .notContested [] = true ∧
      answers (.answer .p0 3 1) faultHub .startupFault [] = true ∧ answers (.answer .p0 23 1) runHub .badChannel [] = true ∧
      answers (.answer .p0 3 3) askedHub .badValue [] = true ∧ answers (.answer .p0 3 1) askedHub .noHandover [] = true ∧
      answers (.answer .p0 3 1) runHub .noHandover [] = true := by decide +kernel

theorem test_refusals_of_engines_and_measurement :
    answers (.reference .p0 20) faultHub .badChannel [] = true ∧ answers (.reference .p0 21) faultHub .wrongMode [] = true ∧
      answers (.reference .p0 21) heldHub .held [] = true ∧
      answers (.reference .p0 22) (claimed 22 [live .p1 3 (.target 100 4) .keep] runHub) .notWinner [] = true ∧
      answers (.reference .p0 21) runningHub .already [] = true ∧ answers (.chime .p0 0 1 0) faultHub .wrongMode [] = true ∧
      answers (.chime .p0 0 1 0) heldHub .held [] = true ∧ answers (.chime .p0 8 1 0) runHub .badValue [] = true ∧
      answers (.chime .p0 0 9 0) runHub .badValue [] = true ∧ answers (.chime .p0 0 1 2) runHub .badValue [] = true ∧
      answers (.chime .p0 0 1 0) toneHub .sounderBusy [] = true ∧ answers (.silence .p0) runHub .notChiming [] = true ∧
      answers (.sample .p0 0 0) faultHub .startupFault [] = true ∧ answers (.sample .p0 8 0) runHub .badValue [] = true ∧
      answers (.sample .p0 0 0x77359401) runHub .badValue [] = true ∧
      ((answer .p1 (.sample .p1 0 0) runHub).map (·.result)) = some .notSource ∧
      ((answer .p1 (.zero .p1 0 0) runHub).map (·.result)) = some .notSource ∧
      answers (.zero .p0 8 0) runHub .badValue [] = true ∧ answers (.ackSetpoint .p0 16) runHub .badValue [] = true ∧
      answers (.ackSetpoint .p0 0) faultHub .startupFault [] = true := by decide +kernel

theorem test_refusals_of_modes_and_configuration :
    answers (.hold .p0) faultHub .wrongMode [] = true ∧ answers (.hold .p0) heldHub .already [] = true ∧
      answers (.resume .p0) runHub .wrongMode [] = true ∧ answers (.acceptFault .p0) runHub .wrongMode [] = true ∧
      answers (.resume .p0) { heldHub with storeOp := some (.ports, .p0) } .storeBusy [] = true ∧
      answers (.acceptFault .p0) { faultHub with storeOp := some (.ports, .p0) } .storeBusy [] = true ∧
      answers (.configWrite .p0 1 1 3 21) runHub .wrongMode [] = true ∧
      answers (.configWrite .p0 1 1 3 21) { heldHub with storeOp := some (.ports, .p0) } .storeBusy [] = true ∧
      answers (.store .p0 1) runHub .wrongMode [] = true ∧ answers (.store .p0 0) heldHub .badValue [] = true ∧
      answers (.store .p0 7) heldHub .badValue [] = true ∧
      answers (.store .p0 2) { heldHub with storeOp := some (.ports, .p0) } .storeBusy [] = true ∧
      answers (.queryChannel .p0 23) runHub .badChannel [] = true ∧ answers (.queryClaims .p0 23) runHub .badChannel [] = true ∧
      answers (.querySlot .p0 8) runHub .badValue [] = true ∧
      (∀ i ∈ [Instr.hold .p1, .resume .p1, .acceptFault .p1, .resetHub .p1, .configWrite .p1 1 1 3 21, .store .p1 1],
        ((answer .p1 i runHub).map (·.result)) = some .noGrant) := by decide +kernel

/-! ## The hypotheses of the obligations can be met -/

theorem test_premises_QuietStepCountsTimersDown :
    let h := standing .p1 .detached (relayAt 0 ⟨.off, none, false, .minOff 2⟩ chimingHub)
    (State.mk h []).pending = [] ∧ (∀ i ∈ h.unitEvents, h.countDown.due i = false) ∧
      (h.port .p0).tenancy = .attached (Hub.reset.newLease .p0) ∧ h.attached .p1 = false := by decide +kernel

/-- The dead timers of groups 0 and 2 are about to run out, and nothing else is. -/
def lastUnitHub : Hub := (runHub.setDead 0 (.running 1 false)).setDead 2 (.running 1 false)

theorem test_premises_an_event_that_is_due :
    lastUnitHub.unitEvents =
        lastUnitHub.unitEvents.take 41 ++ .deadTimerExpiry 0 :: lastUnitHub.unitEvents.drop 42 ∧
      (∀ j ∈ lastUnitHub.unitEvents.take 41, lastUnitHub.countDown.due j = false) ∧
      lastUnitHub.countDown.due (.deadTimerExpiry 0) = true ∧
      .deadTimerExpiry 2 ∈ lastUnitHub.unitEvents.drop 42 ∧
      (hubAfter (.deadTimerExpiry 0) lastUnitHub.countDown).due (.deadTimerExpiry 2) = true ∧
      (hubAfter (.deadTimerExpiry 0) lastUnitHub.countDown).due (.deadTimerExpiry 1) = false := by decide +kernel

theorem test_premises_UnheardAndBadFramesAreAnswered :
    encodeFrame (.keep .p0) = some (.p0, [0x03, 0x00, 0xE8]) ∧ { runHub with resetNLow := true }.takesFrames .p0 = false ∧
      (runHub.modPort .p0 fun t => { t with resetLow := true }).takesFrames .p0 = false ∧ runHub.takesFrames .p0 = true := by
  decide +kernel

theorem test_premises_GoodRequestsRestartTheLease :
    runHub.attached .p0 = true ∧ Hub.reset.attached .p0 = false ∧ requestBody (.detach .p0) = some (.p0, 0x02, []) ∧
      runHub.takesFrames .p0 = true ∧ Hub.reset.takesFrames .p0 = true ∧ Instr.detach .p0 ≠ .attach .p0 := by decide +kernel

theorem test_premises_StandingIsCheckedFirst :
    requestBody (.detach .p0) = some (.p0, 0x02, []) ∧ Instr.detach .p0 ≠ .queryHub .p0 ∧
      Instr.detach .p0 ≠ .badRequest .p0 0x02 [] ∧ Instr.detach .p0 ≠ .attach .p0 ∧ Hub.reset.takesFrames .p0 = true ∧
      Hub.reset.mode = .startup ∧ (standing .p0 .detached runHub).mode ≠ .startup ∧
      (standing .p0 .detached runHub).attached .p0 = false ∧
      ((standing .p0 .detached runHub).port .p0).tenancy = .detached := by decide +kernel

theorem test_premises_FramesAreReadBackAsTheirCommands :
    (Instr.claim .p0 22 7 0x06FFFF 1).wf = true ∧
      (encodeFrame (.claim .p0 22 7 0x06FFFF 1)).isSome = true ∧ (encodeFrame (.badFrame .p2 [])).isSome = true ∧
      (encodeFrame (.badRequest .p1 0xFF [])).isSome = true ∧
      runHub.takesFrames .p0 = true ∧ (runHub.port .p0).resp = none ∧ { runHub with resetNLow := true }.takesFrames .p0 = false ∧
      ((hubAfter (.keep .p0) runHub).port .p0).resp = some ⟨.ok, []⟩ ∧
      ((runHub.setLink .p0 .ignored).port .p0).link = .ignored ∧ (runHub.port .p0).rx.length ≤ 15 ∧
      ((runHub.modPort .p0 fun t => { t with rx := List.replicate 15 0 }).port .p0).rx.length = 15 ∧
      (runHub.port .p2).link = .idle ∧ ((runHub.setLink .p2 (.reading [1])).port .p2).link = .reading [1] ∧
      ((runHub.setLink .p2 (.reading [])).port .p2).link = .reading [] ∧ runHub.i2cAddr = 0x48 ∧
      ((runHub.setLink .p2 (.dropped 14)).port .p2).link = .dropped 14 ∧
      ((runHub.setLink .p1 (.dropped 0)).port .p1).link = .dropped 0 ∧
      ((runHub.setLink .p2 .selected).port .p2).link = .selected ∧
      ((runHub.setLink .p1 (.request none)).port .p1).link = .request none := by decide +kernel

theorem test_premises_KeepRestartsTheLeaseAndNothingMore :
    Hub.reset.takesFrames .p0 = true ∧ Hub.reset.mode = .startup ∧ (standing .p0 .lapsed runHub).takesFrames .p0 = true ∧
      (standing .p0 .lapsed runHub).mode ≠ .startup ∧ (standing .p0 .lapsed runHub).attached .p0 = false ∧
      faultHub.takesFrames .p0 = true ∧ faultHub.mode ≠ .startup ∧ faultHub.attached .p0 = true := by decide +kernel

theorem test_premises_AttachBeginsRenewsOrAdopts :
    orphanHub.takesFrames .p1 = true ∧ orphanHub.mode ≠ .startup ∧ (orphanHub.port .p1).tenancy = .lapsed ∧
      orphanHub.hasOrphan .p1 3 = true ∧ faultHub.attached .p1 = true ∧ faultHub.mode ≠ .startup ∧
      faultHub.takesFrames .p1 = true ∧ ((standing .p0 .detached faultHub).port .p0).tenancy = .detached ∧
      (standing .p0 .detached faultHub).takesFrames .p0 = true := by decide +kernel

theorem test_premises_DetachGivesUpEverything :
    contestedHub.takesFrames .p1 = true ∧ contestedHub.mode ≠ .startup ∧ (contestedHub.port .p1).tenancy ≠ .detached ∧
      (orphanHub.port .p1).tenancy ≠ .detached ∧ contestedHub.holdsClaim .p1 3 = true ∧ askedHub.takesFrames .p0 = true ∧
      askedHub.mode ≠ .startup ∧ askedHub.removalOutcome .p0 3 ⟨.p0, .p1, 24000⟩ = some .cancelled ∧
      askedHub.removalOutcome .p1 3 ⟨.p0, .p1, 24000⟩ = some .vacated ∧
      askedHub.removalOutcome .p2 3 ⟨.p0, .p1, 24000⟩ = none ∧
      (askedHub.chan 3).handover.pending = some ⟨.p0, .p1, 24000⟩ ∧
      (hubAfter (.detach .p1) askedHub).attached .p0 = true := by decide +kernel

theorem test_premises_PortResetClearsThePort :
    (contestedHub.port .p1).resetLow = false ∧ contestedHub.holdsClaim .p1 3 = true ∧
      ((contestedHub.modPort .p1 fun t => { t with resetLow := true }).port .p1).resetLow = true := by decide +kernel

theorem test_premises_LeaseHalfPointSetsLeaseLow :
    (runHub.port .p2).tenancy = .attached ⟨60000, 60000, .pending, false⟩ ∧
      ((hubAfter (.keep .p2) runHub).port .p2).tenancy = .attached ⟨60000, 60000, .pending, true⟩ ∧
      ((hubAfter (.leaseLow .p2) runHub).port .p2).tenancy = .attached ⟨60000, 30000, .passed, false⟩ ∧
      requestBody (.keep .p2) = some (.p2, 0x03, []) ∧ runHub.takesFrames .p2 = true ∧ runHub.attached .p2 = true := by
  decide +kernel

/-- P0's handover waits where the default outcome is GRANT. -/
def grantHub : Hub :=
  { askedHub with work := { askedHub.work with handovers := askedHub.work.handovers.set 3 ⟨20, true⟩ } }

theorem test_premises_LapseDropsOrOrphansTheClaims :
    (grantHub.port .p1).tenancy = .attached ⟨24000, 24000, .pending, false⟩ ∧ (∀ c, ((grantHub.chan c).claims.map (·.port)).Nodup) ∧
      grantHub.holdsClaim .p1 3 = true ∧ (grantHub.chan 3).handover.pending = some ⟨.p0, .p1, 24000⟩ ∧
      grantHub.defaultGrants 3 = true ∧ (claimOf .p1 (grantHub.chan 3).claims).any (fun x => x.policy == .keep) = true ∧
      grantHub.lapseOutcome .p1 3 ⟨.p0, .p1, 24000⟩ = some .timedOutGranted ∧
      askedHub.lapseOutcome .p1 3 ⟨.p0, .p1, 24000⟩ = some .timedOutDenied ∧
      askedHub.lapseOutcome .p0 3 ⟨.p0, .p1, 24000⟩ = some .cancelled ∧ orphanHub.attached .p1 = false ∧
      ((hubAfter (.keep .p1) grantHub).port .p1).tenancy = .attached ⟨24000, 24000, .pending, true⟩ ∧
      requestBody (.keep .p1) = some (.p1, 0x03, []) ∧ grantHub.takesFrames .p1 = true ∧ grantHub.attached .p1 = true := by
  decide +kernel

theorem test_premises_ClaimListsAreOrderedByLevelAndArrival :
    let r := live .p0 3 .off .drop
    let d := live .p1 3 .on .keep
    let xs := [live .p2 3 .on .drop, d, r]
    [d].Pairwise (fun y z => z.level ≤ y.level) ∧ (xs.map (·.port)).Nodup ∧
      xs.Pairwise (fun y z => z.level ≤ y.level) ∧ r ∈ xs ∧ d ∈ xs ∧ r.port ≠ d.port ∧ r.level = d.level := by decide +kernel

/-- One state for each refusal of CLAIM: test_claim_refusals_in_order says what each answers. -/
theorem test_premises_ClaimIsCheckedInOrder : faultHub.MayAsk .p0 ∧ runHub.MayAsk .p0 ∧ runHub.MayAsk .p1 ∧ nearlyFullHub.MayAsk .p1 := by
  decide +kernel

theorem test_premises_ClaimIsPlaced :
    nearlyFullHub.MayAsk .p0 ∧ nearlyFullHub.mode ≠ .faultHold ∧ channelNo 15 = some 15 ∧ 1 ≤ (7 : Byte).toNat ∧
      (7 : Byte).toNat ≤ 7 ∧ (nearlyFullHub.portItem .p0).protectedGrant = true ∧
      commandFor nearlyFullHub.work 15 0 = some .off ∧ policyOf 1 = some .keep ∧
      claimOf .p0 (nearlyFullHub.chan 15).claims = none ∧ nearlyFullHub.holding .p0 + 1 = (nearlyFullHub.portItem .p0).quota ∧
      nearlyFullHub.poolCount = 47 := by decide +kernel

theorem test_premises_ClaimIsReplaced :
    contestedHub.MayAsk .p0 ∧ contestedHub.mode ≠ .faultHold ∧ channelNo 3 = some 3 ∧ 1 ≤ (1 : Byte).toNat ∧
      (1 : Byte).toNat ≤ 7 ∧ commandFor contestedHub.work 3 0x010000 = some .on ∧ policyOf 0 = some .drop ∧
      claimOf .p0 (contestedHub.chan 3).claims = some (live .p0 3 .off .drop) ∧
      ((contestedHub.chan 3).claims.map (·.port)).Nodup ∧
      askedHub.MayAsk .p0 ∧ askedHub.MayAsk .p1 ∧ askedHub.mode ≠ .faultHold ∧ askedHub.attached .p0 = true ∧
      claimOf .p0 (askedHub.chan 3).claims = some (live .p0 3 .off .drop) ∧
      claimOf .p1 (askedHub.chan 3).claims = some (live .p1 3 .on .keep) ∧
      (askedHub.chan 3).handover.pending = some ⟨.p0, .p1, 24000⟩ ∧ (3 : Byte).toNat = 3 ∧
      commandFor askedHub.work 3 0x010000 = some .on ∧ ((askedHub.chan 3).claims.map (·.port)).Nodup := by decide +kernel

theorem test_premises_ReleasesRemoveThePortsClaims :
    askedHub.MayAsk .p0 ∧ askedHub.MayAsk .p1 ∧ askedHub.mode ≠ .faultHold ∧ channelNo 3 = some 3 ∧
      askedHub.holdsClaim .p0 3 = true ∧ askedHub.holdsClaim .p1 3 = true ∧ contestedHub.MayAsk .p0 ∧
      (let aimed := claimed 21 [live .p0 3 (.target 200 4) .keep] runHub
       aimed.MayAsk .p0 ∧ channelNo 21 = some (stepperChannel 0) ∧ aimed.holdsClaim .p0 21 = true ∧
         (aimed.chan 21).eff.source ≠ .fallback ∧ ((hubAfter (.release .p0 21) aimed).chan 21).claims = [] ∧
         ((hubAfter (.release .p0 21) aimed).chan 21).input = ⟨.stay, false⟩ ∧
         ((hubAfter (.release .p0 21) aimed).chan 21).stay = some (.target 101 4)) ∧
      (contestedHub.chan 3).handover.pending = none ∧ (askedHub.chan 3).handover.pending = some ⟨.p0, .p1, 24000⟩ := by
  decide +kernel

theorem test_premises_ClearOrphansRemovesOrphansOfTheChannel :
    orphanHub.MayAsk .p0 ∧ orphanHub.MayAsk .p2 ∧ orphanHub.mode ≠ .faultHold ∧ channelNo 3 = some 3 ∧
      (orphanHub.chan 3).claims ≠ [] ∧ channelNo 22 = some 22 ∧ (orphanHub.chan 22).claims = [] := by decide +kernel

/-- P1's claim put before the forming. -/
def unformedHub : Hub := runHub.modChan 3 fun x => { x with claims := [live .p1 3 .on .keep] }

theorem test_premises_FormingGivesWonAndLost :
    (unformedHub.chan 3).winner ≠ unformedHub.winnerPort 3 ∧ unformedHub.winnerPort 3 = some .p1 ∧
      unformedHub.attached .p1 = true ∧ (standing .p1 .lapsed unformedHub).attached .p1 = false := by decide +kernel

/-- P0's claim on SU0 put before the forming. -/
def unmovedHub : Hub := runHub.modChan 21 fun x => { x with claims := [live .p0 3 (.target 200 4) .keep] }

theorem test_premises_FormingHandsOnByTheMode :
    heldHub.mode ≠ .run ∧ contestedHub.mode = .run ∧
      (contestedHub.chan 3).taken = some ((contestedHub.form 3 .edit).chan 3).eff ∧
      unmovedHub.mode = .run ∧ unformedHub.mode = .run ∧
      (unformedHub.chan 3).taken ≠ some ((unformedHub.form 3 .edit).chan 3).eff ∧ (3 : Fin 23) = relayChannel 3 ∧
      (let lit := runHub.modChan 19 fun x => { x with claims := [live .p0 3 (.slow 3) .keep] }
       (lit.chan 19).taken ≠ some ((lit.form 19 .edit).chan 19).eff) ∧ (19 : Fin 23) = lampChannel 7 ∧
      (let loud := runHub.modChan 20 fun x => { x with claims := [live .p0 4 (.tone 2 8 .fast) .drop] }
       (loud.chan 20).taken ≠ some ((loud.form 20 .edit).chan 20).eff) ∧ heldHub.relayCond = .frozen ∧
      heldHub.sounder.cond = .frozen ∧ runHub.groupOf 11 = none ∧
      (unmovedHub.chan 21).taken ≠ some ((unmovedHub.form 21 .edit).chan 21).eff ∧ (heldHub.stepper 0).cond ≠ .running ∧
      (runningHub.stepper 0).ref ≠ .referenced ∧ (movingHub.stepper 0).engine = .moving .up 5 ∧
      (runningHub.stepper 0).engine = .referencing 5 ∧
      ((stepperAt 0 (fun t => { t with engine := .reversing 1 }) runHub).stepper 0).engine = .reversing 1 ∧
      ((stepperAt 0 (fun t => { t with engine := .paused, refReq := true }) runHub).stepper 0).refReq = true ∧
      (runHub.stepper 0).cond = .running ∧ (runHub.stepper 0).ref = .referenced ∧ (runHub.stepper 0).engine = .idle ∧
      ((stepperAt 0 (fun t => { t with engine := .paused }) runHub).stepper 0).engine = .paused ∧
      ((stepperAt 0 (fun t => { t with engine := .paused }) runHub).stepper 0).refReq = false ∧
      (movingHub.stepper 0).pos ≠ movingHub.pursued 0 ∧ ((taking 21 (.target 100 4) (.port .p0 4) runHub).stepper 0).pos =
        (taking 21 (.target 100 4) (.port .p0 4) runHub).pursued 0 ∧
      runHub.stepInhibit = false ∧ (movingHub.stepper 0).lastDir = some Dir.down.opposite := by decide +kernel

/-- The channel of SU0 with the fallback POSITION(50). -/
def placedHub : Hub := heldHub.modChan 21 fun x => { x with input := ⟨.position 50, false⟩, stay := none }

theorem test_premises_the_stay_value :
    (movingHub.chan 21).claims = [] ∧ (movingHub.chan 21).input = ⟨.stay, false⟩ ∧ (movingHub.chan 21).eff.source ≠ .fallback ∧
      (runHub.chan 21).claims = [] ∧ (runHub.chan 21).input = ⟨.stay, false⟩ ∧ (runHub.chan 21).eff.source = .fallback ∧
      (runHub.chan 21).stay = some (.target 0 4) ∧ (unmovedHub.chan 21).claims ≠ [] ∧
      ((unmovedHub.form 21 .edit).chan 21).claims ≠ [] ∧ ((movingHub.form 21 .edit).chan 21).stay = some (.target 101 4) ∧
      (placedHub.chan 21).claims = [] ∧ (placedHub.chan 21).input = ⟨.position 50, false⟩ := by decide +kernel

/-- R11, R49: the position a step UP from 100 will reach; the one it rests at; 0 where it is UNREFERENCED; kept in a later
forming; the rate index alone; none under a claim. -/
theorem test_stay_values :
    let stay (cause : FormCause) (h : Hub) : Option Command := ((h.form 21 cause).chan 21).stay
    let fast (h : Hub) : Hub := { h with work := { h.work with steppers := h.work.steppers.set 0 ⟨1000, 50, 7, false⟩ } }
    stay .edit movingHub = some (.target 101 4) ∧ stay (.pass true) runHub = some (.target 100 4) ∧
      stay .load (stepperAt 0 (fun t => { t with ref := .unreferenced }) runHub) = some (.target 0 4) ∧
      stay .edit runHub = some (.target 0 4) ∧ stay .rateWrite (fast runHub) = some (.target 0 7) ∧
      stay .edit unmovedHub = none ∧ stay (.pass false) placedHub = none := by decide +kernel

theorem test_premises_HandoverAsksOrIsResolvedAtOnce :
    let orphan : Claim := { live .p1 3 .on .keep with state := .orphaned }
    let own := live .p0 3 .off .drop
    let lapsed := claimed 3 [orphan, own] (standing .p1 .lapsed runHub)
    contestedHub.MayAsk .p0 ∧ contestedHub.mode ≠ .faultHold ∧ channelNo 3 = some 3 ∧
      (contestedHub.chan 3).handover.pending = none ∧ (contestedHub.chan 3).claims = [live .p1 3 .on .keep, own] ∧
      claimOf .p0 [live .p1 3 .on .keep, own] = some own ∧ contestedHub.attached .p1 = true ∧
      lapsed.MayAsk .p0 ∧ lapsed.mode ≠ .faultHold ∧ (lapsed.chan 3).handover.pending = none ∧
      (lapsed.chan 3).claims = [orphan, own] ∧ claimOf .p0 [orphan, own] = some own ∧ orphan.state = .orphaned := by
  decide +kernel

theorem test_premises_AnswersAndExpiriesResolveTheHandover :
    askedHub.MayAsk .p1 ∧ askedHub.mode ≠ .faultHold ∧ channelNo 3 = some 3 ∧
      (askedHub.chan 3).handover.pending = some ⟨.p0, .p1, 24000⟩ ∧ (contestedHub.chan 3).handover.pending = none := by
  decide +kernel

theorem test_premises_UngroupedRelayFollowsItsCommand : runHub.relayCond = .running ∧ runHub.groupOf 0 = none := by
  decide +kernel

theorem test_premises_RelayTimersExpireByTheUnitsCondition :
    let timed := relayAt 0 ⟨.waitMinOff, none, false, .minOff 1⟩ runHub
    (runHub.relay 0).mark = .expired ∧ (Hub.reset.relay 0).mark = .fromReset ∧ (timed.relay 0).mark = .minOff 1 ∧
      timed.relayCond = .running ∧ timed.groupOf 0 = none ∧ (grouped timed).groupOf 0 = some 0 ∧
      (runHub.setDead 0 (.running 5 true)).deadTimer 0 = .running 5 true ∧
      { timed with relayCond := .frozen }.relayCond = .frozen ∧ (runHub.setDead 0 (.running 1 false)).deadTimer 0 = .running 1 false ∧
      runHub.groupInUse 0 = false ∧ (grouped runHub).groupInUse 0 = true := by decide +kernel

theorem test_premises_DeadTimerExpiryClosesTheWaitingMember :
    let h := (taking 0 .on (.port .p0 3) (relayAt 0 ⟨.waitDead, none, false, .expired⟩ (grouped runHub))).setDead 0 (.running 1 false)
    h.deadTimer 0 = .running 1 false ∧ h.relayCond = .running ∧ h.namesRelay 0 0 = true ∧ (h.relay 0).state = .waitDead ∧
      (h.relay 0).output = false ∧ h.asksOn 0 = true ∧ h.minOffRunning 0 = false ∧
      (∀ q, h.namesRelay 0 q = true → q ≠ 0 → (h.relay q).state = .off ∧ (h.relay q).output = false ∧ h.asksOn q = false) := by
  decide +kernel

/-- Relay 0 is ON for P0 at level 3, its MIN_ON run as given; relay 1 of its group asks for ON for P1 at level 5. -/
def outrankedHub (mark : MinMark) : Hub :=
  taking 1 .on (.port .p1 5) (taking 0 .on (.port .p0 3) (relayAt 0 ⟨.on, none, true, mark⟩ (grouped runHub)))

theorem test_premises_ContestPreempts :
    let outranks (h : Hub) (i q : Fin 12) : Bool :=
      h.namesRelay 0 q && h.asksOn q && q != i && (h.relay q).state != .waitMinOn && decide (h.sourceLevel i < h.sourceLevel q)
    let timed := outrankedHub (.minOn 5)
    let free := outrankedHub .expired
    let dead := relayAt 0 ⟨.waitDead, none, false, .expired⟩ free
    let meek := { free with work := { free.work with groups := free.work.groups.set 0 ⟨0x003, 50, false⟩ } }
    timed.incumbent 0 = some 0 ∧ timed.work.groups[0].preempt = true ∧ outranks timed 0 1 = true ∧
      (timed.relay 0).state = .on ∧ timed.minOnRunning 0 = true ∧ free.incumbent 0 = some 0 ∧ outranks free 0 1 = true ∧
      free.minOnRunning 0 = false ∧ dead.incumbent 0 = some 0 ∧ (dead.relay 0).state = .waitDead ∧ outranks dead 0 1 = true ∧
      meek.incumbent 0 = some 0 ∧ meek.work.groups[0].preempt = false ∧ free.groupOf 0 = some 0 ∧ free.relayCond = .running ∧
      ((free.contest 0 free).relay 0).state = .heldOff ∧ (free.relay 0).state ≠ .heldOff ∧ free.namesRelay 0 0 = true ∧
      free.sourcePort 0 = some .p0 ∧ free.attached .p0 = true ∧ (free.contest 0 free).hasFlag .p0 .interlock = true ∧
      free.hasFlag .p0 .interlock = false := by decide +kernel

theorem test_premises_ContestChoosesTheStrongestAndClosesOnlyWhenFree :
    let h := taking 0 .on (.port .p0 3) (relayAt 0 ⟨.waitDead, none, false, .expired⟩ (grouped runHub))
    h.choose 0 = some 0 ∧ runHub.choose 0 = none ∧ (h.relay 0).output = false ∧ ((h.closeChosen 0).relay 0).output = true ∧
      h.namesRelay 0 0 = true ∧ h.deadTimer 0 = .expired ∧ h.minOffRunning 0 = false ∧ (h.relay 0).state = .waitDead ∧
      (∀ q, h.namesRelay 0 q = true → q ≠ 0 → (h.relay q).output = false) ∧
      (h.setDead 0 (.running 1 false)).deadTimer 0 ≠ .expired ∧ ∀ q, (runHub.relay q).state ≠ .waitDead := by
  decide +kernel

/-- The first step of a pass: relay 0 of group 0 leaves, waits, returns or withdraws. -/
theorem test_premises_ContestSettles :
    let at0 (x : Relay) (v : Command) : Hub := taking 0 v (.port .p0 3) (relayAt 0 x (grouped runHub))
    let closed : Relay := ⟨.on, none, true, .expired⟩
    let timed : Relay := ⟨.on, none, true, .minOn 5⟩
    let leaving (why : LeaveReason) (m : MinMark) : Relay := ⟨.waitMinOn, some why, true, m⟩
    (at0 closed .off).groupOf 0 = some 0 ∧ (at0 closed .off).minOnRunning 0 = false ∧ (at0 closed .off).asksOn 0 = false ∧
      (((at0 closed .off).settleMember 0).relay 0).state = .off ∧
      ((at0 closed .off).settleMember 0).deadTimer 0 = .running 6000 false ∧
      (((at0 closed .off).setDead 0 (.running 5 false)).settleMember 0).deadTimer 0 = .running 6000 true ∧
      ((at0 timed .off).settleMember 0).relay 0 = leaving .command (.minOn 5) ∧
      ((at0 (leaving .command (.minOn 5)) .on).settleMember 0).relay 0 = timed ∧
      ((at0 (leaving .preempted (.minOn 5)) .on).settleMember 0).relay 0 = leaving .preempted (.minOn 5) ∧
      (((at0 (leaving .preempted .expired) .on).settleMember 0).relay 0).state = .heldOff ∧
      (((at0 (leaving .command .expired) .off).settleMember 0).relay 0).state = .off ∧
      (((at0 ⟨.heldOff, none, false, .expired⟩ .off).settleMember 0).relay 0).state = .off ∧
      (((at0 ⟨.waitDead, none, false, .expired⟩ .off).settleMember 0).relay 0).state = .off := by decide +kernel

/-- Relays 0 and 1 ask together: the one of the higher level is chosen and the other held off; with an incumbent, both. -/
theorem test_premises_ContestHoldsOff :
    let h := taking 1 .on (.port .p1 5) (taking 0 .on (.port .p0 3) (grouped runHub))
    h.choose 0 = some 1 ∧ ((h.chooseAndHold 0 none).relay 1).state = .waitDead ∧
      ((h.chooseAndHold 0 none).relay 0).state = .heldOff ∧ ((h.chooseAndHold 0 (some 0)).relay 1).state = .heldOff ∧
      ((h.chooseAndHold 0 (some 0)).relay 0).state = .off ∧ (h.contestPass 0).2 = true ∧
      ((h.contestPass 0).1.contestPass 0).2 = false := by decide +kernel

theorem test_premises_ReferenceStartsOrWaits :
    runHub.MayAsk .p0 ∧ runHub.mode = .run ∧ stepperOf 21 = some 0 ∧ stepperOf 22 = some 1 ∧
      runHub.winnerPort (stepperChannel 0) = none ∧ (runHub.stepper 0).ref ≠ .referencing ∧
      (runHub.stepper 0).refReq = false ∧ (runHub.stepper 0).engine = .idle ∧ movingHub.MayAsk .p0 ∧
      (movingHub.stepper 0).engine = .moving .up 5 ∧
      ((stepperAt 0 (fun t => { t with engine := .reversing 3 }) runHub).stepper 0).engine = .reversing 3 := by decide +kernel

theorem test_premises_StepCompletionMovesThePositionOrRests :
    movingHub.mode = .run ∧ (movingHub.stepper 0).cond = .running ∧ (movingHub.stepper 0).engine = .moving .up 5 ∧
      (movingHub.stepper 0).ref = .referenced ∧
      (movingHub.chan (stepperChannel 0)).taken = some ⟨.target 101 4, .port .p0 4⟩ ∧ movingHub.attached .p0 = true ∧
      (movingHub.stepper 0).pos + 1 = min 101 movingHub.work.steppers[0].travel ∧
      (movingHub.stepper 0).pos + 1 ≠ min 50 movingHub.work.steppers[0].travel ∧
      (movingHub.stepper 0).pos + 1 < min 1000 movingHub.work.steppers[0].travel ∧
      ((stepperAt 0 (fun t => { t with refReq := true }) movingHub).stepper 0).refReq = true ∧
      movingHub.stepInhibit = false ∧ { movingHub with stepInhibit := true }.stepInhibit = true ∧
      drainingHub.mode = .holding ∧ (drainingHub.stepper 0).cond = .draining ∧
      (drainingHub.stepper 0).engine = .moving .up 5 ∧ (drainingHub.stepper 1).engine = .idle ∧
      (drainingHub.stepper 0).pos + 1 = min 101 drainingHub.work.steppers[0].travel ∧
      (drainingHub.chan (stepperChannel 0)).taken = some ⟨.target 101 4, .port .p0 4⟩ ∧
      (drainingHub.stepper 0).refReq = false ∧ drainingHub.attached .p0 = true ∧
      ((stepperAt 0 (fun t => { t with refReq := true }) drainingHub).stepper 0).refReq = true ∧
      ((stepperAt 0 (fun t => { t with refReq := true }) drainingHub).stepper 0).engine = .moving .up 5 ∧
      ((stepperAt 0 (fun t => { t with engine := .moving .down 5, refReq := true }) movingHub).stepper 0).engine =
        .moving .down 5 := by decide +kernel

/-- SU0 drains the first step of a referencing run of two; SU1 is at rest. -/
def drainingRunHub : Hub :=
  stepperAt 0 (fun t => { t with ref := .referencing, engine := .referencing 5, runCount := 2, lastDir := some .down }) drainingHub

/-- R118, R122, R125: a waiting REFERENCE starts its run after a step UP with the reversal pause; the last step of a run
arrives or turns; the drain of a run brings HELD. -/
theorem test_runs_start_and_end :
    let asked := stepperAt 0 (fun t => { t with refReq := true }) movingHub
    let last := stepperAt 0 (fun t => { t with runCount := 1 })
    ((hubAfter (.stepCompletion 0) asked).stepper 0).engine = .reversing (Config.ms 40) ∧
      ((hubAfter (.stepCompletion 0) asked).stepper 0).runCount = 1050 ∧
      ((hubAfter (.referencingStepCompletion 0) (last runningHub)).stepper 0).engine = .idle ∧
      ((hubAfter (.referencingStepCompletion 0) (last (taking 21 (.target 101 4) (.port .p0 4) runningHub))).stepper 0).engine =
        .reversing (Config.ms 40) ∧
      (hubAfter (.referencingStepCompletion 0) drainingRunHub).mode = .held ∧
      (hubAfter (.referencingStepCompletion 0) drainingRunHub).hasFlag .p1 .holdEffective = true := by decide +kernel

theorem test_premises_ReferencingStepCountsTheRunDown :
    (runningHub.stepper 0).engine = .referencing 5 ∧ (runningHub.stepper 0).cond = .running ∧
      (runningHub.stepper 0).runCount = 2 ∧ runningHub.mode ≠ .holding ∧
      ((stepperAt 0 (fun t => { t with runCount := 1 }) runningHub).stepper 0).runCount ≤ 1 ∧
      ((stepperAt 0 (fun t => { t with cond := .draining }) runningHub).stepper 0).cond = .draining ∧
      runningHub.stepInhibit = false ∧ { runningHub with stepInhibit := true }.stepInhibit = true ∧
      (drainingRunHub.stepper 0).engine = .referencing 5 ∧ (drainingRunHub.stepper 0).cond = .draining ∧
      drainingRunHub.mode = .holding ∧ (drainingRunHub.stepper 1).engine = .idle ∧ drainingRunHub.attached .p0 = true := by
  decide +kernel

theorem test_premises_PausedStepsGoOn :
    let pause := stepperAt 0 fun t => { t with engine := .reversing 1 }
    let stop := stepperAt 0 fun t => { t with engine := .paused, lastDir := none }
    ((pause runHub).stepper 0).engine = .reversing 1 ∧ ((pause runHub).stepper 0).ref = .referenced ∧
      ((pause runHub).stepper 0).refReq = false ∧ ((pause runningHub).stepper 0).ref = .referencing ∧
      ((stop runningHub).stepper 0).engine = .paused ∧ ((stop runningHub).stepper 0).cond = .running ∧
      ((stop runningHub).stepper 0).ref = .referencing ∧ ((stop movingHub).stepper 0).engine = .paused ∧
      ((stop movingHub).stepper 0).ref = .referenced ∧ ((stop movingHub).stepper 0).lastDir = none ∧
      ((stop movingHub).stepper 0).pos ≠ (stop movingHub).pursued 0 ∧ (runHub.stepper 0).engine ≠ .paused ∧
      ((stepperAt 0 (fun t => { t with refReq := true }) (pause runHub)).stepper 0).refReq = true ∧
      ((stepperAt 0 (fun t => { t with refReq := true }) (pause runHub)).stepper 0).ref ≠ .referencing ∧
      (pause runHub).stepInhibit = false ∧ { pause runningHub with stepInhibit := true }.stepInhibit = true ∧
      ((stepperAt 0 (fun t => { t with refReq := true }) (stop runHub)).stepper 0).refReq = true ∧
      ((stop runHub).stepper 0).engine = .paused ∧ ((stop runHub).stepper 0).refReq = false ∧
      ((taking 21 (.target 100 4) (.port .p0 4) (stop runHub)).stepper 0).pos =
        (taking 21 (.target 100 4) (.port .p0 4) (stop runHub)).pursued 0 ∧
      ((taking 21 (.target 100 4) (.port .p0 4) (stop runHub)).chan (stepperChannel 0)).taken =
        some ⟨.target 100 4, .port .p0 4⟩ := by decide +kernel

theorem test_premises_ChimeIsQueuedOrStartedAgain :
    let full := { runHub with sounder := { chimingHub.sounder with queue := List.replicate 4 ⟨.p1, 0, 1, .long⟩ } }
    chimingHub.MayAsk .p0 ∧ chimingHub.mode = .run ∧ (7 : Byte).toNat ≤ 7 ∧ 1 ≤ (8 : Byte).toNat ∧ (8 : Byte).toNat ≤ 8 ∧
      lengthOf 1 = some .long ∧ (chimingHub.chan soundChannel).eff.command = .off ∧
      chimingHub.sounder.engine = .playing 100 ∧ chimingHub.sounder.queue = [⟨.p0, 2, 4, .short⟩, ⟨.p1, 5, 4, .long⟩] ∧
      chimingHub.retriggers .p0 7 = false ∧ chimingHub.sounder.queue.length < 4 ∧
      (runHub.sounder.engine = .ready ∧ runHub.sounder.queue = []) ∧ runHub.retriggers .p0 7 = false ∧ full.MayAsk .p0 ∧
      full.retriggers .p0 7 = false ∧ 4 ≤ full.sounder.queue.length := by decide +kernel

theorem test_premises_SilenceWithdrawsThePortsChimes : chimingHub.MayAsk .p0 ∧ chimingHub.chimesOf .p0 ≠ 0 := by decide +kernel

theorem test_premises_ChimesAndEnvelopePlayInTime :
    chimingHub.sounder.engine = .playing 100 ∧ chimingHub.sounder.queue = [⟨.p0, 2, 4, .short⟩, ⟨.p1, 5, 4, .long⟩] ∧
      runHub.sounder.engine = .ready ∧ toneHub.sounder.tone = .sounding ∧ toneHub.sounder.decay = some 1200 ∧
      chimingHub.sounder.chimeCut = false ∧ toneHub.sounder.decayCut = false ∧
      (hubAfter (.chime .p0 2 6 1) chimingHub).sounder.chimeCut = true ∧
      (hubAfter (.chime .p0 2 6 1) chimingHub).sounder.engine = .playing 1920 ∧
      (hubAfter (.claim .p0 20 4 0x050281 0) toneHub).sounder.decayCut = true ∧
      { chimingHub with sounder := { chimingHub.sounder with engine := .gap 1 } }.sounder.engine = .gap 1 ∧
      runHub.sounder.tone = .silent ∧
      (toneHub.chan soundChannel).taken = some ⟨.tone 2 8 .fast, .port .p0 4⟩ := by decide +kernel

theorem test_premises_TonesTakeTheSounderOverAndRenew :
    let h := taking 20 (.tone 2 8 .fast) (.port .p0 4) chimingHub
    h.sounder.cond = .running ∧ (h.sounder.engine = .ready ↔ h.sounder.queue = []) ∧
      h.soundCommand = some (.tone 2 8 .fast) ∧ runHub.soundCommand = some .off ∧ h.attached .p1 = true ∧
      toneHub.MayAsk .p0 ∧ toneHub.mode = .run ∧ toneHub.sounder.cond = .running ∧ (4 : Byte).toNat = 4 ∧
      toneHub.sounder.decay.isSome = true ∧
      (let other := taking 20 (.tone 3 6 .fast) (.port .p0 4) toneHub
       other.sounder.cond = .running ∧ (other.sounder.engine = .ready ↔ other.sounder.queue = []) ∧
         other.soundCommand = some (.tone 3 6 .fast) ∧ other.sounder.decay.isSome = true ∧
         (hubAfter .decayTimerExpiry (other.sounderTakes true)).sounder.level = 6) ∧
      (let beaten := claimed 20 [live .p1 4 (.tone 5 7 .slow) .drop, live .p0 3 (.tone 2 8 .fast) .drop] toneHub
       claimOf .p0 (beaten.chan soundChannel).claims = some (live .p0 3 (.tone 2 8 .fast) .drop) ∧
         (hubAfter (.claim .p0 20 5 0x050281 0) beaten).winnerPort soundChannel = some .p0 ∧
         (hubAfter (.claim .p0 20 5 0x050281 0) beaten).sounder.level = 8) ∧
      claimOf .p0 (toneHub.chan soundChannel).claims = some (live .p0 4 (.tone 2 8 .fast) .drop) ∧
      (hubAfter (.claim .p0 20 5 0x050281 0) toneHub).winnerPort soundChannel = some .p0 ∧
      commandFor toneHub.work soundChannel 0x050281 = some (.tone 2 8 .fast) ∧ policyOf 0 = some .drop ∧
      (toneHub.chan soundChannel).claims = [live .p0 4 (.tone 2 8 .fast) .drop] := by decide +kernel

theorem test_premises_LampsFollowTheFlashClock :
    Hub.reset.flash = none ∧ { runHub with flash := some (Config.ms 1000 - 1) }.flash = some 11999 ∧
      Config.ms 1000 - 1 < Config.ms 1000 ∧ Config.ms 500 - 1 < Config.ms 500 := by decide +kernel

/-- Slot 0 is a TOTAL slot. -/
def totalHub : Hub := { runHub with work := { runHub.work with slots := runHub.work.slots.set 0 ⟨.total, .p0, 0⟩ } }

theorem test_premises_SamplesAndZeroesSetTheSlot :
    runHub.MayAsk .p0 ∧ runHub.mode ≠ .faultHold ∧ indexOf 8 7 = some 7 ∧ -2000000000 ≤ (0x88CA6C00 : BitVec 32).toInt ∧
      (0x77359400 : BitVec 32).toInt ≤ 2000000000 ∧ (0x77359401 : BitVec 32).toInt = 2000000001 ∧
      runHub.work.slots[7].source = .p0 ∧ totalHub.MayAsk .p0 ∧ indexOf 8 0 = some 0 ∧
      totalHub.work.slots[0].source = .p0 ∧ totalHub.work.slots[0].mode = .total := by decide +kernel

theorem test_premises_SampledValuesAreRoundedAndClamped :
    scaleRaw 3 500 = 2 ∧ scaleRaw (-3) 500 = -2 ∧ scaleRaw 1234 1500 = 1851 ∧
      sampledValue ⟨.total, .p0, 0⟩ ⟨1000, 7⟩ 1999999990 25 = 2000000000 := by decide +kernel

theorem test_premises_EvaluationMovesASetpoint :
    let i : SetpointItem := ⟨true, 0, .above, 2800, 200, 0, 10, 0, .on, true, true⟩
    decide (i.threshold < 2801) = true ∧ decide (i.threshold < 2800) = false ∧
      decide ((2600 : Int) ≤ i.threshold - i.hysteresis) = true ∧ decide ((2601 : Int) ≤ i.threshold - i.hysteresis) = false ∧
      (Setpoint.mk .inactive false none false).evaluated i 2801 = ⟨.active, true, none, false⟩ ∧
      (Setpoint.mk .inactive false none false).evaluated { i with makeDelay := 1 } 2801 = ⟨.making, true, some 1200, false⟩ ∧
      (Setpoint.mk .latched false none false).evaluated i 2801 = ⟨.active, true, none, false⟩ ∧
      (Setpoint.mk .active true none false).evaluated i 2600 = ⟨.breaking, false, some 12000, false⟩ ∧
      (Setpoint.mk .making true (some 5) false).evaluated i 2600 = ⟨.inactive, false, none, false⟩ ∧
      (Setpoint.mk .active true none false).evaluated i 2601 = ⟨.active, true, none, false⟩ := by decide +kernel

theorem test_premises_FreshnessExpiryFailsTheSetpoints :
    ((runHub.setSlot 7 ⟨.fresh, 5, some 0, false⟩).slot 7).timer = some 0 ∧
      ((runHub.setSlot 7 ⟨.fresh, 5, some 0, false⟩).slot 7).cut = false ∧
      ((runHub.setSlot 7 ⟨.fresh, 5, some 9, true⟩).slot 7).timer.isSome = true ∧
      ((runHub.setSlot 7 ⟨.fresh, 5, some 9, true⟩).slot 7).cut = true ∧ (runHub.slot 7).timer = none := by decide +kernel

theorem test_premises_DelaysAndAcknowledgementsMoveOneSetpoint :
    ((runHub.setSetpoint 15 ⟨.making, true, some 1, false⟩).setpoint 15).state = .making ∧
      ((runHub.setSetpoint 15 ⟨.making, true, some 1, false⟩).setpoint 15).timer = some 1 ∧
      ((runHub.setSetpoint 15 ⟨.making, true, some 1, false⟩).setpoint 15).cut = false ∧
      ((runHub.setSetpoint 15 ⟨.making, true, some 1, true⟩).setpoint 15).cut = true ∧ (runHub.setpoint 15).timer = none ∧
      ((runHub.setSetpoint 15 ⟨.breaking, false, some 1, false⟩).setpoint 15).state = .breaking ∧ runHub.MayAsk .p2 ∧
      runHub.mode ≠ .faultHold ∧ indexOf 16 15 = some 15 ∧ (runHub.setpoint 15).state ≠ .latched ∧
      ((runHub.setSetpoint 15 ⟨.latched, false, none, false⟩).setpoint 15).state = .latched := by decide +kernel

/-- Log 26: a CONFIG_WRITE starts a make delay anew; the expiry of the run it discards leaves the setpoint MAKING. -/
theorem test_a_write_cuts_a_make_delay_short :
    let item : SetpointItem := ⟨true, 0, .above, 2800, 200, 9, 10, 0, .on, true, true⟩
    let slow := { heldHub with work := { heldHub.work with setpoints := heldHub.work.setpoints.set 0 item } }
    let making := (slow.setSlot 0 ⟨.fresh, 3000, none, false⟩).setSetpoint 0 ⟨.making, true, some 1, false⟩
    let written := hubAfter (.configWrite .p0 5 0 5 0x08) making
    written.setpoint 0 = ⟨.making, true, some 9600, true⟩ ∧
      (hubAfter (.delayTimerExpiry 0) written).setpoint 0 = ⟨.making, true, some 9600, false⟩ ∧
      ((hubAfter (.delayTimerExpiry 0) making).setpoint 0).state = .active := by decide +kernel

/-- Log 26: a member list written starts a dead timer anew; the expiry of the run it discards leaves the timer running. -/
theorem test_a_write_cuts_a_dead_time_short :
    let written := hubAfter (.configWrite .p0 3 0 0 3) ((grouped heldHub).setDead 0 (.running 1 false))
    written.deadTimer 0 = .running 6000 true ∧
      (hubAfter (.deadTimerExpiry 0) written).deadTimer 0 = .running 6000 false := by decide +kernel

theorem test_premises_LocalLayerCombinesTheDrivingSetpoints :
    let h := (watching runHub).setSetpoint 0 ⟨.active, true, none, false⟩
    let aims (t : Fin 21) (v : Command) : Hub := { h with work := { h.work with
      setpoints := h.work.setpoints.set 0 { h.work.setpoints[0] with target := t, command := v } } }
    kindOf 22 = .stepper ∧ (∀ n : Fin 16, runHub.driving n = true → targetChannel runHub.work.setpoints[n].target ≠ 0) ∧
      kindOf 11 = .relay ∧ kindOf 12 = .lamp ∧ kindOf 19 = .lamp ∧ kindOf 20 = .sounder ∧ h.driving 0 = true ∧
      targetChannel h.work.setpoints[0].target = 0 ∧ (aims 19 (.slow 3)).localLayer 19 = ⟨.command (.slow 3), true⟩ ∧
      (aims 20 (.tone 7 1 .none)).localLayer 20 = ⟨.command (.tone 7 1 .none), true⟩ := by decide +kernel

theorem test_premises_HoldFreezesTheOutputs :
    chimingHub.MayAskGranted .p0 ∧ chimingHub.mode = .run ∧ movingHub.MayAskGranted .p0 ∧
      (movingHub.stepper 0).engine = .moving .up 5 ∧ runningHub.MayAskGranted .p0 ∧
      (runningHub.stepper 0).engine = .referencing 5 ∧ (runningHub.stepper 1).engine = .idle ∧
      ((stepperAt 0 (fun t => { t with engine := .paused }) runningHub).stepper 0).ref = .referencing ∧
      ((stepperAt 0 (fun t => { t with engine := .paused }) runningHub).MayAskGranted .p0) ∧
      ((stepperAt 0 (fun t => { t with engine := .paused }) runningHub).stepper 0).engine = .paused ∧
      ((stepperAt 0 (fun t => { t with engine := .reversing 3 }) runningHub).stepper 0).engine = .reversing 3 := by decide +kernel

/-- In FAULT_HOLD with SU0 UNREFERENCED and its auto-reference on. -/
def autoHub : Hub :=
  let h := stepperAt 0 (fun t => { t with ref := .unreferenced }) faultHub
  { h with work := { h.work with steppers := h.work.steppers.set 0 { h.work.steppers[0] with autoRef := true } } }

/-- P0's TONE was claimed in HELD, and waits. -/
def heldToneHub : Hub := claimed 20 [live .p0 4 (.tone 2 8 .fast) .drop] heldHub

theorem test_premises_the_frozen_engines_of_an_entry_into_RUN :
    heldHub.relayCond = .frozen ∧ heldHub.sounder.cond = .frozen ∧ (∀ u, (heldHub.stepper u).cond ≠ .running) ∧
      faultHub.relayCond = .frozen ∧ faultHub.sounder.cond = .frozen ∧ (∀ u, (faultHub.stepper u).cond ≠ .running) ∧
      faultHub.starting = true ∧ heldHub.starting = false ∧ autoHub.MayAskGranted .p0 ∧ autoHub.mode = .faultHold ∧
      autoHub.storeOp = none ∧ (autoHub.stepperItem 0).autoRef = true ∧ (autoHub.stepper 0).ref = .unreferenced ∧
      (∀ u, (autoHub.stepper u).cond ≠ .running) ∧ ((hubAfter (.acceptFault .p0) autoHub).stepper 0).ref = .referencing := by decide +kernel

theorem test_premises_the_thaws_of_an_entry_into_RUN :
    heldHub.groupOf 0 = none ∧ (heldHub.relay 0).state = .off ∧ (relayAt 0 ⟨.on, none, true, .expired⟩ heldHub).groupOf 0 = none ∧
      ((hubAfter (.resume .p0) heldToneHub).soundCommand = some (.tone 2 8 .fast)) ∧ heldToneHub.MayAskGranted .p0 ∧
      heldToneHub.mode = .held ∧ (hubAfter (.resume .p0) heldToneHub).sounder.level = 8 ∧
      (hubAfter (.resume .p0) heldHub).soundCommand = some .off ∧ (heldHub.stepper 0).cond = .stopped ∧
      (heldHub.stepper 0).ref = .referenced ∧ (heldHub.stepper 0).pos ≠ heldHub.pursued 0 ∧
      ((taking 21 (.target 100 4) (.port .p0 4) heldHub).stepper 0).pos =
        (taking 21 (.target 100 4) (.port .p0 4) heldHub).pursued 0 ∧ heldHub.waitingChange false 0 = false ∧ faultHub.waitingChange true 0 = true ∧
      (drainingHub.stepper 0).cond = .draining ∧ drainingHub.starting = false ∧ (drainingHub.stepper 1).cond ≠ .running := by decide +kernel

theorem test_premises_HeldIsEnteredAtRestAndRunOnRequest :
    { heldHub with mode := .holding }.atRest = true ∧ drainingHub.atRest = false ∧ heldHub.mode ≠ .holding ∧
      heldHub.MayAskGranted .p0 ∧ heldHub.mode = .held ∧ heldHub.storeOp = none ∧ faultHub.MayAskGranted .p0 ∧
      faultHub.mode = .faultHold ∧ faultHub.storeOp = none ∧ drainingHub.MayAskGranted .p0 ∧
      { heldHub with storeOp := some (.ports, .p0) }.MayAskGranted .p0 := by decide +kernel

theorem test_premises_ClearFirstFaultClearsTheRecord :
    let bad := { Hub.reset with storedGood := Hub.reset.storedGood.set 2 false }
    Hub.reset.takesFrames .p0 = true ∧ faultHub.takesFrames .p0 = true ∧ faultHub.mode ≠ .startup ∧
      faultHub.attached .p0 = true ∧ (faultHub.portItem .p0).configGrant = true ∧ (faultHub.portItem .p1).configGrant = false ∧
      (standing .p0 .detached faultHub).attached .p0 = false ∧ bad.mode = .startup ∧ bad.resetNLow = false ∧
      bad.firstFault = 0 ∧ bad.faultsFound true = [3] ∧ bad.faultsFound false = [7] := by decide +kernel

theorem test_premises_HubResetsResetThePart :
    runHub.resetNLow = false ∧ { runHub with resetNLow := true }.resetNLow = true ∧ runHub.MayAskGranted .p0 ∧
      (runHub.portItem .p1).configGrant = false ∧ runHub.MayAsk .p1 := by decide +kernel

theorem test_premises_EndOfLoadFillsTheWorkingCopies :
    runHub.mode ≠ .startup ∧ Hub.reset.mode = .startup ∧ Hub.reset.resetNLow = false ∧ Hub.reset.faults = 0 ∧
      (hubAfter (.endOfLoad true) Hub.reset).mode = .run ∧ (hubAfter (.endOfLoad false) Hub.reset).mode = .faultHold ∧
      Hub.reset.relayCond = .frozen ∧ Hub.reset.sounder.cond = .frozen ∧ (∀ u, (Hub.reset.stepper u).cond ≠ .running) ∧
      (∀ u, (Hub.reset.stepper u).engine = .idle) := by decide +kernel

theorem test_premises_ConfigReadAnswersTheWorkingCopy :
    runHub.MayAsk .p0 ∧ Block.ofByte 6 = some .calibration ∧ runHub.work.read .calibration 7 1 = some 0 ∧
      runHub.work.read .calibration 8 1 = none ∧ Block.ofByte 7 = none := by decide +kernel

/-- Relays 0 and 1 are physically ON. -/
def twoOnHub : Hub := relayAt 1 ⟨.on, none, true, .expired⟩ (relayAt 0 ⟨.on, none, true, .expired⟩ heldHub)

theorem test_premises_ConfigWritesAreTakenOrRefused :
    heldHub.MayAskGranted .p0 ∧ heldHub.mode = .held ∧ Block.ofByte 3 = some .groups ∧ heldHub.writingBlock .groups = false ∧
      (heldHub.fieldWritten 3 0 0 1).isNone = true ∧ (heldHub.fieldWritten 3 0 0 3).isSome = true ∧
      twoOnHub.MayAskGranted .p0 ∧ (twoOnHub.relay 0).output = true ∧ (twoOnHub.relay 1).output = true ∧
      (3 : BitVec 32).getLsbD 0 = true ∧ (3 : BitVec 32).getLsbD 1 = true ∧ nearlyFullHub.holding .p1 = 16 ∧
      (heldHub.portItem .p1).configGrant = false ∧ (heldHub.portItem .p2).configGrant = false ∧
      memberListFits 0x001 = false ∧ memberListFits 0x01F = false ∧ (grouped heldHub).namesRelay 0 0 = true ∧
      (heldHub.stepper 0).ref = .referenced ∧ (99 : BitVec 32).toNat < (heldHub.stepper 0).pos ∧
      { heldHub with storeOp := some (.ports, .p0) }.MayAsk .p0 ∧ heldHub.MayAsk .p1 ∧ runHub.MayAsk .p0 ∧
      (1 : Byte).toNat = 1 ∧ (6 : Byte).toNat = 6 ∧ (0 : Byte).toNat < 1 ∧ 6 < (7 : Byte).toNat := by decide +kernel

/-- R177: the fields taken, and those refused, at the ends of their ranges. -/
theorem test_writes_at_the_ends_of_the_ranges :
    let takes (b : Block) (item field : Byte) (v : BitVec 32) : Bool := (heldHub.write b item field v).isSome
    let low : Hub := { heldHub with work := { heldHub.work with fallbacks := heldHub.work.fallbacks.set 22 (.position 300) } }
    let aimed : Hub := claimed 22 [live .p0 3 (.target 400 4) .keep] heldHub
    [takes .ports 2 3 1, takes .ports 2 2 48, takes .channels 0 0 0x010000, takes .channels 12 0 0x040800,
        takes .channels 20 0 0x050782, takes .channels 21 0 0x0803E8, takes .channels 22 1 127, takes .channels 11 4 255,
        takes .channels 22 3 4095, takes .channels 22 5 8, takes .groups 3 0 0xF00, takes .slots 7 1 2,
        takes .setpoints 15 3 2000000000, takes .setpoints 15 7 20, takes .setpoints 15 8 0x010000, takes .setpoints 15 10 1,
        takes .calibration 7 0 65535, takes .calibration 7 1 0xFFF0BDC0, (low.write .channels 22 3 300).isSome,
        (aimed.write .channels 22 3 400).isSome].all id = true ∧
      [takes .ports 3 3 1, takes .ports 2 3 256, takes .ports 2 2 49, takes .channels 23 1 20, takes .channels 0 0 0x020100,
        takes .channels 12 0 0x040900, takes .channels 12 0 0x040801, takes .channels 20 0 0x050783, takes .channels 21 0 0x0803E9,
        takes .channels 21 0 0x060000, takes .channels 22 1 4, takes .channels 12 3 0, takes .channels 22 3 99,
        takes .channels 22 3 4096, takes .channels 22 5 9, takes .groups 3 0 0x1000, takes .slots 7 1 3,
        takes .setpoints 15 3 2000000001, takes .setpoints 15 4 0xFFFFFFFF, takes .setpoints 15 7 21,
        takes .setpoints 15 8 0x020100, takes .setpoints 15 11 0, takes .calibration 7 0 0, takes .calibration 7 1 0xFFF0BDBF,
        (low.write .channels 22 3 299).isSome, (aimed.write .channels 22 3 399).isSome].any id = false := by decide +kernel

theorem test_premises_WrittenFieldsReadBack :
    (heldHub.write .ports 1 3 255).isSome = true ∧ (heldHub.write .setpoints 0 7 12).isSome = true ∧
      (heldHub.write .channels 20 3 1).isSome = true ∧
      (heldHub.write .calibration 0 1 1).isSome = true ∧ (heldHub.write .groups 0 1 50).isSome = true ∧
      (heldHub.write .slots 0 2 7).isSome = true ∧ (heldHub.write .channels 3 1 30).isSome = true ∧
      (heldHub.write .channels 3 0 0x010000).isSome = true ∧ channelNo 3 = some 3 ∧
      ((heldHub.write .channels 3 0 0x010000).map fun t => t.localLayer 3 != (heldHub.chan 3).input) = some true ∧
      ((heldHub.write .channels 3 0 0).map fun t => t.localLayer 3 == (heldHub.chan 3).input) = some true ∧
      (heldHub.write .channels 21 5 3).isSome = true ∧ channelNo 21 = some (stepperChannel 0) ∧
      (heldHub.write .groups 3 0 3).isSome = true ∧ (heldHub.write .groups 3 0 0).isSome = true ∧ indexOf 4 3 = some 3 ∧
      (heldHub.write .slots 7 0 1).isSome = true ∧ (heldHub.write .slots 7 1 1).isSome = true ∧ indexOf 8 7 = some 7 ∧
      (heldHub.write .setpoints 15 0 1).isSome = true ∧ indexOf 16 15 = some 15 ∧
      ((heldHub.write .setpoints 15 0 1).map fun t => t.work.setpoints[15].enabled) = some true ∧
      (heldHub.slot 0).state = .empty ∧ ((heldHub.setSlot 0 ⟨.fresh, 5, none, false⟩).slot 0).state = .fresh ∧
      ((heldHub.setSlot 0 ⟨.stale, 5, none, false⟩).slot 0).state = .stale ∧
      (((watching heldHub).setSlot 0 ⟨.fresh, 2801, none, false⟩).write .setpoints 0 4 0).any (fun t =>
        t.driving 0 && !((watching heldHub).driving 0)) = true ∧
      (placedHub.chan (stepperChannel 0)).claims = [] ∧ (placedHub.chan (stepperChannel 0)).input = ⟨.position 50, false⟩ ∧
      ((placedHub.write .channels 21 0 0x070000).map fun t => (t.chan 21).stay) = some (some (.target 100 4)) ∧
      (heldHub.chan (stepperChannel 0)).claims = [] ∧ (heldHub.chan (stepperChannel 0)).input = ⟨.stay, false⟩ ∧
      (heldHub.chan (stepperChannel 0)).stay = some (.target 0 4) ∧ (0x080032 : BitVec 32).toNat = 0x080000 + 50 ∧
      ((heldHub.write .channels 21 0 0x080032).map fun t => (t.chan 21).eff.command) = some (.target 50 4) ∧
      ((heldHub.write .channels 21 5 3).map fun t => (t.chan 21).stay) = some (some (.target 0 3)) := by decide +kernel

theorem test_premises_StoreWritesABlock :
    faultHub.MayAskGranted .p0 ∧ faultHub.mode = .faultHold ∧ Block.ofByte 3 = some .groups ∧ faultHub.storeOp = none ∧
      faultHub.faults.getLsbD 7 = false ∧ { faultHub with faults := 0x80 }.faults.getLsbD 7 = true ∧
      { faultHub with storeOp := some (.groups, .p0) }.MayAskGranted .p0 ∧
      { faultHub with storeOp := some (.groups, .p0) }.storeOp.isSome = true ∧ Block.ofByte 1 = some .ports ∧
      Block.ofByte 6 = some .calibration := by decide +kernel

theorem test_premises_NoticesAreReadClearedAndMasked :
    Hub.reset.takesFrames .p0 = true ∧ Hub.reset.mode = .startup ∧ (standing .p0 .detached runHub).attached .p0 = false ∧
      runHub.MayAsk .p0 ∧ (0x4000 : BitVec 16).getLsbD 14 = true ∧ (0x8000 : BitVec 16).getLsbD 15 = true ∧
      (0x3FFF : BitVec 16).getLsbD 14 = false ∧ (0x3FFF : BitVec 16).getLsbD 15 = false ∧ (1 : Byte).toNat ≤ 1 ∧
      1 < (2 : Byte).toNat ∧ (runHub.giveFlag .p0 .won).noteAsserted .p0 = true := by decide +kernel

theorem test_premises_QueriesAnswerTheirRecords :
    Hub.reset.takesFrames .p0 = true ∧ runHub.MayAsk .p0 ∧ channelNo 22 = some 22 ∧ channelNo 23 = none ∧
      indexOf 8 7 = some 7 ∧ indexOf 8 8 = none := by decide +kernel

/-- Every record is shown by some body. -/
theorem test_premises_a_record_is_shown (record : List LayoutByte) : Hub.Shows record (record.map (·.val)) := by
  refine ⟨List.length_map .., fun n x b here there => ?_⟩
  rw [List.getElem?_map, here] at there
  cases there
  rfl

theorem test_premises_a_step_from_a_state_of_RUN : ∃ t, step ⟨contestedHub, [.enterHeld]⟩ = .next t := ⟨_, rfl⟩

theorem test_premises_StepsKeepTheClaimPool : contestedHub.PoolStands where
  lists c := by
    have key : ∀ c, ((contestedHub.chan c).claims.map (·.port)).Nodup ∧
        (contestedHub.chan c).claims.Pairwise (fun x y => y.level ≤ x.level) ∧
        (∀ x ∈ (contestedHub.chan c).claims, (1 ≤ x.level ∧ x.level ≤ 7) ∧
          commandFits (kindOf c) (contestedHub.work.travelOf c) x.value = true ∧
          (x.state = .orphaned ↔ contestedHub.isLapsed x.port = true) ∧
          (contestedHub.port x.port).tenancy ≠ .detached) := by decide +kernel
    exact ⟨(key c).1, (key c).2.1, fun x m => ((key c).2.2 x m).1, fun x m => ((key c).2.2 x m).2.1,
      fun x m => ((key c).2.2 x m).2.2.1, fun x m => ((key c).2.2 x m).2.2.2⟩
  handovers c := by
    have none : ∀ c, (contestedHub.chan c).handover.pending = none := by decide +kernel
    have asked : ∀ p, (contestedHub.port p).asked = 0 := fun p => by cases p <;> decide +kernel
    exact ⟨fun w h => by rw [none c] at h; exact absurd h nofun, fun p => by rw [none c, asked p]; simp⟩
  size := by decide +kernel
  quotas p := by cases p <;> decide +kernel
  emptyBeforeRun h := absurd h (by decide +kernel)

theorem test_premises_StepsKeepTheInterlock : runHub.InterlockStands ∧ runHub.RelaysStand :=
  have off : ∀ r, (runHub.relay r).output = false ∧ (runHub.relay r).state = .off := by decide +kernel
  have apart : Hub.GroupsApart factoryBlocks := by unfold Hub.GroupsApart; decide +kernel
  ⟨⟨fun _ q _ _ _ hq => absurd hq (by simp [(off q).1]), apart, apart, by decide +kernel, fun _ r => (off r).1⟩,
    ⟨fun r => by simp [(off r).1, (off r).2], fun _ r => Or.inr (off r).2⟩⟩

theorem test_premises_StepsKeepSoundAndLight : chimingHub.ChimesStand ∧ chimingHub.SightAndSoundStand :=
  ⟨⟨by decide +kernel, by decide +kernel⟩, ⟨by decide +kernel, by decide +kernel⟩⟩

theorem test_premises_StepsKeepArbitration : contestedHub.ArbitrationStands ∧ contestedHub.LayersStand := by
  refine ⟨⟨fun c => ⟨?_, ⟨?_, ?_⟩, ?_⟩, fun _ => ?_⟩, fun _ => ?_⟩
  · exact (by decide +kernel : ∀ c, (contestedHub.chan c).winner = contestedHub.winnerPort c) c
  · exact (by decide +kernel : ∀ c, (contestedHub.chan c).eff.source = contestedHub.sourceOf c) c
  · have key : ∀ c,
        ((contestedHub.chan c).claims = [live .p1 3 .on .keep, live .p0 3 .off .drop] ∧ (contestedHub.chan c).eff.command = .on) ∨
          ((contestedHub.chan c).claims = [] ∧
            ((contestedHub.chan c).input.value = .command .off ∧ (contestedHub.chan c).eff.command = .off ∨
              (contestedHub.chan c).input.value = .stay ∧
                (contestedHub.chan c).stay = some (contestedHub.chan c).eff.command)) := by decide +kernel
    rcases key c with h | ⟨h, h' | h'⟩
    · simp [h, live]
    · simp [h, h']
    · simp [h, h']
  · have run : contestedHub.mode = .run := by decide +kernel
    rw [Hub.EnginePassed, if_pos run]
    exact (by decide +kernel : ∀ c, (contestedHub.chan c).taken = some (contestedHub.chan c).eff) c
  · exact by decide +kernel
  · exact by decide +kernel

theorem test_premises_StepsKeepSteppersWithinTravel : ∀ u, movingHub.MotionStands u := by
  intro u
  have key : ∀ u, movingHub.mode = .run ∧ (movingHub.stepper u).cond = .running ∧ (movingHub.stepper u).ref = .referenced ∧
      (movingHub.stepper u).pos = 100 ∧ (movingHub.stepperItem u).travel = 1000 ∧
      ((movingHub.stepper u).engine = .moving .up 5 ∨ (movingHub.stepper u).engine = .idle) := by decide +kernel
  obtain ⟨mode, cond, ref, pos, travel, h | h⟩ := key u <;>
    constructor <;> simp [mode, cond, ref, pos, travel, h]

end Sys2Proof.Tests
end

section
/-! The checks every standing request begins with (R72), and KEEP, which has no others (R65). -/

namespace Sys2Proof.Machine
namespace Hub

/-- In STARTUP the answer is STARTING, whatever the tenancy of the port. -/
theorem refuseFirst_standing_startup {h : Hub} (p : Port) (taken : Hub) (startup : h.mode = .startup) :
    h.refuseFirst p (h.standing p) taken = h.respond p .starting [] :=
  refuseFirst_first p _ h taken (true, .starting) (by simp [standing, startup])

/-- Past STARTUP a port that is not ATTACHED is answered NOT_ATTACHED. -/
theorem refuseFirst_standing_notAttached {h : Hub} {p : Port} (taken : Hub) (mode : h.mode ≠ .startup)
    (out : h.attached p = false) : h.refuseFirst p (h.standing p) taken = h.respond p .notAttached [] :=
  refuseFirst_first p _ h taken (true, .notAttached) (by simp [standing, mode, out])

/-- Past STARTUP an ATTACHED port fails neither check. -/
theorem refuseFirst_standing_taken {h : Hub} {p : Port} (taken : Hub) (mode : h.mode ≠ .startup)
    (live : h.attached p = true) : h.refuseFirst p (h.standing p) taken = taken :=
  refuseFirst_pass p _ h taken (standing_pass mode live)

end Hub

/-- A KEEP that is heard is decided on the part with the lease restarted. -/
theorem exec_keep_heard {p : Port} {s : State} (heard : s.hub.takesFrames p = true) :
    exec (.keep p) s = .next { s with hub := Hub.decideKeep p (Hub.restartLease p s.hub) } :=
  onRequest_heard p (Hub.decideKeep p) s heard

/-- Settles O9, by the three ways the standing checks end; the lease restart moves neither the mode nor who is ATTACHED,
and without an ATTACHED port it does nothing. -/
theorem keepRestartsTheLeaseAndNothingMore : Obligations.KeepRestartsTheLeaseAndNothingMore := by
  intro p s heard
  rw [exec_keep_heard heard, Hub.decideKeep]
  refine ⟨fun startup => ?starting, fun mode out => ?notAttached, fun mode live => ?taken⟩
  case starting =>
    rw [Hub.refuseFirst_standing_startup _ _ (by simpa using startup)]
  case notAttached =>
    rw [Hub.restartLease_other out, Hub.refuseFirst_standing_notAttached _ mode out]
  case taken =>
    rw [Hub.refuseFirst_standing_taken _ (by simpa using mode) (by simpa using live)]

end Sys2Proof.Machine
end

section
/-! The first-fault record: CLEAR_FIRST_FAULT empties it (R172), the end of a start-up load that finds a fault fills it
(R170), and an entry into RUN keeps it (R168). -/

namespace Sys2Proof.Machine
namespace Hub

/-! ## The checks of a request that needs the configuration grant -/

theorem refuseFirst_granted_startup {h : Hub} (p : Port) (taken : Hub) (startup : h.mode = .startup) :
    h.refuseFirst p (h.granted p) taken = h.respond p .starting [] :=
  refuseFirst_first p _ h taken (true, .starting) (by simp [granted, standing, startup])

theorem refuseFirst_granted_notAttached {h : Hub} {p : Port} (taken : Hub) (mode : h.mode ≠ .startup)
    (out : h.attached p = false) : h.refuseFirst p (h.granted p) taken = h.respond p .notAttached [] :=
  refuseFirst_first p _ h taken (true, .notAttached) (by simp [granted, standing, mode, out])

theorem refuseFirst_granted_noGrant {h : Hub} {p : Port} (taken : Hub) (mode : h.mode ≠ .startup)
    (live : h.attached p = true) (bare : (h.portItem p).configGrant = false) :
    h.refuseFirst p (h.granted p) taken = h.respond p .noGrant [] :=
  refuseFirst_first p _ h taken (true, .noGrant) (by simp [granted, standing, mode, live, bare])

theorem refuseFirst_granted_taken {h : Hub} {p : Port} (taken : Hub) (mode : h.mode ≠ .startup)
    (live : h.attached p = true) (grant : (h.portItem p).configGrant = true) :
    h.refuseFirst p (h.granted p) taken = taken := by
  refine refuseFirst_pass p _ h taken fun x m => ?_
  rcases List.mem_append.mp m with m | m
  · exact standing_pass mode live x m
  · rw [List.mem_singleton.mp m, grant]
    rfl

/-! ## An entry into RUN keeps the record -/

/-- What a hand-over may move leaves the first-fault record. -/
theorem Reach.firstFault {C : Fin 23 → Bool} {h t : Hub} (a : Reach C h t) : t.firstFault = h.firstFault := by
  rw [a.rest]

/-- A fold whose every step keeps the first-fault record keeps it. -/
theorem firstFault_foldl {α : Type} (f : Hub → α → Hub) (keeps : ∀ t x, (f t x).firstFault = t.firstFault) (xs : List α)
    (h : Hub) : (xs.foldl f h).firstFault = h.firstFault :=
  List.foldlRecOn (motive := fun t => t.firstFault = h.firstFault) xs f rfl
    fun t same x _ => (keeps t x).trans same

@[simp] theorem handOverAs_firstFault (c : Fin 23) (commandChange : Bool) (pair : Pair) (h : Hub) :
    (h.handOverAs c commandChange pair).firstFault = h.firstFault :=
  (reach_handOverAs (C := fun _ => true) rfl commandChange pair h).firstFault

@[simp] theorem handWaiting_firstFault (everyChannel : Bool) (h : Hub) (c : Fin 23) :
    (h.handWaiting everyChannel c).firstFault = h.firstFault := by
  unfold handWaiting handOver
  split
  · simp
  · split <;> simp

@[simp] theorem thawRelays_firstFault (h : Hub) : h.thawRelays.firstFault = h.firstFault := by
  have follows (t : Hub) (r : Fin 12) : (t.follow r).firstFault = t.firstFault :=
    (drive_follow (C := fun _ => true) (reachesRelay_own rfl)).firstFault
  have contests (t : Hub) (g : Fin 4) : (t.contest g h).firstFault = t.firstFault :=
    (drive_contest (C := fun _ => true) (fun _ _ => reachesRelay_own rfl) h).firstFault
  unfold thawRelays
  dsimp only
  rw [firstFault_foldl _ contests, firstFault_foldl _ follows]

@[simp] theorem thawSounder_firstFault (h : Hub) : h.thawSounder.firstFault = h.firstFault :=
  (drive_startTone (C := fun _ => true) rfl _).firstFault

@[simp] theorem thawUnit_firstFault (u : Fin 2) (changed : Bool) (h : Hub) :
    (h.thawUnit u changed).firstFault = h.firstFault := by
  have decides (t : Hub) : (t.decision u).firstFault = t.firstFault :=
    (drive_decision (C := fun _ => true) rfl t).firstFault
  unfold thawUnit
  dsimp only
  split
  · rfl
  · simp
  · split <;> simp [decides]

@[simp] theorem autoReference_firstFault (u : Fin 2) (h : Hub) : (h.autoReference u).firstFault = h.firstFault := by
  unfold autoReference
  split
  · exact (drive_startRun (C := fun _ => true) rfl h).firstFault
  · rfl

theorem enterRun_firstFault (h : Hub) : h.enterRun.firstFault = h.firstFault := by
  have handed (t : Hub) : ((List.finRange 23).foldl (handWaiting h.starting) t).firstFault = t.firstFault :=
    firstFault_foldl _ (handWaiting_firstFault h.starting) _ t
  unfold enterRun thaw
  dsimp only
  split <;> simp [handed]

/-! ## The codes a load finds -/

/-- The codes are distinct from 0 and found in ascending order. -/
theorem faultsFound_ascending (h : Hub) (storeAnswers : Bool) : (0 :: h.faultsFound storeAnswers).Pairwise (· < ·) := by
  unfold faultsFound
  split
  · have all : (0 :: Block.all.map (·.code)).Pairwise (· < ·) := by decide
    exact all.sublist ((List.filter_sublist.map _).cons_cons 0)
  · decide

/-! ## What the load writes into the record -/

theorem loadBlock_firstFault (storeAnswers : Bool) (h : Hub) (b : Block) :
    (h.loadBlock storeAnswers b).firstFault = h.firstFault := by
  unfold loadBlock
  split <;> rfl

/-- A record that holds a code keeps it. -/
theorem recordFault_firstFault_held {h : Hub} (held : h.firstFault ≠ 0) (code : Nat) :
    (h.recordFault code).firstFault = h.firstFault := if_neg held

/-- A record of 0 takes the code. -/
theorem recordFault_firstFault_empty {h : Hub} (empty : h.firstFault = 0) (code : Nat) :
    (h.recordFault code).firstFault = code := if_pos empty

/-- A record that holds a code keeps it, whatever else is found. -/
theorem recordFaults_firstFault_held {h : Hub} (held : h.firstFault ≠ 0) (codes : List Nat) :
    (codes.foldl recordFault h).firstFault = h.firstFault := by
  induction codes generalizing h with
  | nil => rfl
  | cons code more ih =>
    have kept : (h.recordFault code).firstFault = h.firstFault := recordFault_firstFault_held held code
    rw [List.foldl_cons, ih (by rwa [kept]), kept]

/-- A record of 0 takes the first of the codes. -/
theorem recordFaults_firstFault_empty {h : Hub} (empty : h.firstFault = 0) {code : Nat} (real : code ≠ 0)
    (more : List Nat) : ((code :: more).foldl recordFault h).firstFault = code := by
  have took : (h.recordFault code).firstFault = code := recordFault_firstFault_empty empty code
  rw [List.foldl_cons, recordFaults_firstFault_held (by rwa [took]), took]

/-- The results of the load leave a record of 0 with the first code found. -/
theorem loadResults_firstFault {h : Hub} {storeAnswers : Bool} {code : Nat} {more : List Nat} (empty : h.firstFault = 0)
    (found : h.faultsFound storeAnswers = code :: more) (real : code ≠ 0) :
    (h.loadResults storeAnswers).firstFault = code := by
  have loaded : (Block.all.foldl (loadBlock storeAnswers) h).firstFault = 0 :=
    (firstFault_foldl _ (loadBlock_firstFault storeAnswers) _ h).trans empty
  unfold loadResults
  rw [refreshMute_firstFault, found, recordFaults_firstFault_empty loaded real]

/-! ## The rest of the load keeps the record -/

@[simp] theorem checkReference_firstFault (u : Fin 2) (h : Hub) : (h.checkReference u).firstFault = h.firstFault := by
  unfold checkReference
  split <;> rfl

theorem passLoaded_firstFault (h : Hub) (c : Fin 23) : (h.passLoaded c).firstFault = h.firstFault :=
  (reach_passInput (C := fun _ => true) rfl _ .load h).firstFault

/-- After its results the load writes the record no more, whether it ends in FAULT_HOLD or enters RUN. -/
theorem endLoad_firstFault (storeAnswers : Bool) (h : Hub) :
    (h.endLoad storeAnswers).firstFault = (h.loadResults storeAnswers).firstFault := by
  have passed (t : Hub) : ((List.finRange 23).foldl passLoaded t).firstFault = t.firstFault :=
    firstFault_foldl _ passLoaded_firstFault _ t
  unfold endLoad
  dsimp only
  split <;> simp [enterRun_firstFault, showLamps, readRelayRuns, passed]

end Hub

/-- A CLEAR_FIRST_FAULT that is heard is decided on the part with the lease restarted. -/
theorem exec_clearFirstFault_heard {p : Port} {s : State} (heard : s.hub.takesFrames p = true) :
    exec (.clearFirstFault p) s = .next { s with hub := Hub.decideClearFirstFault p (Hub.restartLease p s.hub) } :=
  onRequest_heard p (Hub.decideClearFirstFault p) s heard

/-- END_OF_LOAD with a load in progress is the end of that load. -/
theorem exec_endOfLoad_loading (storeAnswers : Bool) {s : State} (startup : s.hub.mode = .startup)
    (released : s.hub.resetNLow = false) :
    exec (.endOfLoad storeAnswers) s = .next { s with hub := s.hub.endLoad storeAnswers } := by
  have ends : s.hub.loadEnds storeAnswers = s.hub.endLoad storeAnswers := by
    unfold Hub.loadEnds
    rw [if_pos (by simp [Hub.loading, startup, released])]
  rw [← ends]
  rfl

/-- Settles O46: the request by the four ways its checks end, of which the lease restart moves nothing they read; the load
by the ascending order of the codes it finds, of which a record of 0 takes the first, and by the rest of the load keeping it. -/
theorem clearFirstFaultClearsTheRecord : Obligations.ClearFirstFaultClearsTheRecord := by
  constructor
  case left =>
    intro p s heard
    rw [exec_clearFirstFault_heard heard, Hub.decideClearFirstFault]
    refine ⟨fun startup => ?starting, fun mode out => ?notAttached, fun mode live bare => ?noGrant,
      fun mode live grant => ?taken⟩
    case starting => rw [Hub.refuseFirst_granted_startup _ _ (by simpa using startup)]
    case notAttached => rw [Hub.refuseFirst_granted_notAttached _ (by simpa using mode) (by simpa using out)]
    case noGrant =>
      rw [Hub.refuseFirst_granted_noGrant _ (by simpa using mode) (by simpa using live) (by simpa using bare)]
    case taken =>
      rw [Hub.refuseFirst_granted_taken _ (by simpa using mode) (by simpa using live) (by simpa using grant)]
  case right =>
    intro answers code more s startup released empty found
    have ascending := s.hub.faultsFound_ascending answers
    rw [found, List.pairwise_cons, List.pairwise_cons] at ascending
    obtain ⟨positive, lowest, _⟩ := ascending
    have real : code ≠ 0 := Nat.ne_of_gt (positive code (List.mem_cons_self ..))
    exact ⟨s.hub.endLoad answers, exec_endOfLoad_loading answers startup released,
      (Hub.endLoad_firstFault answers s.hub).trans (Hub.loadResults_firstFault empty found real), lowest⟩

end Sys2Proof.Machine
end

section
/-! The notices of a port: READ_NOTICES (R187), CLEAR_NOTICES (R188) and SET_MASK (R189) after the checks of R72, and the
notice line (R190), which a lapse leaves at its level. -/

namespace Sys2Proof.Machine
namespace Hub

/-! ## The standing checks before checks of the request's own -/

theorem refuseFirst_standing_append_startup {h : Hub} (p : Port) (more : List (Bool × Result)) (taken : Hub)
    (startup : h.mode = .startup) : h.refuseFirst p (h.standing p ++ more) taken = h.respond p .starting [] :=
  refuseFirst_first p _ h taken (true, .starting) (by simp [standing, startup])

theorem refuseFirst_standing_append_notAttached {h : Hub} {p : Port} (more : List (Bool × Result)) (taken : Hub)
    (mode : h.mode ≠ .startup) (out : h.attached p = false) :
    h.refuseFirst p (h.standing p ++ more) taken = h.respond p .notAttached [] :=
  refuseFirst_first p _ h taken (true, .notAttached) (by simp [standing, mode, out])

/-- Past STARTUP an ATTACHED port is judged by the request's own checks. -/
theorem refuseFirst_standing_append {h : Hub} {p : Port} (more : List (Bool × Result)) (taken : Hub)
    (mode : h.mode ≠ .startup) (live : h.attached p = true) :
    h.refuseFirst p (h.standing p ++ more) taken = h.refuseFirst p more taken := by
  simp [refuseFirst, standing, mode, live]

/-- One check that fails is the answer. -/
theorem refuseFirst_singleton_fails {h : Hub} {failing : Bool} (p : Port) (r : Result) (taken : Hub)
    (fails : failing = true) : h.refuseFirst p [(failing, r)] taken = h.respond p r [] :=
  refuseFirst_first p _ h taken (failing, r) (by simp [fails])

/-- One check that does not fail lets the request be taken. -/
theorem refuseFirst_singleton_passes {h : Hub} {failing : Bool} (p : Port) (r : Result) (taken : Hub)
    (passes : failing = false) : h.refuseFirst p [(failing, r)] taken = taken :=
  refuseFirst_pass p _ h taken (by simp [passes])

/-! ## The three decisions -/

theorem spareBits_iff (w : BitVec 16) : spareBits w = true ↔ w.getLsbD 14 = true ∨ w.getLsbD 15 = true :=
  Bool.or_eq_true_iff

/-- Of the notices a lease restart writes the flags alone. -/
theorem restartLease_sets (p q : Port) (h : Hub) :
    ((restartLease p h).port q).mask = (h.port q).mask ∧ ((restartLease p h).port q).change = (h.port q).change ∧
      ((restartLease p h).port q).asked = (h.port q).asked := by
  unfold restartLease
  split
  · rw [port_modPort]
    split
    · next same => subst same; exact ⟨rfl, rfl, rfl⟩
    · exact ⟨rfl, rfl, rfl⟩
  · exact ⟨rfl, rfl, rfl⟩

section
variable {h : Hub} {p : Port}

theorem decideReadNotices_taken (flags : BitVec 14) (mode : h.mode ≠ .startup) (live : h.attached p = true) :
    h.decideReadNotices p flags =
      h.respond p .ok (noticeWord flags ++ noticeWord (h.port p).mask ++ channelSet (h.port p).change ++
        channelSet (h.port p).asked) :=
  refuseFirst_standing_taken _ mode live

theorem decideClearNotices_refused {word : BitVec 16} {clear : Byte} (mode : h.mode ≠ .startup)
    (live : h.attached p = true) (bad : (word.getLsbD 14 = true ∨ word.getLsbD 15 = true) ∨ 1 < clear.toNat) :
    h.decideClearNotices p word clear = h.respond p .badValue [] :=
  (refuseFirst_standing_append _ _ mode live).trans
    (refuseFirst_singleton_fails _ _ _ (by simpa [spareBits_iff] using bad))

theorem decideClearNotices_taken {word : BitVec 16} {clear : Byte} (mode : h.mode ≠ .startup)
    (live : h.attached p = true) (clean : ¬ (word.getLsbD 14 = true ∨ word.getLsbD 15 = true))
    (small : clear.toNat ≤ 1) :
    h.decideClearNotices p word clear =
      (h.modPort p fun t =>
        { t with
          flags := t.flags &&& ~~~(word.setWidth 14)
          change := if clear = 1 then 0 else t.change }).respond p .ok [] := by
  have spare : spareBits word = false := by rwa [← spareBits_iff, Bool.not_eq_true] at clean
  have passes : (spareBits word || decide (1 < clear.toNat)) = false := by simp [spare, small]
  exact (refuseFirst_standing_append _ _ mode live).trans (refuseFirst_singleton_passes _ _ _ passes)

theorem decideSetMask_refused {word : BitVec 16} (mode : h.mode ≠ .startup) (live : h.attached p = true)
    (bad : word.getLsbD 14 = true ∨ word.getLsbD 15 = true) :
    h.decideSetMask p word = h.respond p .badValue [] :=
  (refuseFirst_standing_append _ _ mode live).trans
    (refuseFirst_singleton_fails _ _ _ ((spareBits_iff word).mpr bad))

theorem decideSetMask_taken {word : BitVec 16} (mode : h.mode ≠ .startup) (live : h.attached p = true)
    (clean : ¬ (word.getLsbD 14 = true ∨ word.getLsbD 15 = true)) :
    h.decideSetMask p word = (h.modPort p fun t => { t with mask := word.setWidth 14 }).respond p .ok [] := by
  have spare : spareBits word = false := by rwa [← spareBits_iff, Bool.not_eq_true] at clean
  exact (refuseFirst_standing_append _ _ mode live).trans (refuseFirst_singleton_passes _ _ _ spare)

end

/-! ## The notice line (R190) -/

/-- Two words have a bit in common exactly where their conjunction is not zero. -/
theorem and_ne_zero_iff {w : Nat} (x y : BitVec w) :
    x &&& y ≠ 0 ↔ ∃ n : Fin w, x.getLsbD n.val = true ∧ y.getLsbD n.val = true := by
  constructor
  · intro nonzero
    refine Classical.byContradiction fun apart => nonzero (BitVec.eq_of_getLsbD_eq fun i lt => ?_)
    have unshared : ¬ (x.getLsbD i = true ∧ y.getLsbD i = true) := fun both => apart ⟨⟨i, lt⟩, both⟩
    simpa using unshared
  · rintro ⟨n, inX, inY⟩ zero
    have bit : (x &&& y).getLsbD n.val = true := by rw [BitVec.getLsbD_and, inX, inY]; rfl
    rw [zero] at bit
    simp at bit

theorem noteAsserted_iff (p : Port) (h : Hub) :
    h.noteAsserted p = true ↔
      (h.resetNLow = false ∧ (h.port p).tenancy ≠ .detached ∧
        ∃ n : Fin 14, (h.port p).flags.getLsbD n.val = true ∧ (h.port p).mask.getLsbD n.val = true) := by
  rw [← and_ne_zero_iff]
  simp [noteAsserted, and_assoc]

/-- The line of a port that stays out of DETACHED depends on RESET_N, the flags and the mask alone. -/
theorem noteAsserted_congr {p : Port} {h t : Hub} (resetN : t.resetNLow = h.resetNLow)
    (before : (h.port p).tenancy ≠ .detached) (after : (t.port p).tenancy ≠ .detached)
    (flags : (t.port p).flags = (h.port p).flags) (mask : (t.port p).mask = (h.port p).mask) :
    t.noteAsserted p = h.noteAsserted p := by
  rw [Bool.eq_iff_iff, noteAsserted_iff, noteAsserted_iff, resetN, flags, mask]
  simp only [before, after, ne_eq, not_false_eq_true]

/-! ## A lapse keeps the notices (R73) -/

theorem exists_run_of_attached {p : Port} {h : Hub} (live : h.attached p = true) :
    ∃ run, (h.port p).tenancy = .attached run := by
  unfold attached at live
  cases tenancy : (h.port p).tenancy with
  | attached run => exact ⟨run, rfl⟩
  | detached => simp [tenancy] at live
  | lapsed => simp [tenancy] at live

theorem port_setTenancy_same (p : Port) (x : Tenancy) (h : Hub) :
    (h.setTenancy p x).port p = { h.port p with tenancy := x } := by
  rw [setTenancy, port_modPort, if_pos rfl]

/-- What happens to the claims of a port that is no longer ATTACHED gives that port no flag. -/
theorem lapseClaims_keepsNotices {p : Port} {h : Hub} (out : h.attached p = false) :
    (h.lapseClaims p).resetNLow = h.resetNLow ∧ ((h.lapseClaims p).port p).tenancy = (h.port p).tenancy ∧
      ((h.lapseClaims p).port p).flags = (h.port p).flags ∧ ((h.lapseClaims p).port p).mask = (h.port p).mask := by
  have within := reach_lapseClaims p h
  exact ⟨by rw [within.rest], by rw [within.ports p], (within.unattached p out).1, by rw [within.ports p]⟩

/-- The end of a lease run, whether a frame has cut it or not, leaves the port out of DETACHED with its flags and mask. -/
theorem lapsePort_keepsNotices {p : Port} {h : Hub} (live : h.attached p = true) :
    (h.lapsePort p).resetNLow = h.resetNLow ∧ ((h.lapsePort p).port p).tenancy ≠ .detached ∧
      ((h.lapsePort p).port p).flags = (h.port p).flags ∧ ((h.lapsePort p).port p).mask = (h.port p).mask := by
  obtain ⟨run, tenancy⟩ := exists_run_of_attached live
  cases cut : run.cut with
  | true =>
    rw [lapsePort_cut tenancy cut, port_modPort, if_pos rfl]
    exact ⟨rfl, by simp, rfl, rfl⟩
  | false =>
    have now : (h.setTenancy p .lapsed).port p = { h.port p with tenancy := .lapsed } := port_setTenancy_same ..
    have out : (h.setTenancy p .lapsed).attached p = false := by simp [attached, now]
    obtain ⟨resetN, stays, flags, mask⟩ := lapseClaims_keepsNotices out
    rw [now] at stays flags mask
    rw [lapsePort_whole tenancy cut]
    exact ⟨resetN, by simp [stays], flags, mask⟩

theorem lapsePort_noteAsserted {p : Port} {h : Hub} (live : h.attached p = true) :
    (h.lapsePort p).noteAsserted p = h.noteAsserted p := by
  obtain ⟨run, tenancy⟩ := exists_run_of_attached live
  obtain ⟨resetN, after, flags, mask⟩ := lapsePort_keepsNotices live
  exact noteAsserted_congr resetN (by simp [tenancy]) after flags mask

end Hub

/-! ## The requests as they are heard -/

section
variable {p : Port} {s : State}

/-- READ_NOTICES is decided with the flags of the frame's arrival, the rest as the lease restart leaves it (R187). -/
theorem exec_readNotices_heard (heard : s.hub.takesFrames p = true) :
    exec (.readNotices p) s =
      .next { s with hub := (Hub.restartLease p s.hub).decideReadNotices p (s.hub.port p).flags } :=
  onRequest_heard p (Hub.decideReadNotices p (s.hub.port p).flags) s heard

theorem exec_clearNotices_heard (word : BitVec 16) (clear : Byte) (heard : s.hub.takesFrames p = true) :
    exec (.clearNotices p word clear) s =
      .next { s with hub := (Hub.restartLease p s.hub).decideClearNotices p word clear } :=
  onRequest_heard p (Hub.decideClearNotices p word clear) s heard

theorem exec_setMask_heard (word : BitVec 16) (heard : s.hub.takesFrames p = true) :
    exec (.setMask p word) s = .next { s with hub := (Hub.restartLease p s.hub).decideSetMask p word } :=
  onRequest_heard p (Hub.decideSetMask p word) s heard

/-- A request that begins with the standing checks, judged after the lease restart, is refused by them (R72). -/
theorem exec_refused_by_standing {i : Instr} {more : List (Bool × Result)} {taken : Hub}
    (decided : exec i s = .next { s with
      hub := (Hub.restartLease p s.hub).refuseFirst p ((Hub.restartLease p s.hub).standing p ++ more) taken }) :
    (s.hub.mode = .startup → RefusedWith i p .starting s) ∧
      (s.hub.mode ≠ .startup → s.hub.attached p = false → RefusedWith i p .notAttached s) := by
  unfold RefusedWith
  rw [decided]
  constructor
  · intro startup
    rw [Hub.refuseFirst_standing_append_startup _ _ _ (by simpa using startup)]
  · intro mode out
    rw [Hub.refuseFirst_standing_append_notAttached _ _ (by simpa using mode) (by simpa using out)]

/-- All three requests begin with the standing checks; READ_NOTICES has no others. -/
theorem noticeRequests_refused_by_standing (word : BitVec 16) (clear : Byte) (heard : s.hub.takesFrames p = true) :
    ∀ i ∈ [Instr.readNotices p, .clearNotices p word clear, .setMask p word],
      (s.hub.mode = .startup → RefusedWith i p .starting s) ∧
        (s.hub.mode ≠ .startup → s.hub.attached p = false → RefusedWith i p .notAttached s) := by
  simp only [List.forall_mem_cons]
  refine ⟨?read, ?clear, ?mask, fun _ absent => absurd absent List.not_mem_nil⟩
  case read => exact exec_refused_by_standing (more := []) (exec_readNotices_heard heard)
  case clear => exact exec_refused_by_standing (exec_clearNotices_heard word clear heard)
  case mask => exact exec_refused_by_standing (exec_setMask_heard word heard)

end

/-- Settles O53: the requests by the checks before them, of which the lease restart moves nothing but the flags; the line
by its flags and mask bit by bit; the lapse by its claims giving no flag to a port that has left ATTACHED. -/
theorem noticesAreReadClearedAndMasked : Obligations.NoticesAreReadClearedAndMasked := by
  refine ⟨fun p word clear s heard => ?refused, fun p word clear s asks => ?taken, Hub.noteAsserted_iff,
    fun p s live => ?lapse, fun p f h live => ?flag⟩
  case refused => exact noticeRequests_refused_by_standing word clear heard
  case taken =>
    obtain ⟨heard, mode, live⟩ := asks
    have mode' : (Hub.restartLease p s.hub).mode ≠ .startup := by simpa using mode
    have live' : (Hub.restartLease p s.hub).attached p = true := by simpa using live
    rw [exec_readNotices_heard heard, exec_clearNotices_heard word clear heard, exec_setMask_heard word heard]
    refine ⟨?read, fun bad => ?clearRefused, fun clean small => ?clearTaken, fun bad => ?maskRefused,
      fun clean => ?maskTaken⟩
    case read =>
      obtain ⟨mask, change, asked⟩ := Hub.restartLease_sets p p s.hub
      rw [Hub.decideReadNotices_taken _ mode' live', mask, change, asked]
      rfl
    case clearRefused => rw [Hub.decideClearNotices_refused mode' live' bad]
    case clearTaken => rw [Hub.decideClearNotices_taken mode' live' clean small]
    case maskRefused => rw [Hub.decideSetMask_refused mode' live' bad]
    case maskTaken => rw [Hub.decideSetMask_taken mode' live' clean]
  case lapse =>
    obtain ⟨_, _, flags, mask⟩ := Hub.lapsePort_keepsNotices live
    exact ⟨s.hub.lapsePort p, rfl, flags, mask, Hub.lapsePort_noteAsserted live⟩
  case flag =>
    unfold Hub.giveFlag
    rw [if_pos live]
    rfl

end Sys2Proof.Machine
end

section
/-! The arrival of a command: every command is a request of a port or an event of the part, each completes, and the checks
of a request answer in their order. -/

namespace Sys2Proof.Machine
namespace Hub

/-! ## The lease restart writes the port's record alone -/

theorem restartLease_ports_only (p : Port) (h : Hub) :
    restartLease p h = { h with ports := (restartLease p h).ports } := by
  unfold restartLease
  split <;> rfl

section
variable (p : Port) (h : Hub)

@[simp] theorem restartLease_relay (r : Fin 12) : (restartLease p h).relay r = h.relay r := by
  rw [restartLease_ports_only]; rfl

@[simp] theorem restartLease_stepper (u : Fin 2) : (restartLease p h).stepper u = h.stepper u := by
  rw [restartLease_ports_only]; rfl

@[simp] theorem restartLease_slot (k : Fin 8) : (restartLease p h).slot k = h.slot k := by
  rw [restartLease_ports_only]; rfl

@[simp] theorem restartLease_setpoint (n : Fin 16) : (restartLease p h).setpoint n = h.setpoint n := by
  rw [restartLease_ports_only]; rfl

@[simp] theorem restartLease_slotItem (k : Fin 8) : (restartLease p h).slotItem k = h.slotItem k := by
  rw [restartLease_ports_only]; rfl

@[simp] theorem restartLease_holding (q : Port) : (restartLease p h).holding q = h.holding q := by
  rw [restartLease_ports_only]; rfl

@[simp] theorem restartLease_poolCount : (restartLease p h).poolCount = h.poolCount := by
  rw [restartLease_ports_only]; rfl

@[simp] theorem restartLease_holdsClaim (q : Port) (c : Fin 23) :
    (restartLease p h).holdsClaim q c = h.holdsClaim q c := by
  rw [restartLease_ports_only]; rfl

@[simp] theorem restartLease_winnerPort (c : Fin 23) : (restartLease p h).winnerPort c = h.winnerPort c := by
  rw [restartLease_ports_only]; rfl

end

/-! ## The checks of a request, one by one -/

theorem refuseFirst_nil (p : Port) (h taken : Hub) : h.refuseFirst p [] taken = taken := rfl

theorem refuseFirst_cons (p : Port) (x : Bool × Result) (checks : List (Bool × Result)) (h taken : Hub) :
    h.refuseFirst p (x :: checks) taken = if x.1 = true then h.respond p x.2 [] else h.refuseFirst p checks taken := by
  unfold refuseFirst
  cases e : x.1 <;> simp [e]

end Hub

/-- The checks a request makes, laid beside the conditions they stand for: each answers its own result. -/
inductive ChecksFor : List (Bool × Result) → List (Prop × Result) → Prop
  | nil : ChecksFor [] []
  | cons {x : Bool × Result} {y : Prop × Result} {checks : List (Bool × Result)} {conditions : List (Prop × Result)}
      (head : (x.1 = true ↔ y.1) ∧ x.2 = y.2) (tail : ChecksFor checks conditions) :
      ChecksFor (x :: checks) (y :: conditions)

@[simp] theorem checksFor_nil : ChecksFor [] [] := .nil

@[simp] theorem checksFor_cons (failing : Bool) (r q : Result) (condition : Prop) (checks : List (Bool × Result))
    (conditions : List (Prop × Result)) :
    ChecksFor ((failing, r) :: checks) ((condition, q) :: conditions) ↔
      ((failing = true ↔ condition) ∧ r = q) ∧ ChecksFor checks conditions :=
  ⟨fun | .cons head tail => ⟨head, tail⟩, fun ⟨head, tail⟩ => .cons head tail⟩

/-- A request decided by checks, after the lease restart, is refused in the order of the conditions they stand for. -/
theorem refusedInOrder_of_checks {i : Instr} {p : Port} {s : State} {taken : Hub} {more checks : List (Bool × Result)}
    {conditions : List (Prop × Result)} (same : ChecksFor checks conditions)
    (decided : exec i s = .next { s with
      hub := (Hub.restartLease p s.hub).refuseFirst p (checks ++ more) taken }) :
    RefusedInOrder i p s conditions := by
  induction same with
  | nil => trivial
  | @cons x y checks conditions head _ ih =>
    obtain ⟨fails, answer⟩ := head
    rw [List.cons_append, Hub.refuseFirst_cons] at decided
    refine ⟨fun failing => ?_, fun passes => ih ?_⟩
    · rw [if_pos (fails.mpr failing), answer] at decided
      exact decided
    · rwa [if_neg (mt fails.mp passes)] at decided

section
variable {i : Instr} {p : Port} {s : State}

/-- A request whose checks begin with the standing ones is, from a port that may ask, decided by its own checks, on the
part with the lease restarted. -/
theorem exec_asked {checks : Hub → List (Bool × Result)} {taken : Hub → Hub} (asks : s.hub.MayAsk p)
    (decided : exec i s = onRequest p (fun h => h.refuseFirst p (h.standing p ++ checks h) (taken h)) s) :
    exec i s = .next { s with
      hub := (Hub.restartLease p s.hub).refuseFirst p (checks (Hub.restartLease p s.hub))
        (taken (Hub.restartLease p s.hub)) } := by
  obtain ⟨heard, mode, live⟩ := asks
  rw [decided, onRequest_heard p _ s heard,
    Hub.refuseFirst_standing_append _ _ (by simpa using mode) (by simpa using live)]

/-- The refusals of such a request, in the order of its own checks. -/
theorem refusedInOrder_asked {checks more : Hub → List (Bool × Result)} {taken : Hub → Hub}
    {conditions : List (Prop × Result)} (asks : s.hub.MayAsk p)
    (decided : exec i s =
      onRequest p (fun h => h.refuseFirst p (h.standing p ++ (checks h ++ more h)) (taken h)) s)
    (same : ChecksFor (checks (Hub.restartLease p s.hub)) conditions) : RefusedInOrder i p s conditions :=
  refusedInOrder_of_checks same (exec_asked asks decided)

/-- Where none of its own checks fails, the request is taken. -/
theorem exec_taken {checks : Hub → List (Bool × Result)} {taken : Hub → Hub} (asks : s.hub.MayAsk p)
    (decided : exec i s = onRequest p (fun h => h.refuseFirst p (h.standing p ++ checks h) (taken h)) s)
    (pass : ∀ x ∈ checks (Hub.restartLease p s.hub), x.1 = false) :
    exec i s = .next { s with hub := taken (Hub.restartLease p s.hub) } := by
  rw [exec_asked asks decided, Hub.refuseFirst_pass _ _ _ _ pass]

end

/-! ## Every command is a request or an event -/

theorem exec_of_request {i : Instr} {p : Port} {code : Byte} {body : List Byte}
    (laid : requestBody i = some (p, code, body)) (s : State) : ∃ decided, exec i s = onRequest p decided s := by
  cases i <;> simp only [requestBody, Option.some.injEq, Prod.mk.injEq, reduceCtorEq] at laid
  all_goals
    obtain ⟨rfl, _⟩ := laid
    exact ⟨_, rfl⟩

/-- An event of the part writes the part alone. -/
theorem exec_event_completes {i : Instr} (event : requestBody i = none) (s : State) :
    ∃ h, exec i s = .next { s with hub := h } := by
  cases i <;> simp only [requestBody, reduceCtorEq] at event
  all_goals exact ⟨_, rfl⟩

/-- A request writes the part alone, whether it is heard or not. -/
theorem onRequest_completes (p : Port) (decided : Hub → Hub) (s : State) :
    ∃ h, onRequest p decided s = .next { s with hub := h } := by
  cases heard : s.hub.takesFrames p with
  | true => exact ⟨_, onRequest_heard p decided s heard⟩
  | false => exact ⟨s.hub, onRequest_deaf p decided s heard⟩

theorem exec_completes (i : Instr) (s : State) : ∃ h, exec i s = .next { s with hub := h } := by
  cases laid : requestBody i with
  | none => exact exec_event_completes laid s
  | some x =>
    obtain ⟨p, code, body⟩ := x
    obtain ⟨decided, request⟩ := exec_of_request laid s
    rw [request]
    exact onRequest_completes p decided s

theorem runDue_completes : ∀ (events : List Instr) (s : State), ∃ t, runDue events s = .next t
  | [], s => ⟨s, rfl⟩
  | i :: rest, s => by
    obtain ⟨h, taken⟩ := exec_completes i s
    cases due : s.hub.due i with
    | true => rw [runDue_take due taken]; exact runDue_completes rest _
    | false => rw [runDue, if_neg (by simp [due])]; exact runDue_completes rest s

/-- Settles O1: the step's definition on a queue that is not empty. -/
theorem stepTakesTheFrontCommand : Obligations.StepTakesTheFrontCommand := fun _ _ _ => rfl

/-- Settles O2: a command completes as a request or as an event; a unit of time, by induction on the events it takes. -/
theorem commandsAndStepsAlwaysComplete : Obligations.CommandsAndStepsAlwaysComplete := by
  refine ⟨exec_completes, fun s => ?_⟩
  cases queue : s.pending with
  | nil => rw [step, queue]; exact runDue_completes _ _
  | cons i rest =>
    obtain ⟨h, taken⟩ := exec_completes i { s with pending := rest }
    exact ⟨_, by rw [step, queue]; exact taken⟩

/-! ## Frames that are not heard or not good -/

/-- A frame, laid out as bytes, is a request or one that fails the check. -/
theorem request_or_badFrame_of_encodeFrame {i : Instr} {p : Port} {bytes : List Byte}
    (laid : encodeFrame i = some (p, bytes)) :
    i = .badFrame p bytes ∨ ∃ code body, requestBody i = some (p, code, body) := by
  cases i <;> simp only [encodeFrame, requestBody, Option.map_some, Option.map_none, Option.some.injEq, Prod.mk.injEq,
    reduceCtorEq] at laid
  case badFrame => exact .inl (by rw [laid.1, laid.2])
  all_goals exact .inr ⟨_, _, by rw [← laid.1]; rfl⟩

namespace Hub

theorem discardFrame_deaf {p : Port} {h : Hub} (deaf : h.takesFrames p = false) : h.discardFrame p = h :=
  if_neg (by simp [deaf])

/-- A frame that fails the check sets LINK_ERROR where its port is ATTACHED, and is answered BAD_FRAME. -/
theorem discardFrame_heard {p : Port} {h : Hub} (heard : h.takesFrames p = true) :
    h.discardFrame p = h.modPort p fun t =>
      { t with flags := if h.attached p then t.flags ||| 0x1000 else t.flags, resp := some ⟨.badFrame, []⟩ } := by
  unfold discardFrame giveFlag
  rw [if_pos heard]
  cases live : h.attached p with
  | true =>
    rw [if_pos rfl, respond, modPort_modPort]
    rfl
  | false => rfl

end Hub

/-- Settles O5: an unheard frame by the two kinds of frame there are; a bad frame by what discarding it writes. -/
theorem unheardAndBadFramesAreAnswered : Obligations.UnheardAndBadFramesAreAnswered := by
  refine ⟨fun i p bytes s laid deaf => ?unheard, fun p s heard => ⟨fun frame => ?bad, fun code body => ?unknown⟩⟩
  case unheard =>
    obtain rfl | ⟨code, body, request⟩ := request_or_badFrame_of_encodeFrame laid
    · exact congrArg (fun h => Host.Outcome.next { s with hub := h }) (Hub.discardFrame_deaf deaf)
    · obtain ⟨decided, taken⟩ := exec_of_request request s
      rw [taken, onRequest_deaf p decided s deaf]
  case bad => exact congrArg (fun h => Host.Outcome.next { s with hub := h }) (Hub.discardFrame_heard heard)
  case unknown => exact onRequest_heard p _ s heard

/-! ## The standing checks come first -/

/-- Every request but ATTACH, DETACH, QUERY_HUB and one that is not known begins with the standing checks. -/
theorem exec_standing {i : Instr} {p : Port} {code : Byte} {body : List Byte}
    (laid : requestBody i = some (p, code, body)) (query : i ≠ .queryHub p) (good : i ≠ .badRequest p code body)
    (attach : i ≠ .attach p) (detach : i ≠ .detach p) (s : State) :
    ∃ decided, exec i s = onRequest p decided s ∧
      ∀ h : Hub, ∃ checks taken, decided h = h.refuseFirst p (h.standing p ++ checks) taken := by
  cases i <;> simp only [requestBody, Option.some.injEq, Prod.mk.injEq, reduceCtorEq] at laid
  all_goals obtain ⟨rfl, rfl, rfl⟩ := laid
  case queryHub => exact absurd rfl query
  case badRequest => exact absurd rfl good
  case attach => exact absurd rfl attach
  case detach => exact absurd rfl detach
  case keep | readNotices | querySetpoints => exact ⟨_, rfl, fun h => ⟨[], _, rfl⟩⟩
  case configRead block item field =>
    refine ⟨_, rfl, fun h => ?_⟩
    unfold Hub.decideConfigRead
    split
    · exact ⟨[], _, rfl⟩
    · exact ⟨_, _, rfl⟩
  case configWrite block item field value =>
    refine ⟨_, rfl, fun h => ?_⟩
    unfold Hub.decideConfigWrite Hub.granted
    dsimp only
    split <;> exact ⟨_, _, by rw [List.append_assoc, List.append_assoc]⟩
  all_goals exact ⟨_, rfl, fun h => ⟨_, _, rfl⟩⟩

/-- Settles O7: ATTACH and DETACH by their own first checks, every other request by the standing checks. -/
theorem standingIsCheckedFirst : Obligations.StandingIsCheckedFirst := by
  intro i p code body s laid query good heard
  by_cases attach : i = .attach p
  · subst attach
    refine ⟨fun startup => ?_, fun _ _ other => absurd rfl other⟩
    exact (onRequest_heard p _ s heard).trans
      (by rw [Hub.decideAttach, Hub.refuseFirst_cons, if_pos (by simpa using startup)])
  by_cases detach : i = .detach p
  · subst detach
    refine ⟨fun startup => ?_, fun mode out _ alone => ?_⟩
    · exact (onRequest_heard p _ s heard).trans
        (by rw [Hub.decideDetach, Hub.refuseFirst_cons, if_pos (by simpa using startup)])
    · refine (onRequest_heard p _ s heard).trans ?_
      rw [Hub.restartLease_other out, Hub.decideDetach, Hub.refuseFirst_cons, if_neg (by simpa using mode),
        Hub.refuseFirst_cons, if_pos (by simp [alone rfl])]
  obtain ⟨decided, request, standing⟩ := exec_standing laid query good attach detach s
  obtain ⟨checks, taken, first⟩ := standing (Hub.restartLease p s.hub)
  rw [request, onRequest_heard p decided s heard, first]
  refine ⟨fun startup => ?_, fun mode out _ _ => ?_⟩
  · rw [Hub.refuseFirst_standing_append_startup p checks taken (by simpa using startup)]
  · rw [Hub.refuseFirst_standing_append_notAttached checks taken (by simpa using mode) (by simpa using out),
      Hub.restartLease_other out]

end Sys2Proof.Machine
end

section
/-! The part right after reset, and the rules that are functions of a record or two: an ungrouped relay at a command change
(R95), rounding and clamping (R151), the evaluation of a setpoint (R157, R158), the local layer (R163). -/

namespace Sys2Proof.Machine

/-- Settles O4: the reset state is closed, and each of its vectors is constant or known by its index. -/
theorem resetStateIsAsTheManualSays : Obligations.ResetStateIsAsTheManualSays := by
  refine ⟨rfl, rfl, rfl, rfl, rfl, ?marks, rfl, rfl, ?ports, ?channels, ?relays, ?lamps, rfl, rfl, rfl, rfl, rfl, rfl, rfl,
    ?steppers, ?slots, ?setpoints, rfl⟩
  case marks => intro b; cases b <;> rfl
  case ports => intro p; cases p <;> rfl
  case channels => decide +kernel
  case relays => decide +kernel
  case lamps => decide +kernel
  case steppers => decide +kernel
  case slots => decide +kernel
  case setpoints => decide +kernel

/-! ## An ungrouped relay -/

namespace Hub

theorem modRelay_self (r : Fin 12) (h : Hub) : h = h.modRelay r fun t => t := by
  unfold modRelay relay
  simp

theorem switchOff_ungrouped {r : Fin 12} {h : Hub} (alone : h.groupOf r = none) (into : RelayState) :
    h.switchOff r into =
      h.modRelay r fun _ => ⟨into, none, false, minOffRun (Config.tenths h.work.relays[r].minOff)⟩ := by
  unfold switchOff
  dsimp only
  rw [alone]

theorem relayTakes_ungrouped {r : Fin 12} {h : Hub} (before : Hub) (running : h.relayCond = .running)
    (alone : h.groupOf r = none) : relayTakes r true h before = h.follow r := by
  unfold relayTakes
  rw [running, alone]
  rfl

end Hub

/-- Settles O25, by the relay's command and its engine state. -/
theorem ungroupedRelayFollowsItsCommand : Obligations.UngroupedRelayFollowsItsCommand := by
  intro r h before running alone
  dsimp only
  rw [Hub.relayTakes_ungrouped before running alone, Hub.follow]
  cases asks : h.asksOn r with
  | true =>
    rw [if_pos rfl, Hub.followOn]
    simp only [if_true]
    cases state : (h.relay r).state with
    | on | waitMinOff => exact h.modRelay_self r
    | waitMinOn => rfl
    | off | waitDead | heldOff => dsimp only; split <;> rfl
  | false =>
    rw [if_neg Bool.false_ne_true, Hub.followOff]
    simp only [Bool.false_eq_true, if_false]
    cases state : (h.relay r).state with
    | waitMinOn | off => exact h.modRelay_self r
    | waitMinOff | waitDead | heldOff => rfl
    | on =>
      dsimp only
      split
      · rfl
      · exact Hub.switchOff_ungrouped alone .off

/-! ## Rounding and clamping -/

theorem clampValue_eq (x : Int) : clampValue x = max (-2000000000) (min 2000000000 x) := rfl

theorem clampValue_range (x : Int) : -2000000000 ≤ clampValue x ∧ clampValue x ≤ 2000000000 := by
  rw [clampValue_eq]
  omega

/-- The error of the rounding, in thousandths: at most one half, and half away from zero. -/
theorem scaleRaw_error (raw : Int) (gain : Nat) :
    (0 ≤ raw → -500 < 1000 * scaleRaw raw gain - raw * gain ∧ 1000 * scaleRaw raw gain - raw * gain ≤ 500) ∧
      (raw < 0 → -500 ≤ 1000 * scaleRaw raw gain - raw * gain ∧ 1000 * scaleRaw raw gain - raw * gain < 500) := by
  unfold scaleRaw
  constructor
  · intro positive
    rw [if_pos positive]
    omega
  · intro negative
    rw [if_neg (by omega), Int.neg_mul]
    omega

/-- Settles O39: the rounding by the sign of the raw value, the clamp by its two bounds. -/
theorem sampledValuesAreRoundedAndClamped : Obligations.SampledValuesAreRoundedAndClamped := by
  intro i c old raw gain
  obtain ⟨positive, negative⟩ := scaleRaw_error raw gain
  have clamped : ∃ x, sampledValue i c old raw = clampValue x := by
    unfold sampledValue
    cases i.mode
    · exact ⟨_, rfl⟩
    · exact ⟨_, rfl⟩
  obtain ⟨x, clamped⟩ := clamped
  have range := clampValue_range x
  rw [← clamped] at range
  refine ⟨?error, fun up => (positive up).1, fun down => (negative down).2, range.1, range.2, fun level => ?ofLevel,
    fun total => ?ofTotal⟩
  case error => rcases Int.lt_or_le raw 0 with down | up <;> omega
  case ofLevel => rw [sampledValue, level]; rfl
  case ofTotal => rw [sampledValue, total]; rfl

/-! ## The evaluation of a setpoint -/

/-- The condition is judged by two bounds, the threshold first; between them the mark stands. -/
theorem judge_eq (i : SetpointItem) (value : Int) (mark : Bool) :
    judge i value mark =
      if (match i.sense with
          | .above => decide (i.threshold < value)
          | .below => decide (value < i.threshold)) = true then true
      else if (match i.sense with
          | .above => decide (value ≤ i.threshold - i.hysteresis)
          | .below => decide (i.threshold + i.hysteresis ≤ value)) = true then false
      else mark := by
  unfold judge
  cases i.sense <;> simp only [decide_eq_true_eq]

/-- Settles O40, by how the condition is judged and the state the setpoint was in. -/
theorem evaluationMovesASetpoint : Obligations.EvaluationMovesASetpoint := by
  intro i value x beyond back t
  have judged : judge i value x.mark = if beyond = true then true else if back = true then false else x.mark :=
    judge_eq i value x.mark
  have evaluated : t = if judge i value x.mark = x.mark then x else if x.mark then x.goesFalse i else x.goesTrue i := rfl
  refine ⟨fun past unmarked => ?rises, fun inside far marked => ?falls, fun stays => ?stays⟩
  case rises =>
    have rising : t = x.goesTrue i := by
      rw [evaluated, judged, if_pos past, unmarked]
      rfl
    rw [rising, Setpoint.goesTrue]
    rcases Nat.eq_zero_or_pos i.makeDelay with none | some
    · cases state : x.state <;> simp [none]
    · cases state : x.state <;> simp [some, Nat.ne_of_gt some, Config.tenths]
  case falls =>
    have falling : t = x.goesFalse i := by
      rw [evaluated, judged, inside, far, marked]
      rfl
    rw [falling, Setpoint.goesFalse]
    rcases Nat.eq_zero_or_pos i.breakDelay with none | some
    · cases state : x.state <;> simp [none, afterBreak]
    · cases state : x.state <;> simp [some, Nat.ne_of_gt some, Config.tenths]
  case stays =>
    rw [evaluated, if_pos]
    rw [judged]
    obtain ⟨past, marked⟩ | ⟨inside, far, unmarked⟩ | ⟨inside, near⟩ := stays
    · rw [if_pos past, marked]
    · rw [if_neg (by simp [inside]), if_pos far, unmarked]
    · rw [if_neg (by simp [inside]), if_neg (by simp [near])]

/-! ## The local layer -/

namespace Hub

theorem mem_driversOf {h : Hub} {c : Fin 23} {n : Fin 16} :
    n ∈ h.driversOf c ↔ h.driving n = true ∧ targetChannel h.work.setpoints[n].target = c := by
  unfold driversOf
  rw [List.mem_filter, Bool.and_eq_true, beq_iff_eq]
  exact and_iff_right (List.mem_finRange n)

theorem localLayer_undriven {h : Hub} {c : Fin 23}
    (undriven : kindOf c = .stepper ∨
      ∀ n : Fin 16, h.driving n = true → targetChannel h.work.setpoints[n].target ≠ c) :
    h.localLayer c = ⟨h.work.fallbacks[c], false⟩ := by
  unfold localLayer
  rw [if_pos]
  rw [Bool.or_eq_true, beq_iff_eq, List.isEmpty_iff]
  refine undriven.symm.imp_left fun nobody => List.eq_nil_iff_forall_not_mem.mpr fun n drives => ?_
  obtain ⟨driving, aimed⟩ := mem_driversOf.mp drives
  exact nobody n driving aimed

theorem localLayer_driven {h : Hub} {c : Fin 23} (kind : kindOf c ≠ .stepper) {n : Fin 16} (driver : n ∈ h.driversOf c) :
    h.localLayer c =
      ⟨.command (combine (kindOf c) ((h.driversOf c).map fun n => h.work.setpoints[n].command)), true⟩ := by
  unfold localLayer
  rw [if_neg]
  · rfl
  · rw [Bool.or_eq_true, beq_iff_eq, List.isEmpty_iff]
    exact fun bare => bare.elim (fun empty => List.not_mem_nil (empty ▸ driver)) kind

theorem strongerLamp_cases (x y : Command) : strongerLamp x y = x ∨ strongerLamp x y = y := by
  unfold strongerLamp
  split
  · exact .inr rfl
  · exact .inl rfl

theorem le_strongerLamp (x y : Command) :
    lampStrength x ≤ lampStrength (strongerLamp x y) ∧ lampStrength y ≤ lampStrength (strongerLamp x y) := by
  unfold strongerLamp
  split <;> omega

/-- The strongest of a list of lamp commands is the first one or in the list, and none of them is stronger. -/
theorem strongestLamp : ∀ (xs : List Command) (first : Command),
    (xs.foldl strongerLamp first = first ∨ xs.foldl strongerLamp first ∈ xs) ∧
      lampStrength first ≤ lampStrength (xs.foldl strongerLamp first) ∧
      ∀ x ∈ xs, lampStrength x ≤ lampStrength (xs.foldl strongerLamp first)
  | [], first => ⟨.inl rfl, Nat.le_refl _, fun _ absent => absurd absent List.not_mem_nil⟩
  | x :: xs, first => by
    obtain ⟨among, above, all⟩ := strongestLamp xs (strongerLamp first x)
    obtain ⟨firstLe, xLe⟩ := le_strongerLamp first x
    rw [List.foldl_cons]
    refine ⟨?_, Nat.le_trans firstLe above, List.forall_mem_cons.mpr ⟨Nat.le_trans xLe above, all⟩⟩
    rcases among with same | later
    · rw [same, List.mem_cons]
      exact (strongerLamp_cases first x).imp_right .inl
    · exact .inr (List.mem_cons_of_mem x later)

/-- The first of a channel's drivers is the driver of the lowest number. -/
theorem driversOf_head {h : Hub} {c : Fin 23} {n : Fin 16} (driver : n ∈ h.driversOf c)
    (lowest : ∀ m : Fin 16, m < n → ¬ (h.driving m = true ∧ targetChannel h.work.setpoints[m].target = c)) :
    (h.driversOf c).head? = some n := by
  have ascending : (h.driversOf c).Pairwise (· < ·) := (List.pairwise_lt_finRange 16).filter _
  cases drivers : h.driversOf c with
  | nil => rw [drivers] at driver; exact absurd driver List.not_mem_nil
  | cons m more =>
    have mDrives : m ∈ h.driversOf c := drivers ▸ List.mem_cons_self ..
    rw [drivers] at driver ascending
    rcases List.mem_cons.mp driver with same | later
    · rw [same, List.head?_cons]
    · exact absurd (mem_driversOf.mp mDrives) (lowest m ((List.pairwise_cons.mp ascending).1 n later))

end Hub

/-- Settles O43: the layer is the fallback or what the drivers' commands combine to, by kind; on a lamp by induction on
the commands, on SND by the ascending order of the drivers. -/
theorem localLayerCombinesTheDrivingSetpoints : Obligations.LocalLayerCombinesTheDrivingSetpoints := by
  intro c h
  refine ⟨Hub.localLayer_undriven, fun kind ⟨n, driving, aimed⟩ => ?_⟩
  have driver : n ∈ h.driversOf c := Hub.mem_driversOf.mpr ⟨driving, aimed⟩
  rw [Hub.localLayer_driven kind driver]
  refine ⟨rfl, fun relay => ?relay, fun lamp => ?lamp, fun sounder k drives own lowest => ?sounder⟩
  case relay =>
    have anyOn : ((h.driversOf c).map fun n => h.work.setpoints[n].command).any (fun x => x == .on) = true ↔
        ∃ n : Fin 16, h.driving n = true ∧ targetChannel h.work.setpoints[n].target = c ∧
          h.work.setpoints[n].command = .on := by
      simp only [List.any_map, List.any_eq_true, Function.comp, beq_iff_eq, Hub.mem_driversOf, and_assoc]
    rw [relay]
    simp only [Hub.combine, anyOn]
  case lamp =>
    rw [lamp]
    obtain ⟨among, _, all⟩ := Hub.strongestLamp ((h.driversOf c).map fun n => h.work.setpoints[n].command) .off
    refine ⟨_, rfl, among.imp_right fun member => ?_, fun k drives own => ?_⟩
    · obtain ⟨k, drives, same⟩ := List.mem_map.mp member
      obtain ⟨driving, aimed⟩ := Hub.mem_driversOf.mp drives
      exact ⟨k, driving, aimed, same⟩
    · exact all _ (List.mem_map.mpr ⟨k, Hub.mem_driversOf.mpr ⟨drives, own⟩, rfl⟩)
  case sounder =>
    rw [sounder]
    simp only [Hub.combine, List.head?_map, Hub.driversOf_head (Hub.mem_driversOf.mpr ⟨drives, own⟩) lowest,
      Option.map_some, Option.getD_some]

end Sys2Proof.Machine
end

section
/-! Requests that write a record or two: CHIME and SILENCE (8.2), STORE and its completion (R178), CONFIG_READ (R176), the
five queries (R191, R193, R195), with the operands as bytes. -/

namespace Sys2Proof.Machine

/-! ## Operands -/

theorem channelNo_isNone (ch : Byte) : (channelNo ch).isNone = true ↔ 22 < ch.toNat := by
  unfold channelNo
  split
  · next low => simp only [Option.isNone_some, Bool.false_eq_true, false_iff]; omega
  · next high => simp only [Option.isNone_none, true_iff]; omega

theorem indexOf_isNone {n : Nat} (b : Byte) : (indexOf n b : Option (Fin n)).isNone = true ↔ n ≤ b.toNat := by
  rw [Option.isNone_iff_eq_none, Hub.indexOf_none]

theorem blockOfByte_isNone (b : Byte) : (Block.ofByte b).isNone = true ↔ b.toNat < 1 ∨ 6 < b.toNat := by
  have all : ∀ b : Byte, (Block.ofByte b).isNone = true ↔ b.toNat < 1 ∨ 6 < b.toNat := by decide +kernel
  exact all b

theorem lengthOf_isNone (b : Byte) : (lengthOf b).isNone = true ↔ 1 < b.toNat := by
  have all : ∀ b : Byte, (lengthOf b).isNone = true ↔ 1 < b.toNat := by decide +kernel
  exact all b

/-! ## CHIME and SILENCE -/

namespace Hub

theorem onHold_iff (h : Hub) : h.onHold = true ↔ h.mode = .holding ∨ h.mode = .held := by
  simp [onHold]

theorem badChime_iff (pitch loudness length : Byte) :
    badChime pitch loudness length = true ↔
      7 < pitch.toNat ∨ loudness.toNat < 1 ∨ 8 < loudness.toNat ∨ 1 < length.toNat := by
  simp only [badChime, Bool.or_eq_true, decide_eq_true_eq, lengthOf_isNone, or_assoc]

theorem retriggers_iff {p : Port} {pitch : Nat} {h : Hub} :
    h.retriggers p pitch = true ↔
      ∃ k d rest, h.sounder.engine = .playing k ∧ h.sounder.queue = d :: rest ∧ d.port = p ∧ d.pitch = pitch := by
  unfold retriggers
  cases engine : h.sounder.engine <;> cases queue : h.sounder.queue <;> simp

/-- A chime played again takes its new loudness and length and starts its time afresh. -/
theorem retrigger_cons {h : Hub} {d : Chime} {rest : List Chime} (queue : h.sounder.queue = d :: rest) (loudness : Nat)
    (length : ChimeLength) :
    h.retrigger loudness length = { h with sounder := { h.sounder with
      queue := { d with loudness := loudness, length := length } :: rest, engine := .playing length.time
      chimeCut := true } } := by
  unfold retrigger
  rw [queue]
  rfl

/-- A chime that joins the queue is played at once where nothing plays. -/
theorem appendChime_eq {h : Hub} (idle : h.sounder.engine = .ready ↔ h.sounder.queue = []) (c : Chime) :
    h.appendChime c = { h with sounder := { h.sounder with
      queue := h.sounder.queue ++ [c]
      engine := if h.sounder.engine = .ready then .playing c.length.time else h.sounder.engine
      chimeCut := if h.sounder.engine = .ready then false else h.sounder.chimeCut } } := by
  unfold appendChime
  by_cases ready : h.sounder.engine = .ready
  · have empty := idle.mp ready
    simp [ready, startChime, modSounder, empty]
  · simp [ready, modSounder]

end Hub

/-- The checks of CHIME after the standing ones. -/
def Hub.chimeChecks (pitch loudness length : Byte) (h : Hub) : List (Bool × Result) :=
  [(h.mode == .faultHold, .wrongMode), (h.onHold, .held), (Hub.badChime pitch loudness length, .badValue),
    ((h.chan soundChannel).eff.command != .off, .sounderBusy)]

theorem exec_chime (p : Port) (pitch loudness length : Byte) (s : State) :
    exec (.chime p pitch loudness length) s =
      onRequest p (fun h => h.refuseFirst p (h.standing p ++ h.chimeChecks pitch loudness length)
        (match lengthOf length with
         | some x => h.askChime p pitch.toNat loudness.toNat x
         | none => h)) s := rfl

theorem exec_silence (p : Port) (s : State) :
    exec (.silence p) s =
      onRequest p (fun h => h.refuseFirst p (h.standing p ++ [(h.chimesOf p == 0, .notChiming)])
        ((h.withdrawChimes p).respond p .ok [byteOf (h.chimesOf p)])) s := rfl

section
variable {p : Port} {pitch loudness length : Byte} {s : State}

theorem exec_chime_asked (asks : s.hub.MayAsk p) (run : s.hub.mode = .run) (low : pitch.toNat ≤ 7)
    (audible : 1 ≤ loudness.toNat) (loud : loudness.toNat ≤ 8) {l : ChimeLength} (known : lengthOf length = some l)
    (silent : (s.hub.chan soundChannel).eff.command = .off) :
    exec (.chime p pitch loudness length) s = .next { s with
      hub := (Hub.restartLease p s.hub).askChime p pitch.toNat loudness.toNat l } := by
  have good : Hub.badChime pitch loudness length = false := by
    rw [Bool.eq_false_iff, Ne, Hub.badChime_iff, ← lengthOf_isNone, known]
    simp only [Option.isNone_some, Bool.false_eq_true, or_false]
    omega
  rw [exec_taken asks (exec_chime p pitch loudness length s) (by simp [Hub.chimeChecks, Hub.onHold, run, good, silent]),
    known]

end

/-- Settles O33: the refusals by the checks; a CHIME that passes them by what the queue holds. -/
theorem chimeIsQueuedOrStartedAgain : Obligations.ChimeIsQueuedOrStartedAgain := by
  refine ⟨fun p pitch loudness length s asks => ?refused,
    fun p pitch loudness length l s asks run low audible loud known silent => ?taken⟩
  case refused =>
    exact refusedInOrder_asked asks (checks := Hub.chimeChecks pitch loudness length) (more := fun _ => [])
      (exec_chime p pitch loudness length s) (by simp [Hub.chimeChecks, Hub.onHold_iff, Hub.badChime_iff])
  case taken =>
    intro a x time
    have sounder : a.sounder = x := Hub.restartLease_sounder s.hub p
    rw [exec_chime_asked asks run low audible loud known silent]
    refine ⟨fun k d rest playing queue own same => ?again, fun other full => ?full, fun other room idle => ?queued⟩
    case again =>
      have again : a.retriggers p pitch.toNat = true :=
        Hub.retriggers_iff.mpr ⟨k, d, rest, by rw [sounder, playing], by rw [sounder, queue], own, same⟩
      rw [Hub.askChime, if_pos again, Hub.retrigger_cons (by rw [sounder, queue]), sounder]
      cases l <;> rfl
    case full =>
      have once : a.retriggers p pitch.toNat = false := by rw [← other]; simp [Hub.retriggers, a]
      rw [Hub.askChime, if_neg (by rw [once]; decide), if_pos (by rw [sounder]; exact full)]
    case queued =>
      have once : a.retriggers p pitch.toNat = false := by rw [← other]; simp [Hub.retriggers, a]
      have fits : ¬ Config.chimeQueueSize ≤ a.sounder.queue.length := by rw [sounder]; exact Nat.not_le.mpr room
      rw [Hub.askChime, if_neg (by rw [once]; decide), if_neg fits, Hub.appendChime_eq (by rw [sounder]; exact idle),
        sounder]
      cases l <;> rfl

/-- A sounder's queue without the chimes of a port, with CHIME_DONE to it where it is ATTACHED. -/
theorem Hub.withdrawChimes_attached {p : Port} {h : Hub} (live : h.attached p = true) :
    h.withdrawChimes p = { h with sounder := { h.sounder with
      queue := h.sounder.queue.filter fun d : Chime => d.port != p
      engine :=
        match h.sounder.engine with
        | .ready => .ready
        | .playing k =>
          if (h.sounder.queue.head?.any fun d : Chime => d.port == p) then
            (if h.sounder.queue.filter (fun d : Chime => d.port != p) = [] then .ready else .gap (Config.ms 20))
          else .playing k
        | .gap k => if h.sounder.queue.filter (fun d : Chime => d.port != p) = [] then .ready else .gap k } }.modPort p fun t =>
      { t with flags := t.flags ||| 0x40 } := by
  have own : (h.sounder.queue.head?.map (fun c => c.port == p)).getD false =
      h.sounder.queue.head?.any fun d : Chime => d.port == p := by cases h.sounder.queue.head? <;> rfl
  unfold Hub.withdrawChimes Hub.giveFlag
  dsimp only
  rw [if_pos (by exact live), own]
  simp only [List.isEmpty_iff]
  cases h.sounder.engine <;> rfl

/-- Settles O34: NOT_CHIMING where the queue holds no chime of the port; else what withdrawing them writes. -/
theorem silenceWithdrawsThePortsChimes : Obligations.SilenceWithdrawsThePortsChimes := by
  refine ⟨fun p s asks => ?refused, fun p s asks chiming => ?taken⟩
  case refused =>
    refine refusedInOrder_asked asks (checks := fun h => [(h.chimesOf p == 0, .notChiming)]) (more := fun _ => [])
      (exec_silence p s) ?_
    simp [Hub.chimesOf]
  case taken =>
    have same : (Hub.restartLease p s.hub).chimesOf p = s.hub.chimesOf p := by simp [Hub.chimesOf]
    intro a x rest own
    have taken := exec_taken asks (exec_silence p s) (by simp [same, chiming])
    obtain ⟨_, _, live⟩ := asks
    rw [taken, same, Hub.withdrawChimes_attached (by simpa using live)]
    simp only [Hub.restartLease_sounder]
    rfl

/-! ## STORE and its completion -/

namespace Hub

theorem notWritable_iff (h : Hub) : h.notWritable = true ↔ h.mode ≠ .held ∧ h.mode ≠ .faultHold := by
  simp [notWritable]

/-- The checks of STORE after the standing ones. -/
def storeChecks (p : Port) (block : Byte) (h : Hub) : List (Bool × Result) :=
  [(!(h.portItem p).configGrant, .noGrant), (h.notWritable, .wrongMode), ((Block.ofByte block).isNone, .badValue),
    (h.storeOp.isSome, .storeBusy)]

end Hub

theorem exec_store (p : Port) (block : Byte) (s : State) :
    exec (.store p block) s = onRequest p (fun h => h.refuseFirst p (h.standing p ++ h.storeChecks p block)
      ({ h with storeOp := (Block.ofByte block).map fun b => (b, p) }.respond p .started [])) s := rfl

/-- Settles O52: STORE by its checks; its completion by the write in flight, and whether it verifies. -/
theorem storeWritesABlock : Obligations.StoreWritesABlock := by
  refine ⟨fun p block s asks => ?refused, fun p block b s asks mode named => ⟨fun idle => ?begins, fun busy => ?busy⟩,
    fun verified s => ⟨fun idle => ?nothing, fun b p flight => ⟨fun verifies answers => ?good, fun fails => ?bad⟩⟩⟩
  case refused =>
    exact refusedInOrder_asked asks (checks := Hub.storeChecks p block) (more := fun _ => []) (exec_store p block s)
      (by simpa [Hub.storeChecks, Hub.notWritable] using blockOfByte_isNone block)
  case begins =>
    obtain ⟨asks, grant⟩ := asks
    rw [exec_taken asks (exec_store p block s) (by simp [Hub.storeChecks, Hub.notWritable, grant, named, idle]; exact mode.resolve_left),
      named]
    rfl
  case busy =>
    obtain ⟨asks, grant⟩ := asks
    have writable : s.hub.notWritable = false := by simp [Hub.notWritable]; exact mode.resolve_left
    have same : (Hub.restartLease p s.hub).notWritable = s.hub.notWritable := by simp [Hub.notWritable]
    rw [exec_asked asks (exec_store p block s)]
    simp [Hub.storeChecks, Hub.refuseFirst_cons, grant, same, writable, named, busy]
  case nothing =>
    have still : s.hub.writeCompletes verified = s.hub := by unfold Hub.writeCompletes; rw [idle]
    exact congrArg (fun h => Host.Outcome.next { s with hub := h }) still
  case good =>
    refine congrArg (fun h => Host.Outcome.next { s with hub := h }) ?_
    unfold Hub.writeCompletes
    rw [flight, verifies, answers]
    rfl
  case bad =>
    refine congrArg (fun h => Host.Outcome.next { s with hub := h }) ?_
    have failed : (verified && !s.hub.faults.getLsbD 7) = false := by
      rcases fails with unverified | silent
      · rw [unverified]; rfl
      · rw [silent, Bool.not_true, Bool.and_false]
    unfold Hub.writeCompletes
    rw [flight]
    dsimp only
    rw [failed]
    rfl

/-! ## CONFIG_READ -/

namespace Hub

theorem decideConfigRead_named {h : Hub} {p : Port} {block item field : Byte} {v : BitVec 32} (mode : h.mode ≠ .startup)
    (live : h.attached p = true) (named : h.fieldNamed block item field = some v) :
    h.decideConfigRead p block item field = h.respond p .ok (be32 v) := by
  unfold decideConfigRead
  rw [named]
  exact refuseFirst_standing_taken _ mode live

theorem decideConfigRead_absent {h : Hub} {p : Port} {block item field : Byte} (mode : h.mode ≠ .startup)
    (live : h.attached p = true) (absent : h.fieldNamed block item field = none) :
    h.decideConfigRead p block item field = h.respond p .badValue [] := by
  unfold decideConfigRead
  rw [absent]
  exact (refuseFirst_standing_append _ _ mode live).trans (refuseFirst_singleton_fails _ _ _ rfl)

@[simp] theorem restartLease_fieldNamed (p : Port) (h : Hub) (block item field : Byte) :
    (restartLease p h).fieldNamed block item field = h.fieldNamed block item field := by
  rw [restartLease_ports_only]; rfl

end Hub

/-- Settles O49, by whether block, item and field name a field of the working copy. -/
theorem configReadAnswersTheWorkingCopy : Obligations.ConfigReadAnswersTheWorkingCopy := by
  intro p block item field s ⟨heard, mode, live⟩
  have decided : exec (.configRead p block item field) s =
      .next { s with hub := (Hub.restartLease p s.hub).decideConfigRead p block item field } :=
    onRequest_heard p (Hub.decideConfigRead p block item field) s heard
  rw [decided]
  refine ⟨fun b v known reads => ?named, fun unknown => ?absent⟩
  case named =>
    rw [Hub.decideConfigRead_named (by simpa using mode) (by simpa using live)
      (v := v) (by simp [Hub.fieldNamed, known, reads])]
  case absent =>
    rw [Hub.decideConfigRead_absent (by simpa using mode) (by simpa using live)
      (by simpa [Hub.fieldNamed, Option.bind_eq_none_iff] using unknown)]

/-! ## The queries -/

/-- A byte is sent with its known bits as laid out. -/
theorem LayoutByte.sent_known (x : LayoutByte) (n : Nat) : x.sent n &&& x.mask = x.val &&& x.mask := by
  unfold LayoutByte.sent
  split
  · rfl
  · refine BitVec.eq_of_getLsbD_eq fun i lt => ?_
    simp only [BitVec.getLsbD_and, BitVec.getLsbD_or, BitVec.getLsbD_not, lt, decide_true, Bool.true_and]
    cases x.mask.getLsbD i <;> simp

theorem length_sentBytes : ∀ (xs : List LayoutByte) (n : Nat), (sentBytes n xs).length = xs.length
  | [], _ => rfl
  | _ :: xs, n => congrArg (· + 1) (length_sentBytes xs (n + 1))

theorem getElem?_sentBytes : ∀ (xs : List LayoutByte) (n k : Nat) (x : LayoutByte), xs[k]? = some x →
    (sentBytes n xs)[k]? = some (x.sent (n + k))
  | [], _, _, _, absent => by simp at absent
  | y :: xs, n, 0, x, here => by
    rw [List.getElem?_cons_zero, Option.some.injEq] at here
    rw [here]
    rfl
  | y :: xs, n, k + 1, x, here => by
    rw [List.getElem?_cons_succ] at here
    rw [sentBytes, List.getElem?_cons_succ, getElem?_sentBytes xs (n + 1) k x here, Nat.add_right_comm, Nat.add_assoc]

/-- What is sent for a record shows it: its length, and each byte in its known bits. -/
theorem Hub.shows_sentBytes (n : Nat) (record : List LayoutByte) : Hub.Shows record (sentBytes n record) := by
  refine ⟨length_sentBytes record n, fun k x b here sent => ?_⟩
  rw [getElem?_sentBytes record n k x here, Option.some.injEq] at sent
  rw [← sent, x.sent_known]

section
variable (p : Port) (x : Byte) (s : State)

theorem exec_queryChannel : exec (.queryChannel p x) s =
    onRequest p (fun h => h.refuseFirst p (h.standing p ++ [((channelNo x).isNone, .badChannel)])
      (match channelNo x with
       | some c => h.respondRecord p (h.channelRecord c)
       | none => h)) s := rfl

theorem exec_queryClaims : exec (.queryClaims p x) s =
    onRequest p (fun h => h.refuseFirst p (h.standing p ++ [((channelNo x).isNone, .badChannel)])
      (h.onChannel x fun c h => h.respondRecord p (h.claimsRecord c))) s := rfl

theorem exec_querySlot : exec (.querySlot p x) s =
    onRequest p (fun h => h.refuseFirst p (h.standing p ++ [((indexOf 8 x).isNone, .badValue)])
      (match indexOf 8 x with
       | some k => h.respondRecord p (h.slotRecord k)
       | none => h)) s := rfl

theorem exec_querySetpoints : exec (.querySetpoints p) s =
    onRequest p (fun h => h.refuseFirst p (h.standing p ++ []) (h.respond p .ok h.setpointsBody)) s := rfl

end

section
variable {p : Port} {s : State}

/-- A query that answers a record answers a body that shows it, and counts the free values it uses. -/
theorem exec_shows {i : Instr} {record : List LayoutByte}
    (answers : exec i s = .next { s with hub := (Hub.restartLease p s.hub).respondRecord p record }) :
    ∃ body, exec i s = .next { s with
      hub := { (Hub.restartLease p s.hub).respond p .ok body with freeCount := s.hub.freeCount + record.length } } ∧
      Hub.Shows record body := by
  refine ⟨_, ?_, Hub.shows_sentBytes s.hub.freeCount record⟩
  rw [answers, Hub.respondRecord, Hub.restartLease_freeCount]

theorem exec_queryChannel_named (asks : s.hub.MayAsk p) {ch : Byte} {c : Fin 23} (named : channelNo ch = some c) :
    exec (.queryChannel p ch) s = .next { s with
      hub := (Hub.restartLease p s.hub).respondRecord p ((Hub.restartLease p s.hub).channelRecord c) } := by
  rw [exec_taken asks (exec_queryChannel p ch s) (by simp [named]), named]

theorem exec_queryClaims_named (asks : s.hub.MayAsk p) {ch : Byte} {c : Fin 23} (named : channelNo ch = some c) :
    exec (.queryClaims p ch) s = .next { s with
      hub := (Hub.restartLease p s.hub).respondRecord p ((Hub.restartLease p s.hub).claimsRecord c) } := by
  rw [exec_taken asks (exec_queryClaims p ch s) (by simp [named]), Hub.onChannel, named]

theorem exec_querySlot_named (asks : s.hub.MayAsk p) {slot : Byte} {k : Fin 8} (named : indexOf 8 slot = some k) :
    exec (.querySlot p slot) s = .next { s with
      hub := (Hub.restartLease p s.hub).respondRecord p ((Hub.restartLease p s.hub).slotRecord k) } := by
  rw [exec_taken asks (exec_querySlot p slot s) (by simp [named]), named]

theorem exec_querySetpoints_taken (asks : s.hub.MayAsk p) :
    exec (.querySetpoints p) s = .next { s with
      hub := (Hub.restartLease p s.hub).respond p .ok (Hub.restartLease p s.hub).setpointsBody } := by
  rw [exec_taken asks (exec_querySetpoints p s) (by simp)]

end

/-- Settles O54: the refusals and the bodies by the checks; what the bodies hold by the lemmas of the records. -/
theorem queriesAnswerTheirRecords : Obligations.QueriesAnswerTheirRecords := by
  refine ⟨fun p x s asks => ⟨?channel, ?claims, ?slot⟩, fun p s heard => ⟨?hub, fun asks => ⟨fun ch c named => ?_,
    fun ch c named => ?_, fun slot k named => ?_,
    exec_querySetpoints_taken asks⟩⟩, fun h body => ⟨Hub.Shows.hubRecord,
    fun c => Hub.Shows.channelRecord, fun r => Hub.Shows.relayRecord, fun l => Hub.Shows.lampRecord,
    Hub.Shows.soundRecord, fun u => Hub.Shows.stepperRecord, fun c => Hub.Shows.claimsRecord,
    fun k => Hub.Shows.slotRecord, Hub.setpointsBodyIs h⟩⟩
  case channel =>
    exact refusedInOrder_asked asks (checks := fun _ => [((channelNo x).isNone, .badChannel)]) (more := fun _ => [])
      (exec_queryChannel p x s) (by simpa using channelNo_isNone x)
  case claims =>
    exact refusedInOrder_asked asks (checks := fun _ => [((channelNo x).isNone, .badChannel)]) (more := fun _ => [])
      (exec_queryClaims p x s) (by simpa using channelNo_isNone x)
  case slot =>
    exact refusedInOrder_asked asks (checks := fun _ => [((indexOf 8 x).isNone, .badValue)]) (more := fun _ => [])
      (exec_querySlot p x s)
      (by simpa [Nat.lt_iff_add_one_le] using indexOf_isNone (n := 8) x)
  case hub => exact exec_shows (onRequest_heard p _ s heard)
  · exact exec_shows (exec_queryChannel_named asks named)
  · exact exec_shows (exec_queryClaims_named asks named)
  · exact exec_shows (exec_querySlot_named asks named)

end Sys2Proof.Machine
end

section
/-! The flash clock and the lamps (8.5), the envelope and the chimes in time (8.3, 8.4, 8.7), the order of the claim lists
(R24, R85) and the checks of CLAIM (R26). -/

namespace Sys2Proof.Machine

/-- An event of the part completes with what its effect makes of the part. -/
theorem onEvent_of_eq {effect : Hub → Hub} {s : State} {t : Hub} (same : effect s.hub = t) :
    onEvent effect s = .next { s with hub := t } := by
  rw [← same]; rfl

theorem onEvent_still {effect : Hub → Hub} {s : State} (same : effect s.hub = s.hub) : onEvent effect s = .next s :=
  onEvent_of_eq same

/-! ## The flash clock -/

namespace Hub

theorem lamp_showLamps (h : Hub) (l : Fin 8) : h.showLamps.lamp l = lampDrive h.flash (h.chan (lampChannel l)).taken := by
  unfold showLamps lamp
  simp [chan]

end Hub

/-- The FAST window is the first half of each quarter of a round. -/
theorem fastLit_iff {n : Nat} (within : n < Config.ms 1000) :
    fastLit (some n) = true ↔ n < Config.ms 125 ∨ (Config.ms 250 ≤ n ∧ n < Config.ms 375) ∨
      (Config.ms 500 ≤ n ∧ n < Config.ms 625) ∨ (Config.ms 750 ≤ n ∧ n < Config.ms 875) := by
  unfold fastLit
  rw [decide_eq_true_eq, Option.getD_some]
  simp only [Config.ms, Config.unitsPerMs] at within ⊢
  omega

theorem slowLit_iff (n : Nat) : slowLit (some n) = true ↔ n < Config.ms 500 := by
  simp [slowLit]

/-- Settles O37: the boundary by whether the clock runs; the lamps by the command they have taken. -/
theorem lampsFollowTheFlashClock : Obligations.LampsFollowTheFlashClock := by
  refine ⟨fun s => ⟨fun stopped => ?stopped, fun n runs => ?boundary⟩, fun n b source within => ?lamps⟩
  case stopped => exact onEvent_still (by unfold Hub.flashBoundaryPasses; rw [stopped])
  case boundary =>
    refine ⟨Hub.showLamps { s.hub with flash := some (Hub.nextBoundary n) },
      onEvent_of_eq (by unfold Hub.flashBoundaryPasses; rw [runs]), rfl, fun l => Hub.lamp_showLamps _ l, rfl⟩
  case lamps =>
    refine ⟨rfl, rfl, rfl, ?_, ?_⟩
    · simp only [lampDrive, slowLit_iff]
    · simp only [lampDrive, fastLit_iff within]

/-! ## Chimes and the envelope in time -/

namespace Hub

theorem playingEnds_cut {h : Hub} {k : Nat} {d : Chime} {rest : List Chime} (plays : h.sounder.engine = .playing k)
    (queue : h.sounder.queue = d :: rest) (cut : h.sounder.chimeCut = true) :
    h.playingEnds = { h with sounder := { h.sounder with chimeCut := false } } := by
  unfold playingEnds
  rw [plays, queue]
  exact if_pos cut

theorem playingEnds_whole {h : Hub} {k : Nat} {d : Chime} {rest : List Chime} (plays : h.sounder.engine = .playing k)
    (queue : h.sounder.queue = d :: rest) (whole : h.sounder.chimeCut = false) :
    h.playingEnds = { h with sounder := { h.sounder with
      queue := rest, engine := if rest = [] then .ready else .gap (Config.ms 20) } }.giveFlag d.port .chimeDone := by
  unfold playingEnds
  rw [plays, queue]
  dsimp only
  rw [if_neg (by simp [whole])]
  simp only [List.isEmpty_iff]
  rfl

theorem playingEnds_idle {h : Hub} (idle : ∀ k, h.sounder.engine ≠ .playing k) : h.playingEnds = h := by
  unfold playingEnds
  split
  · next k _ _ plays _ => exact absurd plays (idle k)
  · rfl

theorem gapEnds_gap {h : Hub} {k : Nat} {d : Chime} {rest : List Chime} (gap : h.sounder.engine = .gap k)
    (queue : h.sounder.queue = d :: rest) :
    h.gapEnds = { h with sounder := { h.sounder with engine := .playing d.length.time, chimeCut := false } } := by
  unfold gapEnds startChime
  rw [gap, queue]
  rfl

theorem gapEnds_idle {h : Hub} (idle : ∀ k, h.sounder.engine ≠ .gap k) : h.gapEnds = h := by
  unfold gapEnds
  split
  · next k gap => exact absurd gap (idle k)
  · rfl
  · rfl

section
variable {h : Hub} {k pitch loudness : Nat} {d : Decay}

theorem decayExpires_cut (sounds : h.sounder.tone = .sounding) (runs : h.sounder.decay = some k)
    (tone : h.soundCommand = some (.tone pitch loudness d)) (cut : h.sounder.decayCut = true) :
    h.decayExpires = { h with sounder := { h.sounder with decayCut := false } } := by
  unfold decayExpires
  rw [sounds, runs, tone]
  simp [modSounder, cut]

theorem decayExpires_whole (sounds : h.sounder.tone = .sounding) (runs : h.sounder.decay = some k)
    (tone : h.soundCommand = some (.tone pitch loudness d)) (whole : h.sounder.decayCut = false) :
    h.decayExpires = { h with sounder := { h.sounder with
      level := h.sounder.level - 1, decay := decayTimer d (h.sounder.level - 1) } } := by
  unfold decayExpires
  rw [sounds, runs, tone]
  simp [modSounder, whole]

end

theorem decayExpires_idle {h : Hub} (idle : h.sounder.tone = .silent ∨ h.sounder.decay = none) : h.decayExpires = h := by
  unfold decayExpires
  split
  · next sounds runs _ => rcases idle with silent | stopped <;> simp_all
  · rfl

end Hub

/-- Settles O35: each expiry by the engine's state and the mark of a run cut short. -/
theorem chimesAndEnvelopePlayInTime : Obligations.ChimesAndEnvelopePlayInTime := by
  refine ⟨fun s => ⟨fun k d rest plays queue cut => onEvent_of_eq (Hub.playingEnds_cut plays queue cut),
    fun k d rest plays queue whole => onEvent_of_eq (Hub.playingEnds_whole plays queue whole),
    fun idle => onEvent_still (Hub.playingEnds_idle idle),
    fun k d rest gap queue => onEvent_of_eq (Hub.gapEnds_gap gap queue),
    fun idle => onEvent_still (Hub.gapEnds_idle idle)⟩,
    fun k pitch loudness d source s sounds runs taken => ?decay, fun s idle => onEvent_still (Hub.decayExpires_idle idle)⟩
  have tone : s.hub.soundCommand = some (.tone pitch loudness d) := by simp [Hub.soundCommand, taken]
  refine ⟨fun cut => onEvent_of_eq (Hub.decayExpires_cut sounds runs tone cut), fun whole => onEvent_of_eq ?_⟩
  rw [Hub.decayExpires_whole sounds runs tone whole]
  cases d <;> rfl

/-! ## The order of a claim list -/

/-- A claim above every claim of the list goes to its head, and no claim of the list is of its level or higher. -/
theorem insertClaim_above {x : Claim} : ∀ {xs : List Claim}, (∀ y ∈ xs, y.level < x.level) → insertClaim x xs = x :: xs
  | [], _ => rfl
  | y :: ys, below => by
    rw [insertClaim, if_neg]
    simp only [List.any_eq_true, decide_eq_true_eq, not_exists, not_and, Nat.not_le]
    exact below

/-- Where levels do not rise, a claim passes every claim of its level or higher and no other. -/
theorem insertClaim_eq (x : Claim) : ∀ (xs : List Claim), xs.Pairwise (fun y z => z.level ≤ y.level) →
    insertClaim x xs =
      xs.filter (fun y => decide (x.level ≤ y.level)) ++ x :: xs.filter (fun y => decide (y.level < x.level))
  | [], _ => rfl
  | y :: ys, sorted => by
    obtain ⟨head, tail⟩ := List.pairwise_cons.mp sorted
    by_cases first : x.level ≤ y.level
    · rw [insertClaim, if_pos (by simp [first]), insertClaim_eq x ys tail, List.filter_cons_of_pos (by simpa using first),
        List.filter_cons_of_neg (by simpa using first), List.cons_append]
    · have below : ∀ z ∈ y :: ys, z.level < x.level :=
        List.forall_mem_cons.mpr ⟨Nat.not_le.mp first, fun z m => Nat.lt_of_le_of_lt (head z m) (Nat.not_le.mp first)⟩
      rw [insertClaim_above below, List.filter_eq_nil_iff.mpr fun z m => by simpa using below z m,
        List.filter_eq_self.mpr fun z m => by simpa using below z m]
      rfl

/-- Where each port has one claim, the claim of a port is found by it. -/
theorem claimOf_of_mem : ∀ {xs : List Claim} {x : Claim}, (xs.map (·.port)).Nodup → x ∈ xs → claimOf x.port xs = some x
  | [], _, _, absent => absurd absent List.not_mem_nil
  | y :: ys, x, nodup, member => by
    obtain ⟨fresh, nodup⟩ := List.nodup_cons.mp nodup
    rcases List.mem_cons.mp member with same | later
    · rw [same, claimOf, List.find?_cons_of_pos (by simp)]
    · have other : y.port ≠ x.port := fun same =>
        fresh (List.mem_map.mpr ⟨x, later, same.symm⟩)
      rw [claimOf, List.find?_cons_of_neg (by simpa using other)]
      exact claimOf_of_mem nodup later

theorem mem_of_claimOf {p : Port} {xs : List Claim} {x : Claim} (found : claimOf p xs = some x) :
    x ∈ xs ∧ x.port = p :=
  ⟨List.mem_of_find?_eq_some found, by simpa using List.find?_some found⟩

theorem grantReorder_of {r d : Port} {xs : List Claim} {x y : Claim} (own : claimOf r xs = some x)
    (held : claimOf d xs = some y) :
    grantReorder r d xs =
      xs.filter (fun z => decide (x.level < z.level)) ++ [x, y] ++
        xs.filter (fun z => decide (z.level = x.level) && z.port != r && z.port != d) ++
        xs.filter (fun z => decide (z.level < x.level)) := by
  unfold grantReorder
  rw [own, held]

/-- In a list of one claim a port, the claims of two ports are those two claims. -/
theorem perm_two_of_nodup {xs : List Claim} {r d : Claim} (nodup : (xs.map (·.port)).Nodup) (mr : r ∈ xs) (md : d ∈ xs)
    (apart : r.port ≠ d.port) (q : Claim → Bool) (qr : q r = true) (qd : q d = true) :
    (xs.filter q).Perm (r :: d :: xs.filter fun z => q z && z.port != r.port && z.port != d.port) := by
  have inj : ∀ {y z : Claim}, y ∈ xs → z ∈ xs → y.port = z.port → y = z := fun my mz same => by
    have found := claimOf_of_mem nodup my
    rw [same, claimOf_of_mem nodup mz] at found
    exact (Option.some.inj found).symm
  have nodupXs : xs.Nodup := (List.pairwise_map.mp nodup).imp fun apart same => apart (congrArg Claim.port same)
  refine (List.perm_ext_iff_of_nodup (nodupXs.filter q) ?_).mpr fun z => ?_
  · refine List.nodup_cons.mpr ⟨?_, List.nodup_cons.mpr ⟨?_, nodupXs.filter _⟩⟩
    · simp only [List.mem_cons, List.mem_filter, Bool.and_eq_true, bne_iff_ne, ne_eq]
      rintro (same | ⟨_, ⟨_, other⟩, _⟩)
      · exact apart (congrArg Claim.port same)
      · exact other trivial
    · simp [List.mem_filter]
  · simp only [List.mem_cons, List.mem_filter, Bool.and_eq_true, bne_iff_ne, ne_eq]
    constructor
    · rintro ⟨member, fits⟩
      by_cases own : z.port = r.port
      · exact .inl (inj member mr own)
      · by_cases held : z.port = d.port
        · exact .inr (.inl (inj member md held))
        · exact .inr (.inr ⟨member, ⟨fits, own⟩, held⟩)
    · rintro (rfl | rfl | ⟨member, ⟨fits, _⟩, _⟩)
      · exact ⟨mr, qr⟩
      · exact ⟨md, qd⟩
      · exact ⟨member, fits⟩

/-- A list whose levels do not rise is the claims above a level, those of it and those below it, in that order. -/
theorem sorted_split (level : Nat) : ∀ {xs : List Claim}, xs.Pairwise (fun y z => z.level ≤ y.level) →
    xs.filter (fun z => decide (level < z.level)) ++ xs.filter (fun z => decide (z.level = level)) ++
      xs.filter (fun z => decide (z.level < level)) = xs
  | [], _ => rfl
  | y :: ys, sorted => by
    obtain ⟨head, tail⟩ := List.pairwise_cons.mp sorted
    have rest := sorted_split level tail
    rcases Nat.lt_trichotomy level y.level with above | same | below
    · rw [List.filter_cons_of_pos (by simpa using above), List.filter_cons_of_neg (by simp; omega),
        List.filter_cons_of_neg (by simp; omega), List.cons_append, List.cons_append, rest]
    · have none_above : ys.filter (fun z => decide (level < z.level)) = [] :=
        List.filter_eq_nil_iff.mpr fun z m => by have := head z m; simp; omega
      rw [none_above, List.nil_append] at rest
      rw [List.filter_cons_of_neg (by simp; omega), List.filter_cons_of_pos (by simp; omega),
        List.filter_cons_of_neg (by simp; omega), none_above, List.nil_append, List.cons_append, rest]
    · have none_above : ys.filter (fun z => decide (level < z.level)) = [] :=
        List.filter_eq_nil_iff.mpr fun z m => by have := head z m; simp; omega
      have none_of : ys.filter (fun z => decide (z.level = level)) = [] :=
        List.filter_eq_nil_iff.mpr fun z m => by have := head z m; simp; omega
      rw [none_above, none_of] at rest
      rw [List.filter_cons_of_neg (by simp; omega), List.filter_cons_of_neg (by simp; omega),
        List.filter_cons_of_pos (by simpa using below), none_above, none_of, List.nil_append, List.nil_append]
      exact congrArg (y :: ·) rest

section
variable {xs : List Claim} {r d : Claim}

theorem grantReorder_perm (nodup : (xs.map (·.port)).Nodup) (sorted : xs.Pairwise fun y z => z.level ≤ y.level)
    (mr : r ∈ xs) (md : d ∈ xs) (apart : r.port ≠ d.port) (level : r.level = d.level) :
    (grantReorder r.port d.port xs).Perm xs := by
  rw [grantReorder_of (claimOf_of_mem nodup mr) (claimOf_of_mem nodup md)]
  have two := perm_two_of_nodup nodup mr md apart (fun z => decide (z.level = r.level)) (by simp) (by simp [level])
  conv => rhs; rw [← sorted_split r.level sorted]
  rw [List.append_assoc _ [r, d]]
  exact (two.symm.append_left _).append_right _

theorem grantReorder_sorted (nodup : (xs.map (·.port)).Nodup) (sorted : xs.Pairwise fun y z => z.level ≤ y.level)
    (mr : r ∈ xs) (md : d ∈ xs) (level : r.level = d.level) :
    (grantReorder r.port d.port xs).Pairwise fun y z => z.level ≤ y.level := by
  rw [grantReorder_of (claimOf_of_mem nodup mr) (claimOf_of_mem nodup md)]
  simp only [List.pairwise_append, List.mem_append, List.mem_filter, List.pairwise_cons, List.mem_cons,
    List.not_mem_nil, or_false, Bool.and_eq_true, decide_eq_true_eq, List.Pairwise.nil, and_true]
  refine ⟨⟨⟨sorted.filter _, ?_, ?_⟩, List.Pairwise.filter _ ?_, ?_⟩, sorted.filter _, ?_⟩
  · exact ⟨fun z same => by rw [same]; exact Nat.le_of_eq level.symm, fun _ absent => absurd absent (by simp)⟩
  · rintro y ⟨_, above⟩ z (rfl | rfl) <;> omega
  · exact sorted
  · rintro y (⟨_, above⟩ | rfl | rfl) z ⟨_, ⟨same, _⟩, _⟩ <;> omega
  · rintro y ((⟨_, above⟩ | rfl | rfl) | ⟨_, ⟨same, _⟩, _⟩) z ⟨_, below⟩ <;> omega

end

/-- Settles O15: the insertion by induction on the list; the reorder as the list cut by the level of the two claims. -/
theorem claimListsAreOrderedByLevelAndArrival : Obligations.ClaimListsAreOrderedByLevelAndArrival := by
  refine ⟨insertClaim_eq, fun xs r d nodup sorted mr md apart level => ⟨grantReorder_perm nodup sorted mr md apart level,
    grantReorder_sorted nodup sorted mr md level, ?level, ?others⟩⟩
  case level =>
    rw [grantReorder_of (claimOf_of_mem nodup mr) (claimOf_of_mem nodup md)]
    have above : (xs.filter fun z => decide (r.level < z.level)).filter (fun y => decide (y.level = r.level)) = [] :=
      List.filter_eq_nil_iff.mpr fun z m => by have := (List.mem_filter.mp m).2; simp at this ⊢; omega
    have below : (xs.filter fun z => decide (z.level < r.level)).filter (fun y => decide (y.level = r.level)) = [] :=
      List.filter_eq_nil_iff.mpr fun z m => by have := (List.mem_filter.mp m).2; simp at this ⊢; omega
    have same : (xs.filter fun z => decide (z.level = r.level) && z.port != r.port && z.port != d.port).filter
        (fun y => decide (y.level = r.level)) =
        xs.filter fun z => decide (z.level = r.level) && z.port != r.port && z.port != d.port :=
      List.filter_eq_self.mpr fun z m => by
        have fits := (List.mem_filter.mp m).2
        simp only [Bool.and_eq_true] at fits
        exact fits.1.1
    simp only [List.filter_append, above, below, same, List.nil_append, List.append_nil]
    simp [level]
  case others =>
    rw [grantReorder_of (claimOf_of_mem nodup mr) (claimOf_of_mem nodup md)]
    conv => rhs; rw [← sorted_split r.level sorted]
    simp only [List.filter_append]
    have gone : [r, d].filter (fun y => y.port != r.port && y.port != d.port) = [] := by simp
    have same : (xs.filter fun z => decide (z.level = r.level) && z.port != r.port && z.port != d.port).filter
        (fun y => y.port != r.port && y.port != d.port) =
        (xs.filter fun z => decide (z.level = r.level)).filter (fun y => y.port != r.port && y.port != d.port) := by
      rw [List.filter_filter, List.filter_filter]
      congr 1
      funext z
      cases decide (z.level = r.level) <;> simp
    rw [gone, List.append_nil, same]

end Sys2Proof.Machine
end

section
/-! What an operation may tell the ports. `RelayOnly` is an operation of the relay unit that writes relays and dead timers
and nothing else; `Tells F` is one that moves nothing of a port but its flags and change set, and gives no flag outside `F`.
-/

namespace Sys2Proof.Machine

theorem Flag.bit_inj {f g : Flag} : f.bit = g.bit ↔ f = g := by
  constructor
  · cases f <;> cases g <;> simp [Flag.bit]
  · rintro rfl; rfl

theorem Flag.bit_lt (f : Flag) : f.bit < 14 := by
  cases f <;> decide

theorem Flag.word_bit (f g : Flag) : f.word.getLsbD g.bit = decide (f = g) := by
  rw [Flag.word, BitVec.getLsbD_twoPow]
  simp [Flag.bit_lt, Flag.bit_inj]

namespace Hub

/-! ## Relays and dead timers alone -/

/-- The relay unit has moved, and nothing else of the part. -/
def RelayOnly (h t : Hub) : Prop := t = { h with relays := t.relays, dead := t.dead }

namespace RelayOnly
variable {h t v : Hub}

theorem refl (h : Hub) : RelayOnly h h := rfl

theorem trans (a : RelayOnly h t) (b : RelayOnly t v) : RelayOnly h v := by
  unfold RelayOnly at *
  rw [b, a]

theorem ports (a : RelayOnly h t) : t.ports = h.ports := by rw [a]
theorem channels (a : RelayOnly h t) : t.channels = h.channels := by rw [a]
theorem relayCond (a : RelayOnly h t) : t.relayCond = h.relayCond := by rw [a]
theorem work (a : RelayOnly h t) : t.work = h.work := by rw [a]

theorem chan (a : RelayOnly h t) (c : Fin 23) : t.chan c = h.chan c := chan_of_channels a.channels c

theorem namesRelay (a : RelayOnly h t) (g : Fin 4) (r : Fin 12) : t.namesRelay g r = h.namesRelay g r := by
  rw [Hub.namesRelay, a.work]; rfl

theorem members (a : RelayOnly h t) (g : Fin 4) : t.members g = h.members g := members_of_work a.work g

theorem groupOf (a : RelayOnly h t) (r : Fin 12) : t.groupOf r = h.groupOf r := groupOf_of_work a.work r

theorem asksOn (a : RelayOnly h t) (r : Fin 12) : t.asksOn r = h.asksOn r := by
  rw [Hub.asksOn, a.chan]; rfl

theorem sourceLevel (a : RelayOnly h t) (r : Fin 12) : t.sourceLevel r = h.sourceLevel r := by
  rw [Hub.sourceLevel, a.chan]; rfl

theorem sourcePort (a : RelayOnly h t) (r : Fin 12) : t.sourcePort r = h.sourcePort r := by
  rw [Hub.sourcePort, a.chan]; rfl

end RelayOnly

theorem relayOnly_modRelay (r : Fin 12) (f : Relay → Relay) (h : Hub) : RelayOnly h (h.modRelay r f) := rfl

theorem relayOnly_setDead (g : Fin 4) (t : DeadTimer) (h : Hub) : RelayOnly h (h.setDead g t) := rfl

theorem relayOnly_setRelayState (r : Fin 12) (x : RelayState) (why : Option LeaveReason) (h : Hub) :
    RelayOnly h (h.setRelayState r x why) := rfl

theorem relayOnly_switchOn (r : Fin 12) (h : Hub) : RelayOnly h (h.switchOn r) := rfl

theorem relayOnly_switchOff (r : Fin 12) (into : RelayState) (h : Hub) : RelayOnly h (h.switchOff r into) := by
  unfold switchOff
  dsimp only
  split
  · exact (relayOnly_modRelay r _ h).trans (relayOnly_setDead _ _ _)
  · exact relayOnly_modRelay r _ h

theorem relayOnly_foldl {α : Type} {f : Hub → α → Hub} (one : ∀ h a, RelayOnly h (f h a)) (xs : List α) (h : Hub) :
    RelayOnly h (xs.foldl f h) :=
  List.foldlRecOn (motive := RelayOnly h) xs f (.refl h) fun t so a _ => so.trans (one t a)

theorem relayOnly_follow (r : Fin 12) (h : Hub) : RelayOnly h (h.follow r) := by
  have set := relayOnly_setRelayState r (h := h)
  have on := relayOnly_switchOn r h
  have off := relayOnly_switchOff r .off h
  unfold follow followOn followOff
  split
  · split
    · exact .refl h
    · exact .refl h
    · exact set _ _
    all_goals
      split
      · exact set _ _
      · exact on
  · split
    · split
      · exact set _ _
      · exact off
    · exact .refl h
    · exact .refl h
    all_goals exact set _ _

theorem relayOnly_followExpiry (r : Fin 12) (h : Hub) : RelayOnly h (h.followExpiry r) := by
  unfold followExpiry
  split
  · exact relayOnly_switchOn r h
  · exact relayOnly_switchOff r .off h
  all_goals exact .refl h

theorem relayOnly_settleMember (h : Hub) (r : Fin 12) : RelayOnly h (h.settleMember r) := by
  have set := relayOnly_setRelayState r (h := h)
  unfold settleMember
  split
  · split
    · exact set _ _
    · split
      · exact .refl h
      · exact relayOnly_switchOff r _ h
  · split
    · exact .refl h
    · split
      · exact set _ _
      · exact relayOnly_switchOff r _ h
  · split
    · exact .refl h
    · exact set _ _
  · split
    · exact .refl h
    · exact set _ _
  · exact .refl h
  · split
    · exact .refl h
    · exact set _ _

theorem relayOnly_settleMembers (g : Fin 4) (h : Hub) : RelayOnly h ((h.members g).foldl settleMember h) :=
  relayOnly_foldl relayOnly_settleMember _ h

theorem relayOnly_forceOut (i : Fin 12) (h : Hub) : RelayOnly h (h.forceOut i) := by
  unfold forceOut
  split
  · split
    · exact relayOnly_setRelayState i _ _ h
    · exact relayOnly_switchOff i _ h
  · exact relayOnly_setRelayState i _ _ h

theorem relayOnly_preemption (g : Fin 4) (h : Hub) : RelayOnly h (h.preemption g).1 := by
  unfold preemption
  split
  · split
    · exact relayOnly_forceOut _ h
    · exact .refl h
  · exact .refl h

theorem relayOnly_holdAll (held : List (Fin 12)) (h : Hub) :
    RelayOnly h (held.foldl (fun x r => x.setRelayState r .heldOff none) h) :=
  relayOnly_foldl (fun h r => relayOnly_setRelayState r .heldOff none h) held h

theorem relayOnly_chooseAndHold (g : Fin 4) (remains : Option (Fin 12)) (h : Hub) :
    RelayOnly h (h.chooseAndHold g remains) := by
  unfold chooseAndHold
  dsimp only
  refine RelayOnly.trans ?_ (relayOnly_holdAll _ _)
  split
  · exact relayOnly_setRelayState _ _ _ h
  · exact .refl h

theorem relayOnly_closeChosen (g : Fin 4) (h : Hub) : RelayOnly h (h.closeChosen g) := by
  unfold closeChosen
  split
  · split
    · exact relayOnly_switchOn _ h
    · exact .refl h
  · exact .refl h

theorem relayOnly_contestPass (g : Fin 4) (h : Hub) : RelayOnly h (h.contestPass g).1 :=
  (((relayOnly_settleMembers g h).trans (relayOnly_preemption g _)).trans (relayOnly_chooseAndHold g _ _)).trans
    (relayOnly_closeChosen g _)

theorem relayOnly_contestPasses (g : Fin 4) : ∀ (fuel : Nat) (h : Hub), RelayOnly h (h.contestPasses g fuel)
  | 0, h => .refl h
  | more + 1, h => by
    have pass := relayOnly_contestPass g h
    rw [contestPasses_succ]
    split
    · exact pass.trans (relayOnly_contestPasses g more _)
    · exact pass

/-! ## What the ports are told -/

/-- Of a port only the flags and the change set have moved, and no flag outside the list is new. -/
structure Tells (F : List Flag) (h t : Hub) : Prop where
  ports : ∀ p, t.port p = { h.port p with flags := (t.port p).flags, change := (t.port p).change }
  flags : ∀ p f, t.hasFlag p f = true → h.hasFlag p f = true ∨ f ∈ F

namespace Tells
variable {F G : List Flag} {h t v : Hub}

theorem refl (h : Hub) : Tells F h h := ⟨fun _ => rfl, fun _ _ => .inl⟩

theorem trans (a : Tells F h t) (b : Tells F t v) : Tells F h v where
  ports p := by rw [b.ports p, a.ports p]
  flags p f given := (b.flags p f given).elim (a.flags p f) .inr

theorem mono (a : Tells F h t) (sub : F ⊆ G) : Tells G h t where
  ports := a.ports
  flags p f given := (a.flags p f given).imp_right fun within => sub within

theorem of_ports (same : t.ports = h.ports) : Tells F h t := by
  have port : ∀ p, t.port p = h.port p := fun p => by rw [port, same]; rfl
  exact ⟨fun p => by rw [port p], fun p f given => .inl (by rwa [hasFlag, port p] at given)⟩

/-- What is told after a step that leaves the ports alone. -/
theorem after (a : Tells F t v) (same : t.ports = h.ports) : Tells F h v := (of_ports same).trans a

theorem tenancy (a : Tells F h t) (p : Port) : (t.port p).tenancy = (h.port p).tenancy := by rw [a.ports p]

theorem attached (a : Tells F h t) (p : Port) : t.attached p = h.attached p := by
  rw [Hub.attached, a.tenancy]; rfl

theorem asked (a : Tells F h t) (p : Port) : (t.port p).asked = (h.port p).asked := by rw [a.ports p]

theorem resetLow (a : Tells F h t) (p : Port) : (t.port p).resetLow = (h.port p).resetLow := by rw [a.ports p]

/-- A flag outside the list is not given. -/
theorem absent (a : Tells F h t) {p : Port} {f : Flag} (before : h.hasFlag p f = false) (outside : f ∉ F) :
    t.hasFlag p f = false := by
  rw [Bool.eq_false_iff]
  intro given
  rcases a.flags p f given with there | within
  · rw [before] at there; exact Bool.false_ne_true there
  · exact outside within

end Tells

theorem tells_modPort {F : List Flag} {p : Port} {h : Hub} {f : PortUnit → PortUnit} (word : BitVec 14)
    (fields : ∀ t : PortUnit, f t = { t with flags := (f t).flags, change := (f t).change })
    (gains : ∀ t : PortUnit, (f t).flags = t.flags ||| word) (within : ∀ g : Flag, word.getLsbD g.bit = true → g ∈ F) :
    Tells F h (h.modPort p f) := by
  refine ⟨fun q => ?_, fun q g => ?_⟩
  · rw [port_modPort]
    split
    · next same => subst same; exact fields _
    · rfl
  · unfold hasFlag
    rw [port_modPort]
    split
    · next same =>
      subst same
      rw [gains, BitVec.getLsbD_or, Bool.or_eq_true]
      exact Or.imp_right (within g)
    · exact .inl

theorem tells_giveFlag (p : Port) (f : Flag) (h : Hub) : Tells [f] h (h.giveFlag p f) := by
  unfold giveFlag
  split
  · exact tells_modPort f.word (fun _ => rfl) (fun _ => rfl)
      fun g given => by rw [Flag.word_bit, decide_eq_true_eq] at given; simp [given]
  · exact .refl h

theorem tells_giveFlagOn (p : Port) (f : Flag) (c : Fin 23) (h : Hub) : Tells [f] h (h.giveFlagOn p f c) := by
  unfold giveFlagOn
  split
  · exact tells_modPort f.word (fun _ => rfl) (fun _ => rfl)
      fun g given => by rw [Flag.word_bit, decide_eq_true_eq] at given; simp [given]
  · exact .refl h

theorem tells_foldl {α : Type} {F : List Flag} {f : Hub → α → Hub} (one : ∀ h a, Tells F h (f h a)) (xs : List α)
    (h : Hub) : Tells F h (xs.foldl f h) :=
  List.foldlRecOn (motive := Tells F h) xs f (.refl h) fun t so a _ => so.trans (one t a)

theorem tells_giveAll (f : Flag) (h : Hub) : Tells [f] h (h.giveAll f) := tells_foldl (fun h p => tells_giveFlag p f h) _ h

theorem tells_giveChimesDone (xs : List Chime) (h : Hub) : Tells [.chimeDone] h (h.giveChimesDone xs) :=
  tells_foldl (f := fun x d => x.giveFlag d.port .chimeDone) (fun h d => tells_giveFlag d.port .chimeDone h) xs h

/-! ## The relay unit tells INTERLOCK -/

theorem tells_interlockNotice (before h : Hub) (r : Fin 12) : Tells [.interlock] h (interlockNotice before h r) := by
  unfold interlockNotice
  split
  · split
    · exact tells_giveFlagOn _ _ _ h
    · exact .refl h
  · exact .refl h

theorem tells_contest (g : Fin 4) (h before : Hub) : Tells [.interlock] h (contest g h before) :=
  (Tells.of_ports (relayOnly_contestPasses g 32 h).ports).trans
    (tells_foldl (fun h r => tells_interlockNotice before h r) _ _)

theorem tells_relayTakes (r : Fin 12) (change : Bool) (h before : Hub) :
    Tells [.interlock] h (relayTakes r change h before) := by
  unfold relayTakes
  split
  · exact .refl h
  · split
    · exact tells_contest _ h before
    · split
      · exact .of_ports (relayOnly_follow r h).ports
      · exact .refl h

theorem tells_thawRelays (h : Hub) : Tells [.interlock] h h.thawRelays := by
  unfold thawRelays
  dsimp only
  have follows (t : Hub) (r : Fin 12) : Tells [.interlock] t (t.follow r) := .of_ports (relayOnly_follow r t).ports
  exact ((tells_foldl follows _ _).trans (tells_foldl (fun t g => tells_contest g t h) _ _)).after rfl

/-! ## The sounder tells CHIME_DONE -/

theorem startTone_sounder_only (h : Hub) : h.startTone = { h with sounder := h.startTone.sounder } := by
  unfold startTone
  split <;> rfl

theorem tells_startTone (h : Hub) : Tells [.chimeDone] h h.startTone := .of_ports (by rw [startTone_sounder_only])

theorem tells_emptyChimes (h : Hub) : Tells [.chimeDone] h h.emptyChimes :=
  (tells_giveChimesDone _ h).trans (.of_ports rfl)

theorem tells_sounderTakes (change : Bool) (h : Hub) : Tells [.chimeDone] h (h.sounderTakes change) := by
  unfold sounderTakes
  split
  · exact .refl h
  · split
    · split
      · refine Tells.trans ?_ (tells_startTone _)
        split
        · exact .refl h
        · exact tells_emptyChimes h
      · exact .of_ports rfl
    · exact .refl h

theorem tells_sounderRenewed (h : Hub) : Tells [.chimeDone] h h.sounderRenewed := by
  unfold sounderRenewed
  split
  · exact .refl h
  · exact tells_startTone h

theorem startChime_sounder_only (h : Hub) : h.startChime = { h with sounder := h.startChime.sounder } := by
  unfold startChime
  split <;> rfl

theorem tells_withdrawChimes (p : Port) (h : Hub) : Tells [.chimeDone] h (h.withdrawChimes p) :=
  (tells_giveFlag _ _ _).after rfl

theorem tells_freezeSounder (h : Hub) : Tells [.chimeDone] h h.freezeSounder :=
  (tells_emptyChimes h).trans (.of_ports rfl)

theorem tells_thawSounder (h : Hub) : Tells [.chimeDone] h h.thawSounder :=
  (tells_startTone _).after rfl

/-! ## The steppers tell ARRIVED -/

section
variable (u : Fin 2) (h : Hub)

theorem tells_giveArrived : Tells [.arrived] h (h.giveArrived u) := by
  unfold giveArrived
  split
  · exact tells_giveFlagOn _ _ _ h
  · exact .refl h

theorem tells_decision : Tells [.arrived] h (h.decision u) := by
  unfold decision
  dsimp only
  split
  · exact .refl h
  · split
    · exact (tells_giveArrived u _).after rfl
    · split
      · exact .of_ports rfl
      · exact .of_ports (by split <;> split <;> rfl)

theorem tells_startRunStep : Tells [.arrived] h (h.startRunStep u) := by
  unfold startRunStep
  split <;> exact .of_ports rfl

theorem tells_startRun : Tells [.arrived] h (h.startRun u) := by
  unfold startRun
  dsimp only
  split
  · exact .of_ports rfl
  · exact (tells_startRunStep u _).after rfl

theorem tells_stepperTakes (change : Bool) : Tells [.arrived] h (h.stepperTakes u change) := by
  unfold stepperTakes
  split
  · split
    · exact tells_decision u h
    · split
      · exact .refl h
      · exact tells_decision u h
    all_goals exact .refl h
  · exact .refl h

theorem drainUnit_ports : (h.drainUnit u).ports = h.ports := by
  unfold drainUnit
  split
  · rfl
  · rfl
  · rfl
  all_goals split <;> rfl

theorem tells_thawUnit (changed : Bool) : Tells [.arrived] h (h.thawUnit u changed) := by
  have running : Tells [.arrived] h (h.modStepper u fun t => { t with cond := .running }) := .of_ports rfl
  unfold thawUnit
  dsimp only
  split
  · exact .refl h
  · exact running
  · split
    · exact running.trans (tells_decision u _)
    · exact running

theorem tells_autoReference : Tells [.arrived] h (h.autoReference u) := by
  unfold autoReference
  split
  · exact tells_startRun u h
  · exact .refl h

end

/-! ## A forming tells what the engines tell, and WON and LOST -/

/-- The flags the engines give. -/
def engineFlags : List Flag := [.interlock, .chimeDone, .arrived]

/-- The flags a forming can give: WON, LOST, and those of the engine it hands over to. -/
def formFlags : List Flag := .won :: .lost :: engineFlags

theorem engineFlags_subset_formFlags : engineFlags ⊆ formFlags := by decide

theorem tells_handOverAs (c : Fin 23) (change : Bool) (pair : Pair) (h : Hub) :
    Tells engineFlags h (h.handOverAs c change pair) := by
  have taken : Tells engineFlags h (h.modChan c fun x => { x with taken := some pair }) := .of_ports rfl
  unfold handOverAs
  refine taken.trans ?_
  split
  · exact (tells_relayTakes _ _ _ _).mono (by decide)
  · split <;> exact .of_ports rfl
  · exact (tells_sounderTakes _ _).mono (by decide)
  · exact (tells_stepperTakes _ _ _).mono (by decide)

theorem tells_passOn (c : Fin 23) (pair : Pair) (h : Hub) : Tells engineFlags h (h.passOn c pair) := by
  unfold passOn
  split
  · split
    · exact .refl h
    · exact tells_handOverAs _ _ _ h
  · exact .of_ports rfl

theorem tells_winnerNotices (c : Fin 23) (h : Hub) : Tells [.won, .lost] h (h.winnerNotices c) := by
  have won (p : Port) (t : Hub) : Tells [.won, .lost] t (t.giveFlagOn p .won c) := (tells_giveFlagOn ..).mono (by decide)
  have lost (p : Port) (t : Hub) : Tells [.won, .lost] t (t.giveFlagOn p .lost c) := (tells_giveFlagOn ..).mono (by decide)
  unfold winnerNotices
  split
  · exact .refl h
  · exact won _ h
  · exact lost _ h
  · split
    · exact .refl h
    · exact (lost _ h).trans (won _ _)

theorem tells_form (c : Fin 23) (cause : FormCause) (h : Hub) : Tells formFlags h (h.form c cause) :=
  ((tells_winnerNotices c h).mono (by decide)).trans
    (((tells_passOn c _ _).mono engineFlags_subset_formFlags).after rfl)

theorem tells_passInput (c : Fin 23) (x : LocalInput) (cause : FormCause) (h : Hub) :
    Tells formFlags h (h.passInput c x cause) := (tells_form c cause _).after rfl

theorem tells_formLayer (h : Hub) (c : Fin 23) : Tells formFlags h (h.formLayer c) := by
  unfold formLayer
  dsimp only
  split
  · exact .refl h
  · exact tells_passInput c _ _ h

/-! ## Setpoints tell SETPOINT, a slot gone stale SLOT_STALE -/

theorem tells_settleSetpoints (h before : Hub) (also : List (Fin 21)) :
    Tells (.setpoint :: formFlags) h (h.settleSetpoints before also) := by
  have passed : Tells (.setpoint :: formFlags) h ((channelsTouched before h also).foldl formLayer h) :=
    (tells_foldl tells_formLayer _ h).mono (List.subset_cons_self ..)
  unfold settleSetpoints
  dsimp only
  split
  · exact passed.trans ((tells_giveAll .setpoint _).mono (by decide))
  · exact passed

theorem ports_foldl {α : Type} {f : Hub → α → Hub} (one : ∀ h a, (f h a).ports = h.ports) (xs : List α) (h : Hub) :
    (xs.foldl f h).ports = h.ports :=
  List.foldlRecOn (motive := fun t => t.ports = h.ports) xs f rfl fun t so a _ => (one t a).trans so

theorem tells_evaluateSlot (k : Fin 8) (h : Hub) : Tells (.setpoint :: formFlags) h (h.evaluateSlot k) :=
  (Tells.of_ports (ports_foldl (f := evaluate) (fun _ _ => rfl) _ h)).trans (tells_settleSetpoints _ h [])

theorem tells_takeSample (k : Fin 8) (raw : Int) (h : Hub) : Tells (.setpoint :: formFlags) h (h.takeSample k raw) :=
  (tells_evaluateSlot k _).after rfl

theorem tells_takeZero (k : Fin 8) (amount : Int) (h : Hub) : Tells (.setpoint :: formFlags) h (h.takeZero k amount) := by
  unfold takeZero
  dsimp only
  split
  · exact (tells_evaluateSlot k _).after rfl
  · exact .of_ports rfl

theorem tells_acknowledge (n : Fin 16) (h : Hub) : Tells (.setpoint :: formFlags) h (h.acknowledge n) :=
  (tells_settleSetpoints _ h []).after rfl

theorem tells_emptySlot (k : Fin 8) (h : Hub) : Tells (.setpoint :: formFlags) h (h.emptySlot k) :=
  (tells_settleSetpoints _ h []).after
    (ports_foldl (f := fun x n => x.setSetpoint n .inactive) (fun _ _ => rfl) _ (h.setSlot k ⟨.empty, 0, none, false⟩))

theorem tells_setpointChanged (n : Fin 16) (h before : Hub) :
    Tells (.setpoint :: formFlags) h (h.setpointChanged n before) :=
  (tells_settleSetpoints _ before _).after rfl

end Hub
end Sys2Proof.Machine
end

section
/-! What a configuration write that is taken makes of the part (R177), said once: each kind of write, with what its check
has established. -/

namespace Sys2Proof.Machine.Hub

/-- The part after a write that is taken, by the kind of field written. -/
inductive Written (h : Hub) : Block → Byte → BitVec 32 → Hub → Prop
  | port {b field v} (p : Port) (x : PortItem) (quota : h.holding p ≤ x.quota ∨ x.quota = (h.portItem p).quota) :
    Written h b field v (h.modPortItem p fun _ => x)
  | fallback {b field v} (c : Fin 23) (x : Fallback) : Written h b field v (formLayer (h.setFallback c x) c)
  | handover {b field v} (c : Fin 23) (x : HandoverItem) : Written h b field v (h.modHandoverItem c fun _ => x)
  | relay {b field v} (r : Fin 12) (x : RelayItem) : Written h b field v (h.modRelayItem r fun _ => x)
  | soundMotion {b field v} (x : Bool) :
    Written h b field v (refreshMute (h.modWork fun w => { w with soundMotion := x }))
  | travel {b field v} (u : Fin 2) (x : Nat) (room : h.travelTooLow u x = false) :
    Written h b field v (h.modStepperItem u fun i => { i with travel := x })
  | motion {b field v} (u : Fin 2) (overtravel : Nat) (autoRef : Bool) :
    Written h b field v (h.modStepperItem u fun i => { i with overtravel := overtravel, autoRef := autoRef })
  | rate {b field v} (u : Fin 2) (x : Nat) :
    Written h b field v (form (stepperChannel u) .rateWrite (h.modStepperItem u fun i => { i with refRate := x }))
  | members {v} (g : Fin 4) (apart : h.sharesMember g (v.setWidth 12) = false) :
    Written h .groups 0 v (h.writeMembers g (v.setWidth 12))
  | group {b field v} (g : Fin 4) (deadTime : Nat) (preempt : Bool) :
    Written h b field v (h.modGroupItem g fun i => { i with deadTime := deadTime, preempt := preempt })
  | slotKind {b field v} (k : Fin 8) (x : SlotItem) : Written h b field v (emptySlot k (h.modSlotItem k fun _ => x))
  | freshness {b field v} (k : Fin 8) (x : Nat) :
    Written h b field v (h.modSlotItem k fun i => { i with freshness := x })
  | setpoint {b field v} (n : Fin 16) (x : SetpointItem) :
    Written h b field v ((h.modSetpointItem n fun _ => x).setpointChanged n h)
  | calibration {b field v} (k : Fin 8) (x : CalibrationItem) :
    Written h b field v (h.modCalibrationItem k fun _ => x)

section
variable {h t : Hub} {b : Block} {field : Byte} {v : BitVec 32}

theorem written_of_writePort {p : Port} {n : Nat} (taken : h.writePort p n v = some t) : h.Written b field v t := by
  unfold writePort at taken
  split at taken
  · obtain ⟨x, _, taken⟩ := Option.bind_eq_some_iff.mp taken
    split at taken
    · cases taken
    · cases taken
      exact .port p { h.portItem p with configGrant := x } (.inr rfl)
  · obtain ⟨x, _, rfl⟩ := Option.map_eq_some_iff.mp taken
    exact .port p { h.portItem p with protectedGrant := x } (.inr rfl)
  · obtain ⟨x, _, taken⟩ := Option.bind_eq_some_iff.mp taken
    split at taken
    · cases taken
    · next room =>
      cases taken
      exact .port p { h.portItem p with quota := x } (.inl (Nat.not_lt.mp room))
  · obtain ⟨x, _, rfl⟩ := Option.map_eq_some_iff.mp taken
    exact .port p { h.portItem p with lease := x } (.inr rfl)
  · cases taken

theorem written_of_writeRelay {r : Fin 12} {n : Nat} (taken : h.writeRelay r n v = some t) : h.Written b field v t := by
  unfold writeRelay at taken
  split at taken
  · obtain ⟨x, _, rfl⟩ := Option.map_eq_some_iff.mp taken
    exact .relay r { h.work.relays[r] with minOn := x }
  · obtain ⟨x, _, rfl⟩ := Option.map_eq_some_iff.mp taken
    exact .relay r { h.work.relays[r] with minOff := x }
  · cases taken

theorem written_of_writeSounder {n : Nat} (taken : h.writeSounder n v = some t) : h.Written b field v t := by
  unfold writeSounder at taken
  split at taken
  · obtain ⟨x, _, rfl⟩ := Option.map_eq_some_iff.mp taken
    exact .soundMotion x
  · cases taken

theorem written_of_writeStepper {u : Fin 2} {n : Nat} (taken : h.writeStepper u n v = some t) :
    h.Written b field v t := by
  unfold writeStepper at taken
  split at taken
  · obtain ⟨x, _, taken⟩ := Option.bind_eq_some_iff.mp taken
    split at taken
    · cases taken
    · next room =>
      cases taken
      exact .travel u x (Bool.not_eq_true _ ▸ room)
  · obtain ⟨x, _, rfl⟩ := Option.map_eq_some_iff.mp taken
    exact .motion u x (h.stepperItem u).autoRef
  · obtain ⟨x, _, rfl⟩ := Option.map_eq_some_iff.mp taken
    exact .rate u x
  · obtain ⟨x, _, rfl⟩ := Option.map_eq_some_iff.mp taken
    exact .motion u (h.stepperItem u).overtravel x
  · cases taken

theorem written_of_writeChannel {c : Fin 23} {n : Nat} (taken : h.writeChannel c n v = some t) :
    h.Written b field v t := by
  unfold writeChannel at taken
  split at taken
  · obtain ⟨x, _, taken⟩ := Option.bind_eq_some_iff.mp taken
    split at taken
    · cases taken
      exact .fallback c x
    · cases taken
  · obtain ⟨x, _, rfl⟩ := Option.map_eq_some_iff.mp taken
    exact .handover c { h.work.handovers[c] with timeout := x }
  · obtain ⟨x, _, rfl⟩ := Option.map_eq_some_iff.mp taken
    exact .handover c { h.work.handovers[c] with grant := x }
  · split at taken
    · exact written_of_writeRelay taken
    · cases taken
    · exact written_of_writeSounder taken
    · exact written_of_writeStepper taken

theorem written_of_writeGroup {g : Fin 4} (taken : h.writeGroup g field.toNat v = some t) :
    h.Written .groups field v t := by
  unfold writeGroup at taken
  split at taken
  · next zero =>
    obtain ⟨x, named, rfl⟩ := Option.map_eq_some_iff.mp taken
    have first : field = 0 := BitVec.eq_of_toNat_eq zero
    unfold membersOf at named
    dsimp only at named
    split at named
    · split at named
      · next fits =>
        cases named
        rw [Bool.and_eq_true, Bool.not_eq_true'] at fits
        rw [first]
        exact .members g fits.2
      · cases named
    · cases named
  · obtain ⟨x, _, rfl⟩ := Option.map_eq_some_iff.mp taken
    exact .group g x h.work.groups[g].preempt
  · obtain ⟨x, _, rfl⟩ := Option.map_eq_some_iff.mp taken
    exact .group g h.work.groups[g].deadTime x
  · cases taken

theorem written_of_writeSlot {k : Fin 8} {n : Nat} (taken : h.writeSlot k n v = some t) : h.Written b field v t := by
  unfold writeSlot at taken
  split at taken
  · obtain ⟨x, _, rfl⟩ := Option.map_eq_some_iff.mp taken
    exact .slotKind k { h.work.slots[k] with mode := if x then .total else .level }
  · obtain ⟨x, _, rfl⟩ := Option.map_eq_some_iff.mp taken
    exact .slotKind k { h.work.slots[k] with source := Port.ofIdx x }
  · obtain ⟨x, _, rfl⟩ := Option.map_eq_some_iff.mp taken
    exact .freshness k x
  · cases taken

theorem written_of_writeSetpoint {n : Fin 16} {f : Nat} (taken : h.writeSetpoint n f v = some t) :
    h.Written b field v t := by
  obtain ⟨x, _, rfl⟩ := Option.map_eq_some_iff.mp taken
  exact .setpoint n x

theorem written_of_writeCalibration {k : Fin 8} {n : Nat} (taken : h.writeCalibration k n v = some t) :
    h.Written b field v t := by
  unfold writeCalibration at taken
  split at taken
  · obtain ⟨x, _, rfl⟩ := Option.map_eq_some_iff.mp taken
    exact .calibration k { h.work.calibration[k] with gain := x }
  · obtain ⟨x, _, rfl⟩ := Option.map_eq_some_iff.mp taken
    exact .calibration k { h.work.calibration[k] with offset := x }
  · cases taken

/-- Every write that is taken is one of the kinds. -/
theorem written_of_write {item : Byte} (taken : h.write b item field v = some t) : h.Written b field v t := by
  unfold write at taken
  cases b
  all_goals obtain ⟨k, _, taken⟩ := Option.bind_eq_some_iff.mp taken
  case ports => exact written_of_writePort taken
  case channels => exact written_of_writeChannel taken
  case groups => exact written_of_writeGroup taken
  case slots => exact written_of_writeSlot taken
  case setpoints => exact written_of_writeSetpoint taken
  case calibration => exact written_of_writeCalibration taken

theorem tells_written (written : h.Written b field v t) : Tells (.setpoint :: formFlags) h t := by
  have widen : formFlags ⊆ .setpoint :: formFlags := List.subset_cons_self ..
  cases written with
  | fallback c x => exact ((tells_formLayer _ c).mono widen).after rfl
  | rate u x => exact ((tells_form _ _ _).mono widen).after rfl
  | slotKind k x => exact (tells_emptySlot k _).after rfl
  | setpoint n x => exact (tells_setpointChanged n _ h).after rfl
  | members g apart =>
    refine .of_ports ?_
    unfold writeMembers
    dsimp only
    split <;> rfl
  | port | handover | relay | soundMotion | travel | motion | group | freshness | calibration => exact .of_ports rfl

end

/-! ## Entries into RUN and HOLDING -/

theorem tells_handWaiting (everyChannel : Bool) (h : Hub) (c : Fin 23) :
    Tells engineFlags h (h.handWaiting everyChannel c) := by
  unfold handWaiting
  split
  · exact (tells_handOverAs c true _ h).trans (.of_ports rfl)
  · split
    · exact (tells_handOverAs c _ _ h).trans (.of_ports rfl)
    · exact .refl h

theorem tells_thaw (changed : Fin 2 → Bool) (h : Hub) : Tells engineFlags h (h.thaw changed) :=
  ((((tells_thawRelays h).mono (by decide)).trans ((tells_thawSounder _).mono (by decide))).trans
    ((tells_thawUnit 0 _ _).mono (by decide))).trans ((tells_thawUnit 1 _ _).mono (by decide))

theorem tells_enterRun (h : Hub) : Tells engineFlags h h.enterRun := by
  have thawed : Tells engineFlags h
      (((List.finRange 23).foldl (handWaiting h.starting) { h with mode := .run }).thaw (h.waitingChange h.starting)) :=
    ((tells_foldl (tells_handWaiting h.starting) _ _).trans (tells_thaw _ _)).after rfl
  have references (u : Fin 2) (t : Hub) : Tells engineFlags t (t.autoReference u) :=
    (tells_autoReference u t).mono (by decide)
  unfold enterRun
  dsimp only
  split
  · exact (thawed.trans (references 0 _)).trans (references 1 _)
  · exact thawed

theorem tells_checkHeld (h : Hub) : Tells [.holdEffective] h h.checkHeld := by
  unfold checkHeld
  split
  · exact (tells_giveAll .holdEffective _).after rfl
  · exact .refl h

theorem tells_enterHolding (h : Hub) : Tells [.chimeDone, .holdEffective] h h.enterHolding := by
  have frozen : Tells [.chimeDone, .holdEffective] h ({ h with mode := .holding }.freezeRelays.freezeSounder) :=
    ((tells_freezeSounder _).mono (by decide)).after rfl
  refine frozen.trans (Tells.trans (.of_ports ?_) ((tells_checkHeld _).mono (by decide)))
  rw [drainUnit_ports, drainUnit_ports]

/-! ## What a request leaves of the tenancies and of LEASE_LOW -/

/-- No port's tenancy has moved, and no port has been given LEASE_LOW. -/
structure Spares (h t : Hub) : Prop where
  tenancy : ∀ p, (t.port p).tenancy = (h.port p).tenancy
  leaseLow : ∀ p, t.hasFlag p .leaseLow = true → h.hasFlag p .leaseLow = true

namespace Spares
variable {h t v : Hub} {F : List Flag}

theorem trans (a : Spares h t) (b : Spares t v) : Spares h v where
  tenancy p := (b.tenancy p).trans (a.tenancy p)
  leaseLow p given := a.leaseLow p (b.leaseLow p given)

/-- The last step first: what it starts from is then known. -/
theorem comp (b : Spares t v) (a : Spares h t) : Spares h v := a.trans b

theorem of_tells (a : Tells F h t) (outside : Flag.leaseLow ∉ F) : Spares h t where
  tenancy := a.tenancy
  leaseLow p given := (a.flags p _ given).elim id fun within => absurd within outside

theorem of_ports (same : t.ports = h.ports) : Spares h t := of_tells (F := []) (.of_ports same) (by simp)

theorem refl (h : Hub) : Spares h h := of_ports rfl

/-- A step that leaves the ports alone changes nothing of what the rest spares. -/
theorem after (a : Spares t v) (same : t.ports = h.ports) : Spares h v := (of_ports same).trans a

theorem modPort {p : Port} {f : PortUnit → PortUnit} (tenancy : ∀ x : PortUnit, (f x).tenancy = x.tenancy)
    (flags : ∀ x : PortUnit, (f x).flags.getLsbD Flag.leaseLow.bit = true → x.flags.getLsbD Flag.leaseLow.bit = true) :
    Spares h (h.modPort p f) := by
  refine ⟨fun q => ?_, fun q => ?_⟩
  · rw [port_modPort]
    split
    · next same => subst same; exact tenancy _
    · rfl
  · unfold hasFlag
    rw [port_modPort]
    split
    · next same => subst same; exact flags _
    · exact id

theorem respond (p : Port) (r : Result) (body : List Byte) : Spares h (h.respond p r body) :=
  modPort (fun _ => rfl) fun _ => id

theorem foldl {α : Type} {f : Hub → α → Hub} (one : ∀ h a, Spares h (f h a)) (xs : List α) (h : Hub) :
    Spares h (xs.foldl f h) :=
  List.foldlRecOn (motive := Spares h) xs f (.refl h) fun t so a _ => so.trans (one t a)

/-- A refusal only answers. -/
theorem refuseFirst {p : Port} {checks : List (Bool × Result)} (taken : Spares h t) :
    Spares h (h.refuseFirst p checks t) := by
  rcases refuseFirst_cases p checks h t with ⟨x, _, _, refused⟩ | passed
  · rw [refused]; exact respond ..
  · rwa [passed]

end Spares

theorem leaseLow_not_mem_formFlags : Flag.leaseLow ∉ .setpoint :: formFlags := by decide

section
variable (c : Fin 23) (p : Port) (h : Hub)

theorem spares_form (cause : FormCause) : Spares h (h.form c cause) := .of_tells (tells_form c cause h) (by decide)

theorem spares_dropAsked : Spares h (h.dropAsked p c) := .modPort (fun _ => rfl) fun _ => id

theorem spares_resolve (o : HandoverOutcome) (q d : Port) : Spares h (h.resolve c o q d) := by
  have told (t : Hub) : Spares t (t.giveFlagOn q .handoverDone c) := .of_tells (tells_giveFlagOn ..) (by decide)
  exact (told _).comp ((spares_dropAsked c d _).after rfl)

theorem spares_settleByDefault (q d : Port) : Spares h (h.settleByDefault c q d) := by
  unfold settleByDefault
  dsimp only
  split
  · exact (spares_resolve c _ _ q d).after rfl
  · exact spares_resolve c h _ q d

theorem spares_resolveByDefault (q d : Port) : Spares h (h.resolveByDefault c q d) := by
  unfold resolveByDefault
  dsimp only
  split
  · exact (spares_resolve c _ _ q d).comp ((spares_form c (h.reorder c q d) .edit).after rfl)
  · exact spares_resolve c h _ q d

theorem spares_settleEdit (kind : EditKind) : Spares h (h.settleEdit c p kind) := by
  unfold settleEdit
  split
  · exact .refl h
  · split
    · split
      · exact spares_resolve c h _ _ _
      · exact spares_settleByDefault c h _ _
      · exact spares_resolve c h _ _ _
      · exact .refl h
      · exact .refl h
    · split
      · split
        · exact spares_resolve c h _ _ _
        · exact spares_resolve c h _ _ _
        · exact spares_resolve c h _ _ _
        · exact .refl h
        · exact .refl h
      · exact .refl h

theorem spares_editClaims (kind : EditKind) (edit : List Claim → List Claim) :
    Spares h (h.editClaims c p kind edit) :=
  (spares_form c _ .edit).comp ((spares_settleEdit c p _ kind).after rfl)

theorem spares_removeClaims : Spares h (h.removeClaims p) :=
  .foldl (f := removeClaim p) (fun h c => spares_editClaims c p h .removed _) _ h

theorem spares_renewIfEqual (old new : Command) (before : Hub) : Spares h (h.renewIfEqual p c old new before) := by
  unfold renewIfEqual renewSound
  dsimp only
  split
  · split
    · exact .of_tells (tells_sounderRenewed h) (by decide)
    · exact .refl h
  · exact .refl h

theorem spares_replaceClaim (level : Nat) (value : Command) (policy : Policy) (old : Claim) :
    Spares h (h.replaceClaim p c level value policy old) := by
  unfold replaceClaim
  dsimp only
  refine Spares.trans (Spares.trans ?_ (spares_renewIfEqual c p _ _ _ h)) (.respond ..)
  split
  · exact spares_editClaims c p h _ _
  · split
    · exact spares_form c h .edit
    · exact spares_editClaims c p h _ _

theorem spares_placeClaim (level : Nat) (value : Command) (policy : Policy) :
    Spares h (h.placeClaim p c level value policy) :=
  .refuseFirst ((spares_editClaims c p h _ _).trans (.respond ..))

theorem spares_clearChannel : Spares h (h.clearChannel p c) := by
  unfold clearChannel
  dsimp only
  refine Spares.trans ?_ (.respond ..)
  split
  · exact .refl h
  · have settles (t : Hub) (y : Claim) : Spares t (t.settleEdit c y.port .removed) := spares_settleEdit c y.port t .removed
    exact (spares_form c _ .edit).comp ((Spares.foldl settles _ _).after rfl)

theorem spares_giveAsked : Spares h (h.giveAsked p c) := by
  unfold giveAsked
  refine Spares.comp (.modPort ?_ ?_) (.of_tells (tells_giveFlag p .handoverAsked h) (by decide))
  · exact fun _ => rfl
  · exact fun _ => id

theorem spares_askHandover : Spares h (h.askHandover p c) := by
  unfold askHandover
  split
  · split
    · exact (spares_resolveByDefault c h _ _).trans (.respond ..)
    · exact (Spares.respond ..).comp ((spares_giveAsked c _ _).after rfl)
  · exact .refl h

theorem spares_answerHandover (yields : Bool) : Spares h (h.answerHandover p yields c) := by
  unfold answerHandover
  split
  · dsimp only
    refine Spares.trans (Spares.trans ?_ (spares_resolve c _ _ _ _)) (.respond ..)
    split
    · exact (spares_form c _ .edit).after rfl
    · exact .refl h
  · exact .refl h

theorem spares_onChannel {channel : Byte} {f : Fin 23 → Hub → Hub} (one : ∀ c, Spares h (f c h)) :
    Spares h (h.onChannel channel f) := by
  unfold onChannel
  split
  · exact one _
  · exact .refl h

theorem spares_respondRecord (record : List LayoutByte) : Spares h (h.respondRecord p record) :=
  Spares.trans (t := h.respond p .ok (sentBytes h.freeCount record)) (.respond ..) (.of_ports rfl)

end

theorem spares_takeReference (u : Fin 2) (h : Hub) : Spares h (h.takeReference u) := by
  unfold takeReference
  split
  · exact .of_tells (tells_startRun u h) (by decide)
  · exact .of_ports rfl
  · exact .of_ports rfl
  · exact .of_ports rfl
  · exact .refl h

theorem spares_askChime (p : Port) (pitch loudness : Nat) (length : ChimeLength) (h : Hub) :
    Spares h (h.askChime p pitch loudness length) := by
  have again : (h.retrigger loudness length).ports = h.ports := by unfold retrigger; split <;> rfl
  have joins (c : Chime) : (h.appendChime c).ports = h.ports := by
    unfold appendChime
    dsimp only
    split
    · rw [startChime_sounder_only]; rfl
    · rfl
  unfold askChime
  split
  · exact (Spares.respond ..).after again
  · split
    · exact .respond ..
    · exact (Spares.respond ..).after (joins _)

theorem spares_decideConfigWrite (p : Port) (block item field : Byte) (v : BitVec 32) (h : Hub) :
    Spares h (h.decideConfigWrite p block item field v) := by
  unfold decideConfigWrite
  dsimp only
  split
  · next t taken =>
    obtain ⟨b, _, taken⟩ := Option.bind_eq_some_iff.mp taken
    exact .refuseFirst ((Spares.of_tells (tells_written (written_of_write taken))
      leaseLow_not_mem_formFlags).trans (.respond ..))
  · exact .refuseFirst (.refl h)

end Sys2Proof.Machine.Hub
end

section
/-! The lease: every good request of an ATTACHED port restarts it (R61), and the half point or the expiry that comes together
with such a request does not happen (R62, R64). -/

namespace Sys2Proof.Machine
namespace Hub

/-- Every request but ATTACH, DETACH and RESET_HUB leaves every tenancy, and gives no port LEASE_LOW. -/
theorem exec_spares {i : Instr} {p : Port} {code : Byte} {body : List Byte}
    (laid : requestBody i = some (p, code, body)) (attach : i ≠ .attach p) (detach : i ≠ .detach p)
    (reset : i ≠ .resetHub p) (s : State) :
    ∃ decided, exec i s = onRequest p decided s ∧ ∀ h : Hub, Spares h (decided h) := by
  cases i <;> simp only [requestBody, Option.some.injEq, Prod.mk.injEq, reduceCtorEq] at laid
  all_goals obtain ⟨rfl, rfl, rfl⟩ := laid
  case attach => exact absurd rfl attach
  case detach => exact absurd rfl detach
  case resetHub => exact absurd rfl reset
  case keep | readNotices | querySetpoints => exact ⟨_, rfl, fun h => .refuseFirst (.respond ..)⟩
  case badRequest => exact ⟨_, rfl, fun h => .respond ..⟩
  case queryHub => exact ⟨_, rfl, fun h => spares_respondRecord _ h _⟩
  case clearNotices p flags clear =>
    refine ⟨_, rfl, fun h => .refuseFirst ((Spares.respond ..).comp (.modPort (fun _ => rfl) fun t given => ?_))⟩
    rw [BitVec.getLsbD_and, Bool.and_eq_true] at given
    exact given.1
  case setMask =>
    exact ⟨_, rfl, fun h => .refuseFirst ((Spares.respond ..).comp (.modPort (fun _ => rfl) fun _ => id))⟩
  case claim p channel level value policy =>
    refine ⟨_, rfl, fun h => .refuseFirst ?_⟩
    split
    · split
      · exact spares_replaceClaim _ p h _ _ _ _
      · exact spares_placeClaim _ p h _ _ _
    · exact .refl h
  case release =>
    exact ⟨_, rfl, fun h => .refuseFirst (spares_onChannel h fun c =>
      (spares_editClaims c _ h .removed _).trans (.respond ..))⟩
  case releaseAll => exact ⟨_, rfl, fun h => .refuseFirst ((spares_removeClaims _ h).trans (.respond ..))⟩
  case clearOrphans => exact ⟨_, rfl, fun h => .refuseFirst (spares_onChannel h fun c => spares_clearChannel c _ h)⟩
  case queryClaims =>
    exact ⟨_, rfl, fun h => .refuseFirst (spares_onChannel h fun c => spares_respondRecord _ h _)⟩
  case queryChannel | querySlot =>
    refine ⟨_, rfl, fun h => .refuseFirst ?_⟩
    split
    · exact spares_respondRecord _ h _
    · exact .refl h
  case handover => exact ⟨_, rfl, fun h => .refuseFirst (spares_onChannel h fun c => spares_askHandover c _ h)⟩
  case answer => exact ⟨_, rfl, fun h => .refuseFirst (spares_onChannel h fun c => spares_answerHandover c _ h _)⟩
  case chime =>
    refine ⟨_, rfl, fun h => .refuseFirst ?_⟩
    split
    · exact spares_askChime _ _ _ _ h
    · exact .refl h
  case silence p =>
    exact ⟨_, rfl, fun h => .refuseFirst ((Spares.of_tells (tells_withdrawChimes p h) (by decide)).trans (.respond ..))⟩
  case reference =>
    refine ⟨_, rfl, fun h => .refuseFirst ?_⟩
    split
    · exact (spares_takeReference _ h).trans (.respond ..)
    · exact .refl h
  case sample =>
    refine ⟨_, rfl, fun h => .refuseFirst ?_⟩
    split
    · exact (Spares.of_tells (tells_takeSample _ _ h) leaseLow_not_mem_formFlags).trans (.respond ..)
    · exact .refl h
  case zero =>
    refine ⟨_, rfl, fun h => .refuseFirst ?_⟩
    split
    · exact (Spares.of_tells (tells_takeZero _ _ h) leaseLow_not_mem_formFlags).trans (.respond ..)
    · exact .refl h
  case ackSetpoint =>
    refine ⟨_, rfl, fun h => .refuseFirst ?_⟩
    split
    · exact (Spares.of_tells (tells_acknowledge _ h) leaseLow_not_mem_formFlags).trans (.respond ..)
    · exact .refl h
  case hold =>
    exact ⟨_, rfl, fun h => .refuseFirst ((Spares.of_tells (tells_enterHolding h) (by decide)).trans (.respond ..))⟩
  case resume | acceptFault =>
    exact ⟨_, rfl, fun h => .refuseFirst ((Spares.of_tells (tells_enterRun h) (by decide)).trans (.respond ..))⟩
  case clearFirstFault => exact ⟨_, rfl, fun h => .refuseFirst ((Spares.respond ..).after rfl)⟩
  case configRead =>
    refine ⟨_, rfl, fun h => ?_⟩
    unfold decideConfigRead
    split
    · exact .refuseFirst (.respond ..)
    · exact .refuseFirst (.refl h)
  case configWrite => exact ⟨_, rfl, fun h => spares_decideConfigWrite _ _ _ _ _ h⟩
  case store => exact ⟨_, rfl, fun h => .refuseFirst ((Spares.respond ..).after rfl)⟩

/-! ## The three requests that end a tenancy or begin one -/

theorem decideAttach_attached {p : Port} {h : Hub} (live : h.attached p = true) :
    h.decideAttach p = if h.mode = .startup then h.respond p .starting [] else h.respond p .already [0] := by
  obtain ⟨run, tenancy⟩ := exists_run_of_attached live
  unfold decideAttach
  rw [refuseFirst_cons, refuseFirst_nil, tenancy]
  simp only [beq_iff_eq]

theorem attached_eq_false_of {p : Port} {h : Hub} (tenancy : (h.port p).tenancy = .detached) : h.attached p = false := by
  rw [attached, tenancy]

theorem hubReset_ports (cause : ResetCause) (h : Hub) : (h.hubReset cause).ports = h.ports.map PortUnit.afterReset := by
  have started : (resetController cause h.abandonWrite).ports = h.ports := by
    unfold resetController abandonWrite
    split <;> rfl
  have stopped : (((resetController cause h.abandonWrite).resetUnit 0 (cause == .software)).resetUnit 1
      (cause == .software)).ports = h.ports := started
  unfold hubReset
  dsimp only
  rw [show ∀ t : Hub, t.resetPorts.resetChannels.resetRelays.resetLamps.resetSounder.resetSetpoints.ports =
    t.ports.map PortUnit.afterReset from fun _ => rfl, stopped]

theorem port_hubReset (cause : ResetCause) (h : Hub) (p : Port) : (h.hubReset cause).port p = (h.port p).afterReset := by
  rw [port, hubReset_ports]
  exact Vector.getElem_map ..

theorem readAddress_ports (h : Hub) : h.readAddress.ports = h.ports := by
  unfold readAddress
  split <;> rfl

/-- What a hub reset leaves of a port has no tenancy and no flags. -/
theorem port_resetHub (h : Hub) (p : Port) : ((h.hubReset .software).readAddress.port p) = (h.port p).afterReset := by
  rw [port, readAddress_ports]
  exact port_hubReset .software h p

theorem port_leave (p : Port) (h : Hub) :
    ((h.leave p).port p).tenancy = .detached ∧ ((h.leave p).port p).flags = 0 := by
  have detached := (spares_removeClaims p (h.setTenancy p .detached)).tenancy p
  rw [port_setTenancy_same] at detached
  unfold leave clearPort
  rw [port_modPort, if_pos rfl]
  exact ⟨detached, rfl⟩

theorem hasFlag_respond (p q : Port) (r : Result) (body : List Byte) (f : Flag) (h : Hub) :
    (h.respond p r body).hasFlag q f = h.hasFlag q f := by
  unfold hasFlag
  rw [port_respond]
  split
  · next same => subst same; rfl
  · rfl

theorem attached_respond (p q : Port) (r : Result) (body : List Byte) (h : Hub) :
    (h.respond p r body).attached q = h.attached q := attached_modPort p q _ h rfl

/-- The lease restart clears LEASE_LOW of its port. -/
theorem restartLease_leaseLow {p : Port} {h : Hub} (live : h.attached p = true) :
    (restartLease p h).hasFlag p .leaseLow = false := by
  rw [restartLease_attached live, hasFlag, port_modPort, if_pos rfl]
  simp [Flag.bit]

/-- How a request of an ATTACHED port leaves its port: with the run it started, or out of ATTACHED; never with LEASE_LOW. -/
structure LeaseRestarted (i : Instr) (p : Port) (h t : Hub) : Prop where
  run : (t.port p).tenancy = .attached { h.newLease p with cut := true } ∨
    t.attached p = false ∧ (i = .detach p ∨ i = .resetHub p)
  leaseLow : t.hasFlag p .leaseLow = false

theorem leaseRestarted_of_spares {i : Instr} {p : Port} {h t : Hub} (live : h.attached p = true)
    (kept : Spares (restartLease p h) t) : LeaseRestarted i p h t where
  run := .inl ((kept.tenancy p).trans (restartLease_tenancy live))
  leaseLow := Bool.eq_false_iff.mpr fun given =>
    Bool.false_ne_true ((restartLease_leaseLow live).symm.trans (kept.leaseLow p given))

theorem leaseRestarted_attach {p : Port} {h : Hub} (live : h.attached p = true) :
    LeaseRestarted (.attach p) p h ((restartLease p h).decideAttach p) := by
  refine leaseRestarted_of_spares live ?_
  rw [decideAttach_attached (by simpa using live)]
  split <;> exact .respond ..

theorem leaseRestarted_detach {p : Port} {h : Hub} (live : h.attached p = true) :
    LeaseRestarted (.detach p) p h ((restartLease p h).decideDetach p) := by
  unfold decideDetach
  rcases refuseFirst_cases p _ (restartLease p h) _ with ⟨x, _, _, refused⟩ | taken
  · rw [refused]
    exact leaseRestarted_of_spares live (.respond ..)
  · rw [taken]
    obtain ⟨detached, bare⟩ := port_leave p (restartLease p h)
    refine ⟨.inr ⟨?_, .inl rfl⟩, ?_⟩
    · rw [attached_respond, attached_eq_false_of detached]
    · rw [hasFlag_respond, hasFlag, bare]
      rfl

theorem leaseRestarted_resetHub {p : Port} {h : Hub} (live : h.attached p = true) :
    LeaseRestarted (.resetHub p) p h ((restartLease p h).decideResetHub p) := by
  unfold decideResetHub
  rcases refuseFirst_cases p _ (restartLease p h) _ with ⟨x, _, _, refused⟩ | taken
  · rw [refused]
    exact leaseRestarted_of_spares live (.respond ..)
  · rw [taken]
    refine ⟨.inr ⟨?_, .inr rfl⟩, ?_⟩
    · exact attached_eq_false_of (by rw [port_resetHub]; rfl)
    · rw [hasFlag, port_resetHub]
      exact BitVec.getLsbD_zero

end Hub

section
variable {i : Instr} {p : Port} {code : Byte} {body : List Byte} {s : State}

/-- A request of an ATTACHED port restarts its lease, whatever the result. -/
theorem exec_restarts_lease (laid : requestBody i = some (p, code, body)) (heard : s.hub.takesFrames p = true)
    (live : s.hub.attached p = true) :
    ∃ t : Hub, exec i s = .next { s with hub := t } ∧ Hub.LeaseRestarted i p s.hub t := by
  by_cases attach : i = .attach p
  · subst attach
    exact ⟨_, onRequest_heard p _ s heard, Hub.leaseRestarted_attach live⟩
  by_cases detach : i = .detach p
  · subst detach
    exact ⟨_, onRequest_heard p _ s heard, Hub.leaseRestarted_detach live⟩
  by_cases reset : i = .resetHub p
  · subst reset
    exact ⟨_, onRequest_heard p _ s heard, Hub.leaseRestarted_resetHub live⟩
  obtain ⟨decided, request, spares⟩ := Hub.exec_spares laid attach detach reset s
  exact ⟨_, request.trans (onRequest_heard p decided s heard), Hub.leaseRestarted_of_spares live (spares _)⟩

/-- A request other than ATTACH starts no lease of a port that has none. -/
theorem exec_starts_no_lease (laid : requestBody i = some (p, code, body)) (heard : s.hub.takesFrames p = true)
    (out : s.hub.attached p = false) (attach : i ≠ .attach p) :
    ∃ t : Hub, exec i s = .next { s with hub := t } ∧ t.attached p = false := by
  have stays {t : Hub} (kept : Hub.Spares (Hub.restartLease p s.hub) t) : t.attached p = false := by
    rw [Hub.restartLease_other out] at kept
    rw [Hub.attached, kept.tenancy]
    exact out
  by_cases detach : i = .detach p
  · subst detach
    refine ⟨_, onRequest_heard p _ s heard, ?_⟩
    unfold Hub.decideDetach
    rcases Hub.refuseFirst_cases p _ (Hub.restartLease p s.hub) _ with ⟨x, _, _, refused⟩ | taken
    · rw [refused]
      exact stays (.respond ..)
    · rw [taken, Hub.attached_respond, Hub.attached_eq_false_of (Hub.port_leave p _).1]
  by_cases reset : i = .resetHub p
  · subst reset
    refine ⟨_, onRequest_heard p _ s heard, ?_⟩
    unfold Hub.decideResetHub
    rcases Hub.refuseFirst_cases p _ (Hub.restartLease p s.hub) _ with ⟨x, _, _, refused⟩ | taken
    · rw [refused]
      exact stays (.respond ..)
    · rw [taken]
      exact Hub.attached_eq_false_of (by rw [Hub.port_resetHub]; rfl)
  obtain ⟨decided, request, spares⟩ := Hub.exec_spares laid attach detach reset s
  exact ⟨_, request.trans (onRequest_heard p decided s heard), stays (spares _)⟩

end

theorem Hub.discardFrame_tenancy (p q : Port) (h : Hub) :
    ((h.discardFrame p).port q).tenancy = (h.port q).tenancy := by
  unfold Hub.discardFrame
  split
  · exact ((Hub.Spares.of_tells (Hub.tells_giveFlag p .linkError h) (by decide)).trans (.respond ..)).tenancy q
  · rfl

/-- Settles O6: the restart by its definition; the requests by what they spare, the three that may end the tenancy apart. -/
theorem goodRequestsRestartTheLease : Obligations.GoodRequestsRestartTheLease := by
  refine ⟨fun p h => ⟨fun live => Hub.restartLease_attached live, Hub.restartLease_other⟩,
    fun i p code body s laid heard => ?request, fun p frame s => ⟨_, rfl, fun q => Hub.discardFrame_tenancy p q s.hub⟩⟩
  cases live : s.hub.attached p with
  | true =>
    obtain ⟨t, taken, restarted⟩ := exec_restarts_lease laid heard live
    exact ⟨t, taken, fun _ => ⟨restarted.run, restarted.leaseLow⟩, fun out => absurd out (by simp)⟩
  | false =>
    by_cases attach : i = .attach p
    · obtain ⟨t, taken⟩ := exec_completes i s
      exact ⟨t, taken, fun live => absurd live (by simp), fun _ other => absurd attach other⟩
    · obtain ⟨t, taken, out⟩ := exec_starts_no_lease laid heard live attach
      exact ⟨t, taken, fun live => absurd live (by simp), fun _ _ => out⟩

namespace Hub

theorem leaseHalf_pending {p : Port} {h : Hub} {d left : Nat}
    (runs : (h.port p).tenancy = .attached ⟨d, left, .pending, false⟩) :
    h.leaseHalf p = h.modPort p fun t =>
      { t with tenancy := .attached ⟨d, min left (d / 2), .passed, false⟩, flags := t.flags ||| 0x10 } := by
  have live : (h.setTenancy p (.attached ⟨d, min left (d / 2), .passed, false⟩)).attached p = true := by
    simp [attached, port_setTenancy_same]
  unfold leaseHalf
  rw [runs]
  dsimp only
  rw [giveFlag, if_pos live, setTenancy, modPort_modPort]
  rfl

theorem leaseHalf_still {p : Port} {h : Hub} (still : ∀ run, (h.port p).tenancy = .attached run → run.mark = .passed) :
    h.leaseHalf p = h := by
  unfold leaseHalf
  split
  · next runs => exact absurd (still _ runs) (by simp)
  · next runs => exact absurd (still _ runs) (by simp)
  all_goals rfl

end Hub

/-- Settles O13: the half point by the mark of the run; together with a request, by the run that the request has started. -/
theorem leaseHalfPointSetsLeaseLow : Obligations.LeaseHalfPointSetsLeaseLow := by
  refine fun p s => ⟨fun d left runs => onEvent_of_eq (Hub.leaseHalf_pending runs),
    fun d left cut => onEvent_of_eq (Hub.leaseHalf_cut cut), fun still => onEvent_still (Hub.leaseHalf_still still),
    fun i code body t laid heard live taken => ?_⟩
  obtain ⟨u, same, restarted⟩ := exec_restarts_lease laid heard live
  obtain rfl : { s with hub := u } = t := by rw [taken] at same; exact (Host.Outcome.next.inj same).symm
  rcases restarted.run with runs | ⟨out, _⟩
  · refine ⟨_, onEvent_of_eq (Hub.leaseHalf_cut runs), ?_⟩
    rw [Hub.hasFlag, Hub.port_modPort, if_pos rfl]
    exact restarted.leaseLow
  · refine ⟨_, onEvent_still (Hub.leaseHalf_still fun run attached => ?_), restarted.leaseLow⟩
    rw [Hub.attached, attached] at out
    exact absurd out (by simp)

end Sys2Proof.Machine
end

section
/-! What one step can do to the part. Every step is a sequence of `Move`s: each of them is one operation of the manual, with
what the checks of its request have established. The invariants of the part are proved move by move. -/

namespace Sys2Proof.Machine

/-- Any number of steps of a relation. -/
inductive Many {α : Type} (step : α → α → Prop) (a : α) : α → Prop
  | refl : Many step a a
  | tail {b c : α} (before : Many step a b) (last : step b c) : Many step a c

namespace Many
variable {α : Type} {step : α → α → Prop} {a b c : α}

theorem single (one : step a b) : Many step a b := .tail .refl one

theorem trans (first : Many step a b) (rest : Many step b c) : Many step a c := by
  induction rest with
  | refl => exact first
  | tail _ last ih => exact .tail ih last

theorem head (one : step a b) (rest : Many step b c) : Many step a c := (single one).trans rest

end Many

namespace Hub

/-! ## Steps that leave the outputs alone -/

/-- The outputs stand as they stood, with all that may move them on; timers, tones, claims and notices may have changed. -/
structure Calm (h t : Hub) : Prop where
  mode : t.mode = h.mode
  work : t.work = h.work
  stored : t.stored = h.stored
  relayCond : t.relayCond = h.relayCond
  relays : ∀ r, (t.relay r).state = (h.relay r).state ∧ (t.relay r).output = (h.relay r).output
  lamps : t.lamps = h.lamps
  flash : t.flash = h.flash
  sounder : t.sounder.queue = h.sounder.queue ∧ t.sounder.engine = h.sounder.engine ∧ t.sounder.mute = h.sounder.mute
  steppers : t.steppers = h.steppers
  taken : ∀ c, (t.chan c).taken = (h.chan c).taken

/-- Beyond that the channels stand, and of the ports who is ATTACHED and LAPSED and the asked sets. -/
structure Quiet (h t : Hub) : Prop extends Calm h t where
  channels : t.channels = h.channels
  attached : ∀ p, t.attached p = h.attached p
  isLapsed : ∀ p, t.isLapsed p = h.isLapsed p
  asked : ∀ p, (t.port p).asked = (h.port p).asked

/-- Beyond that the same setpoints drive. -/
structure Plain (h t : Hub) : Prop extends Quiet h t where
  driving : ∀ n, t.driving n = h.driving n

section
variable {h t v : Hub}

theorem Calm.refl (h : Hub) : Calm h h := ⟨rfl, rfl, rfl, rfl, fun _ => ⟨rfl, rfl⟩, rfl, rfl, ⟨rfl, rfl, rfl⟩, rfl, fun _ => rfl⟩

theorem Calm.trans (a : Calm h t) (b : Calm t v) : Calm h v where
  mode := b.mode.trans a.mode
  work := b.work.trans a.work
  stored := b.stored.trans a.stored
  relayCond := b.relayCond.trans a.relayCond
  relays r := ⟨(b.relays r).1.trans (a.relays r).1, (b.relays r).2.trans (a.relays r).2⟩
  lamps := b.lamps.trans a.lamps
  flash := b.flash.trans a.flash
  sounder := ⟨b.sounder.1.trans a.sounder.1, b.sounder.2.1.trans a.sounder.2.1, b.sounder.2.2.trans a.sounder.2.2⟩
  steppers := b.steppers.trans a.steppers
  taken c := (b.taken c).trans (a.taken c)

theorem Quiet.refl (h : Hub) : Quiet h h := ⟨.refl h, rfl, fun _ => rfl, fun _ => rfl, fun _ => rfl⟩

theorem Quiet.trans (a : Quiet h t) (b : Quiet t v) : Quiet h v where
  toCalm := a.toCalm.trans b.toCalm
  channels := b.channels.trans a.channels
  attached p := (b.attached p).trans (a.attached p)
  isLapsed p := (b.isLapsed p).trans (a.isLapsed p)
  asked p := (b.asked p).trans (a.asked p)

/-- The last step first: what it starts from is then known. -/
theorem Quiet.comp (b : Quiet t v) (a : Quiet h t) : Quiet h v := a.trans b

theorem Plain.refl (h : Hub) : Plain h h := ⟨.refl h, fun _ => rfl⟩

theorem Plain.trans (a : Plain h t) (b : Plain t v) : Plain h v where
  toQuiet := a.toQuiet.trans b.toQuiet
  driving n := (b.driving n).trans (a.driving n)

/-- The last step first: what it starts from is then known. -/
theorem Plain.comp (b : Plain t v) (a : Plain h t) : Plain h v := a.trans b

theorem Plain.foldl {α : Type} {f : Hub → α → Hub} (one : ∀ h a, Plain h (f h a)) (xs : List α) (h : Hub) :
    Plain h (xs.foldl f h) :=
  List.foldlRecOn (motive := Plain h) xs f (.refl h) fun t so a _ => so.trans (one t a)

/-- The fields no invariant speaks of. -/
theorem plain_free (h : Hub) (dead : Vector DeadTimer 4) (slots : Vector Slot 8) (cause : ResetCause) (faults : BitVec 8)
    (firstFault : Nat) (marks : Vector BlockMark 6) (storeOp : Option (Block × Port)) (lastStore : Option StoreOutcome)
    (loadElapsed : Nat) (storedGood : Vector Bool 6) (resetNLow stepInhibit adr0 adr1 : Bool) (i2cAddr : BitVec 7)
    (freeCount : Nat) :
    Plain h { h with
      dead := dead, slots := slots, cause := cause, faults := faults, firstFault := firstFault, marks := marks
      storeOp := storeOp, lastStore := lastStore, loadElapsed := loadElapsed, storedGood := storedGood
      resetNLow := resetNLow, stepInhibit := stepInhibit, adr0 := adr0, adr1 := adr1, i2cAddr := i2cAddr
      freeCount := freeCount } where
  toCalm := ⟨rfl, rfl, rfl, rfl, fun _ => ⟨rfl, rfl⟩, rfl, rfl, ⟨rfl, rfl, rfl⟩, rfl, fun _ => rfl⟩
  channels := rfl
  attached _ := rfl
  isLapsed _ := rfl
  asked _ := rfl
  driving _ := rfl

/-- A port may change but for its asked set, and for being ATTACHED or LAPSED. -/
theorem plain_modPort {p : Port} {f : PortUnit → PortUnit}
    (tenancy : (f (h.port p)).tenancy = (h.port p).tenancy ∨
      h.attached p = true ∧ ∃ run, (f (h.port p)).tenancy = .attached run)
    (asked : (f (h.port p)).asked = (h.port p).asked) : Plain h (h.modPort p f) where
  toCalm := ⟨rfl, rfl, rfl, rfl, fun _ => ⟨rfl, rfl⟩, rfl, rfl, ⟨rfl, rfl, rfl⟩, rfl, fun _ => rfl⟩
  channels := rfl
  attached q := by
    by_cases same : p = q
    · subst same
      rcases tenancy with same | ⟨live, run, now⟩
      · rw [Hub.attached, port_modPort, if_pos rfl, same]; rfl
      · rw [live, Hub.attached, port_modPort, if_pos rfl, now]
    · rw [Hub.attached, port_modPort, if_neg same]; rfl
  isLapsed q := by
    by_cases same : p = q
    · subst same
      rcases tenancy with same | ⟨live, run, now⟩
      · rw [Hub.isLapsed, port_modPort, if_pos rfl, same]; rfl
      · obtain ⟨before, held⟩ := exists_run_of_attached live
        rw [Hub.isLapsed, port_modPort, if_pos rfl, now, Hub.isLapsed, held]
        rfl
    · rw [Hub.isLapsed, port_modPort, if_neg same]; rfl
  asked q := by
    rw [port_modPort]
    split
    · next same => subst same; exact asked
    · rfl
  driving _ := rfl

theorem plain_respond (p : Port) (r : Result) (body : List Byte) (h : Hub) : Plain h (h.respond p r body) :=
  plain_modPort (.inl rfl) rfl

theorem plain_respondRecord (p : Port) (record : List LayoutByte) (h : Hub) : Plain h (h.respondRecord p record) :=
  (plain_free (h.respond p .ok (sentBytes h.freeCount record)) ..).comp (plain_respond ..)

theorem plain_setTenancy {p : Port} (live : h.attached p = true) (run : LeaseRun) :
    Plain h (h.setTenancy p (.attached run)) :=
  plain_modPort (.inr ⟨live, run, rfl⟩) rfl

theorem plain_giveFlag (p : Port) (f : Flag) (h : Hub) : Plain h (h.giveFlag p f) := by
  unfold giveFlag
  split
  · exact plain_modPort (.inl rfl) rfl
  · exact .refl h

theorem plain_giveFlagOn (p : Port) (f : Flag) (c : Fin 23) (h : Hub) : Plain h (h.giveFlagOn p f c) := by
  unfold giveFlagOn
  split
  · exact plain_modPort (.inl rfl) rfl
  · exact .refl h

theorem plain_giveAll (f : Flag) (h : Hub) : Plain h (h.giveAll f) := .foldl (fun h p => plain_giveFlag p f h) _ h

theorem plain_restartLease (p : Port) (h : Hub) : Plain h (restartLease p h) := by
  unfold restartLease
  split
  · next live => exact plain_modPort (.inr ⟨live, _, rfl⟩) rfl
  · exact .refl h

/-- The sounder's tone and envelope may change. -/
theorem plain_modSounder {f : Sounder → Sounder} (queue : (f h.sounder).queue = h.sounder.queue)
    (engine : (f h.sounder).engine = h.sounder.engine) (mute : (f h.sounder).mute = h.sounder.mute) :
    Plain h (h.modSounder f) where
  toCalm := ⟨rfl, rfl, rfl, rfl, fun _ => ⟨rfl, rfl⟩, rfl, rfl, ⟨queue, engine, mute⟩, rfl, fun _ => rfl⟩
  channels := rfl
  attached _ := rfl
  isLapsed _ := rfl
  asked _ := rfl
  driving _ := rfl

theorem plain_startTone (h : Hub) : Plain h h.startTone := by
  unfold startTone
  split
  · exact plain_modSounder rfl rfl rfl
  all_goals exact .refl h

theorem plain_renewSound (h : Hub) : Plain h h.renewSound := by
  unfold renewSound sounderRenewed
  split
  · split
    · exact .refl h
    · exact plain_startTone h
  · exact .refl h

theorem plain_decayExpires (h : Hub) : Plain h h.decayExpires := by
  unfold decayExpires
  split
  · refine plain_modSounder ?_ ?_ ?_ <;> split <;> rfl
  · exact .refl h

/-- A setpoint is written. -/
theorem quiet_setSetpoint (n : Fin 16) (x : Setpoint) (h : Hub) : Quiet h (h.setSetpoint n x) :=
  ⟨⟨rfl, rfl, rfl, rfl, fun _ => ⟨rfl, rfl⟩, rfl, rfl, ⟨rfl, rfl, rfl⟩, rfl, fun _ => rfl⟩,
    rfl, fun _ => rfl, fun _ => rfl, fun _ => rfl⟩

theorem plain_setSetpoint {n : Fin 16} {x : Setpoint} (same : x.state.drives = h.driving n) :
    Plain h (h.setSetpoint n x) := by
  refine ⟨quiet_setSetpoint n x h, fun k => ?_⟩
  rw [Hub.driving, setpoint_setSetpoint]
  split
  · next here => rw [← here]; exact same
  · rfl

theorem quiet_foldl {α : Type} {f : Hub → α → Hub} (one : ∀ h a, Quiet h (f h a)) (xs : List α) (h : Hub) :
    Quiet h (xs.foldl f h) :=
  List.foldlRecOn (motive := Quiet h) xs f (.refl h) fun t so a _ => so.trans (one t a)

end

/-! ## The moves -/

/-- The claims of a channel that a CLEAR_ORPHANS may remove are removed, and the channel is formed if there were any (R74). -/
def clearClaims (c : Fin 23) (limit : Nat) (h : Hub) : Hub :=
  if ((h.chan c).claims.filter (clearable limit)).isEmpty then h
  else
    form c .edit (((h.chan c).claims.filter (clearable limit)).foldl (fun x y => x.settleEdit c y.port .removed)
      (h.modChan c fun x => { x with claims := x.claims.filter fun y => !clearable limit y }))

theorem clearChannel_eq (p : Port) (c : Fin 23) (h : Hub) :
    h.clearChannel p c = (h.clearClaims c (h.highestLevel p)).respond p .ok
      [byteOf ((h.chan c).claims.filter (clearable (h.highestLevel p))).length] := rfl

/-- A handover is asked of a LIVE holder (R81). -/
def beginHandover (p w : Port) (c : Fin 23) (h : Hub) : Hub :=
  giveAsked w c (h.modChan c fun x =>
    { x with handover := { x.handover with pending := some ⟨p, w, Config.tenths h.work.handovers[c].timeout⟩ } })

theorem startHandover_eq (p w : Port) (c : Fin 23) (h : Hub) :
    h.startHandover p w c =
      (h.beginHandover p w c).respond p .started [byteOf w.idx.val, byteOf h.work.handovers[c].timeout] := rfl

/-- A handover is granted, with the list reordered and the channel formed, or refused; its record says so (R82 to R86). -/
def concludeHandover (grants : Bool) (c : Fin 23) (o : HandoverOutcome) (q d : Port) (h : Hub) : Hub :=
  (if grants = true then (h.reorder c q d).form c .edit else h).resolve c o q d

/-- The edits of the claim pool, with what is known when they are made. -/
inductive ClaimMove (h : Hub) : Hub → Prop
  | attach (p : Port) (out : (h.port p).tenancy = .detached) : ClaimMove h (h.attachPort p)
  | adopt (p : Port) (lapsed : (h.port p).tenancy = .lapsed) : ClaimMove h ((h.adoptClaims p).attachPort p)
  | leave (p : Port) : ClaimMove h (h.leave p)
  | lapse (p : Port) (live : h.attached p = true) : ClaimMove h ((h.setTenancy p .lapsed).lapseClaims p)
  | remove (p : Port) (c : Fin 23) : ClaimMove h (h.removeClaim p c)
  | place (p : Port) (c : Fin 23) (level : Nat) (value : Command) (policy : Policy) (live : h.attached p = true)
      (open_ : h.mode ≠ .startup ∧ h.mode ≠ .faultHold) (free : claimOf p (h.chan c).claims = none)
      (range : 1 ≤ level ∧ level ≤ 7) (fits : commandFits (kindOf c) (h.work.travelOf c) value = true)
      (quota : h.holding p < (h.portItem p).quota) (room : h.poolCount < Config.poolSize) :
      ClaimMove h (h.editClaims c p .placed (insertClaim ⟨p, level, value, policy, .live⟩))
  | replace (p : Port) (c : Fin 23) (level : Nat) (value : Command) (policy : Policy) (old : Claim) (kind : EditKind)
      (own : claimOf p (h.chan c).claims = some old) (range : 1 ≤ level ∧ level ≤ 7)
      (fits : commandFits (kindOf c) (h.work.travelOf c) value = true)
      (kinds : kind = .levelChanged ∧ old.level ≠ level ∨ kind = .valueChanged ∧ old.level = level) :
      ClaimMove h (h.editClaims c p kind (replaceEdit p level value policy))
  | clear (c : Fin 23) (limit : Nat) : ClaimMove h (h.clearClaims c limit)
  | ask (p : Port) (c : Fin 23) (own w : Claim) (rest : List Claim) (live : h.attached p = true)
      (mine : claimOf p (h.chan c).claims = some own) (first : (h.chan c).claims = w :: rest)
      (standing : w.state = .live) (other : w.port ≠ p) (level : w.level = own.level)
      (free : (h.chan c).handover.pending = none) : ClaimMove h (h.beginHandover p w.port c)
  | atOnce (grants : Bool) (c : Fin 23) (o : HandoverOutcome) (p : Port) (own w : Claim) (rest : List Claim)
      (mine : claimOf p (h.chan c).claims = some own) (first : (h.chan c).claims = w :: rest)
      (other : w.port ≠ p) (level : w.level = own.level) (free : (h.chan c).handover.pending = none) :
      ClaimMove h (h.concludeHandover grants c o p w.port)
  | conclude (grants : Bool) (c : Fin 23) (o : HandoverOutcome) (w : PendingHandover)
      (asked : (h.chan c).handover.pending = some w) : ClaimMove h (h.concludeHandover grants c o w.requester w.holder)

/-- A change of the working copies that no invariant notices but for the quotas, and those hold what is claimed. -/
structure Tuned (h : Hub) (w : Blocks) : Prop where
  members : ∀ g : Fin 4, w.groups[g].members = h.work.groups[g].members
  fallbacks : w.fallbacks = h.work.fallbacks
  setpoints : w.setpoints = h.work.setpoints
  soundMotion : w.soundMotion = h.work.soundMotion
  steppers : ∀ u : Fin 2, w.steppers[u].travel = h.work.steppers[u].travel ∧
    w.steppers[u].refRate = h.work.steppers[u].refRate
  quotas : ∀ p : Port, h.holding p ≤ w.ports[p.idx].quota ∨ w.ports[p.idx].quota = h.work.ports[p.idx].quota

/-- The hub is HELD or in FAULT_HOLD, where configuration is written (R177). -/
def Halted (h : Hub) : Prop := h.mode = .held ∨ h.mode = .faultHold

/-- One operation of the part. -/
inductive Move (h : Hub) : Hub → Prop
  | plain {t : Hub} (same : Plain h t) : Move h t
  | claims {t : Hub} (edit : ClaimMove h t) : Move h t
  | form (c : Fin 23) : Move h (h.form c .edit)
  | settle {m : Hub} (wrote : Quiet h m) : Move h (m.settleSetpoints h [])
  | tune (f : Blocks → Blocks) (tuned : Tuned h (f h.work)) : Move h (h.modWork f)
  | fallback (c : Fin 23) (x : Fallback) (halted : h.Halted) : Move h (formLayer (h.setFallback c x) c)
  | soundMotion (x : Bool) : Move h (refreshMute (h.modWork fun w => { w with soundMotion := x }))
  | travel (u : Fin 2) (x : Nat) (halted : h.Halted) (room : h.travelTooLow u x = false) :
      Move h (h.modStepperItem u fun i => { i with travel := x })
  | rate (u : Fin 2) (x : Nat) (halted : h.Halted) :
      Move h (form (stepperChannel u) .rateWrite (h.modStepperItem u fun i => { i with refRate := x }))
  | members (g : Fin 4) (v : BitVec 32) (halted : h.Halted) (apart : h.sharesMember g (v.setWidth 12) = false)
      (closes : h.closesTwo .groups 0 v = false) : Move h (h.writeMembers g (v.setWidth 12))
  | setpoint (n : Fin 16) (x : SetpointItem) (halted : h.Halted) :
      Move h ((h.modSetpointItem n fun _ => x).setpointChanged n h)
  | store (b : Block) : Move h { h with stored := Blocks.copyBlock b h.work h.stored }
  | hold (run : h.mode = .run) : Move h h.enterHolding
  | held : Move h h.checkHeld
  | run (halted : h.mode = .holding ∨ h.Halted) : Move h h.enterRun
  | reset (cause : ResetCause) : Move h (h.hubReset cause)
  | load (storeAnswers : Bool) (startup : h.mode = .startup) : Move h (h.endLoad storeAnswers)
  | append (c : Chime) (room : h.sounder.queue.length < Config.chimeQueueSize) : Move h (h.appendChime c)
  | retrigger (loudness : Nat) (length : ChimeLength) : Move h (h.retrigger loudness length)
  | withdraw (p : Port) : Move h (h.withdrawChimes p)
  | playingEnds : Move h h.playingEnds
  | gapEnds : Move h h.gapEnds
  | flash : Move h h.flashBoundaryPasses
  | runExpires (r : Fin 12) : Move h (h.relayRunExpires r)
  | deadExpires (g : Fin 4) : Move h (h.deadTimerExpires g)
  | reference (u : Fin 2) (run : h.mode = .run) (unknown : h.runKnown u = false) : Move h (h.takeReference u)
  | stepCompletes (u : Fin 2) : Move h (h.stepCompletes u)
  | referencingStepCompletes (u : Fin 2) : Move h (h.referencingStepCompletes u)
  | pauseEnds (u : Fin 2) : Move h (h.pauseEnds u)
  | released (u : Fin 2) : Move h (h.unitReleased u)
  | pass : Move h h.countDown

/-- A sequence of operations. -/
abbrev Moves : Hub → Hub → Prop := Many Move

end Hub
end Sys2Proof.Machine
end

section
/-! Every command and every step makes moves and nothing else. -/

namespace Sys2Proof.Machine
namespace Hub

section
variable {h t v : Hub}

theorem Moves.plain (same : Plain h t) : Moves h t := .single (.plain same)

theorem Moves.claims (edit : ClaimMove h t) : Moves h t := .single (.claims edit)

/-- An answer ends a sequence of moves. -/
theorem Moves.respond {p : Port} {r : Result} {body : List Byte} (made : Moves h t) : Moves h (t.respond p r body) :=
  made.tail (.plain (plain_respond p r body t))

theorem moves_foldl {α : Type} {f : Hub → α → Hub} (one : ∀ h a, Moves h (f h a)) (xs : List α) (h : Hub) :
    Moves h (xs.foldl f h) :=
  List.foldlRecOn (motive := Moves h) xs f .refl fun t so a _ => so.trans (one t a)

/-- A request answers its first failing check, or does what it does with all checks passed. -/
theorem moves_refuseFirst {p : Port} {checks : List (Bool × Result)} (taken : (∀ x ∈ checks, x.1 = false) → Moves h t) :
    Moves h (h.refuseFirst p checks t) := by
  by_cases passed : ∀ x ∈ checks, x.1 = false
  · rw [refuseFirst_pass p checks h t passed]
    exact taken passed
  · rcases refuseFirst_cases p checks h t with ⟨x, _, _, refused⟩ | through
    · rw [refused]
      exact Moves.plain (plain_respond ..)
    · unfold refuseFirst at through ⊢
      split
      · exact Moves.plain (plain_respond ..)
      · next none => exact absurd (fun x mem => by simpa using List.find?_eq_none.mp none x mem) passed

theorem standing_passed {p : Port} {more : List (Bool × Result)} (passed : ∀ x ∈ h.standing p ++ more, x.1 = false) :
    h.mode ≠ .startup ∧ h.attached p = true ∧ ∀ x ∈ more, x.1 = false := by
  simpa [standing, List.forall_mem_append, and_assoc] using passed

theorem granted_passed {p : Port} {more : List (Bool × Result)} (passed : ∀ x ∈ h.granted p ++ more, x.1 = false) :
    h.mode ≠ .startup ∧ h.attached p = true ∧ ∀ x ∈ more, x.1 = false := by
  rw [granted, List.append_assoc] at passed
  obtain ⟨started, live, rest⟩ := standing_passed passed
  exact ⟨started, live, fun x mem => rest x (List.mem_append_right _ mem)⟩

theorem claimChecks_passed {p : Port} {channel : Byte} {more : List (Bool × Result)}
    (passed : ∀ x ∈ h.claimChecks p channel ++ more, x.1 = false) :
    h.attached p = true ∧ (h.mode ≠ .startup ∧ h.mode ≠ .faultHold) ∧ ∀ x ∈ more, x.1 = false := by
  rw [claimChecks, List.append_assoc] at passed
  obtain ⟨started, live, rest⟩ := standing_passed passed
  simp only [List.cons_append, List.nil_append, List.forall_mem_cons] at rest
  obtain ⟨clear, _, rest⟩ := rest
  exact ⟨live, ⟨started, fun hold => by simp [inFaultHold, hold] at clear⟩, rest⟩

theorem moves_onChannel {channel : Byte} {f : Fin 23 → Hub → Hub}
    (one : ∀ c, channelNo channel = some c → Moves h (f c h)) : Moves h (h.onChannel channel f) := by
  unfold onChannel
  split
  · next named => exact one _ named
  · exact .refl

/-! ## Claims and handovers -/

theorem moves_replaceClaim {p : Port} {c : Fin 23} {level : Nat} {value : Command} {old : Claim} (policy : Policy)
    (own : claimOf p (h.chan c).claims = some old) (range : 1 ≤ level ∧ level ≤ 7)
    (fits : commandFits (kindOf c) (h.work.travelOf c) value = true) :
    Moves h (h.replaceClaim p c level value policy old) := by
  have renewed (m : Hub) : Plain m (m.renewIfEqual p c old.value value h) := by
    unfold renewIfEqual
    dsimp only
    split
    · exact plain_renewSound m
    · exact .refl m
  unfold replaceClaim respondPlace
  dsimp only
  refine Moves.respond (Many.tail ?_ (.plain (renewed _)))
  split
  · next moved => exact Moves.claims (.replace p c level value policy old _ own range fits (.inl ⟨rfl, moved⟩))
  · next same =>
    split
    · exact .single (.form c)
    · exact Moves.claims (.replace p c level value policy old _ own range fits (.inr ⟨rfl, Decidable.not_not.mp same⟩))

theorem moves_placeClaim {p : Port} {c : Fin 23} {level : Nat} {value : Command} (policy : Policy)
    (live : h.attached p = true) (open_ : h.mode ≠ .startup ∧ h.mode ≠ .faultHold)
    (free : claimOf p (h.chan c).claims = none) (range : 1 ≤ level ∧ level ≤ 7)
    (fits : commandFits (kindOf c) (h.work.travelOf c) value = true) :
    Moves h (h.placeClaim p c level value policy) := by
  refine moves_refuseFirst fun passed => ?_
  simp only [List.forall_mem_cons, decide_eq_false_iff_not, Nat.not_le, List.not_mem_nil, false_imp_iff,
    implies_true, and_true] at passed
  exact Moves.respond (Moves.claims (.place p c level value policy live open_ free range fits passed.1 passed.2))

theorem commandFor_fits {w : Blocks} {c : Fin 23} {v : BitVec 24} {x : Command} (asked : commandFor w c v = some x) :
    commandFits (kindOf c) (w.travelOf c) x = true := by
  unfold commandFor at asked
  split at asked
  · split at asked
    · next fits => cases asked; exact fits
    · cases asked
  all_goals cases asked

theorem claimAsked_fits {channel policy : Byte} {value : BitVec 24} {c : Fin 23} {v : Command} {x : Policy}
    (asked : h.claimAsked channel value policy = some (c, v, x)) :
    commandFits (kindOf c) (h.work.travelOf c) v = true := by
  unfold claimAsked at asked
  obtain ⟨k, _, asked⟩ := Option.bind_eq_some_iff.mp asked
  obtain ⟨y, spelled, asked⟩ := Option.bind_eq_some_iff.mp asked
  obtain ⟨z, _, same⟩ := Option.map_eq_some_iff.mp asked
  cases same
  exact commandFor_fits spelled

theorem moves_decideClaim (p : Port) (channel level : Byte) (value : BitVec 24) (policy : Byte) (h : Hub) :
    Moves h (h.decideClaim p channel level value policy) := by
  refine moves_refuseFirst fun passed => ?_
  obtain ⟨live, open_, rest⟩ := claimChecks_passed passed
  simp only [List.forall_mem_cons, decide_eq_false_iff_not] at rest
  have range : 1 ≤ level.toNat ∧ level.toNat ≤ 7 := by omega
  split
  · next asked =>
    split
    · next own => exact moves_replaceClaim _ own range (claimAsked_fits asked)
    · next free => exact moves_placeClaim _ live open_ free range (claimAsked_fits asked)
  · exact .refl

theorem moves_clearChannel (p : Port) (c : Fin 23) (h : Hub) : Moves h (h.clearChannel p c) := by
  rw [clearChannel_eq]
  exact Moves.respond (Moves.claims (.clear c _))

theorem concludeHandover_default (c : Fin 23) (q d : Port) (h : Hub) :
    h.resolveByDefault c q d = h.concludeHandover (h.defaultGrants c) c (h.defaultOutcome c) q d := rfl

/-- Of a channel where a handover comes past its checks: the asking port's claim is below the winner at its level. -/
theorem contested_of_passed {p : Port} {c : Fin 23} {x : Claim} {rest : List Claim}
    (first : (h.chan c).claims = x :: rest) (holds : h.holdsClaim p c = true) (contested : h.notContested p c = false) :
    ∃ own, claimOf p (h.chan c).claims = some own ∧ x.port ≠ p ∧ x.level = own.level := by
  obtain ⟨own, mine⟩ := Option.isSome_iff_exists.mp holds
  refine ⟨own, mine, ?_⟩
  unfold notContested at contested
  rw [mine, first] at contested
  simpa using contested

theorem moves_decideHandover (p : Port) (channel : Byte) (h : Hub) : Moves h (h.decideHandover p channel) := by
  refine moves_refuseFirst fun passed => ?_
  obtain ⟨live, _, rest⟩ := claimChecks_passed passed
  refine moves_onChannel fun c named => ?_
  simp only [List.forall_mem_cons] at rest
  obtain ⟨lacks, busy, contested, _⟩ := rest
  have holds : h.holdsClaim p c = true := by simpa [lacksClaim, named] using lacks
  have free : (h.chan c).handover.pending = none := by simpa [handoverPending, named] using busy
  rw [named] at contested
  unfold askHandover
  split
  · next first =>
    obtain ⟨own, mine, other, level⟩ := contested_of_passed first holds contested
    split
    · exact Moves.respond (Moves.claims (.atOnce _ c _ p own _ _ mine first other level free))
    · next standing => exact Moves.respond (Moves.claims (.ask p c own _ _ live mine first standing other level free))
  · exact .refl

theorem moves_answerHandover (p : Port) (yields : Bool) (c : Fin 23) (h : Hub) :
    Moves h (h.answerHandover p yields c) := by
  unfold answerHandover
  split
  · next asked => exact Moves.respond (Moves.claims (.conclude yields c _ _ asked))
  · exact .refl

theorem moves_handoverExpires (c : Fin 23) (h : Hub) : Moves h (h.handoverExpires c) := by
  unfold handoverExpires
  split
  · next asked =>
    rw [concludeHandover_default]
    exact Moves.claims (.conclude _ c _ _ asked)
  · exact .refl

theorem moves_removeClaims (p : Port) (h : Hub) : Moves h (h.removeClaims p) :=
  moves_foldl (f := removeClaim p) (fun _ c => Moves.claims (.remove p c)) _ h

/-! ## Tenancies -/

theorem moves_decideAttach (p : Port) (h : Hub) : Moves h (h.decideAttach p) := by
  refine moves_refuseFirst fun _ => ?_
  have fault (m : Hub) : Plain m (m.giveFault p) := by
    unfold giveFault
    split
    · exact .refl m
    · exact plain_giveFlag ..
  split
  · next out => exact Moves.respond ((Moves.claims (.attach p out)).tail (.plain (fault _)))
  · next lapsed =>
    refine Moves.respond (Many.tail ?_ (.plain (fault _)))
    exact (Moves.claims (.adopt p lapsed)).tail
      (.plain (.foldl (fun m c => plain_giveFlagOn p .won c m) _ _))
  · exact Moves.plain (plain_respond ..)

theorem moves_leaseHalf (p : Port) (h : Hub) : Moves h (h.leaseHalf p) := by
  unfold leaseHalf
  split
  · next held =>
    have live : h.attached p = true := by rw [Hub.attached, held]
    exact Moves.plain ((plain_setTenancy live _).trans (plain_giveFlag ..))
  · next held =>
    have live : h.attached p = true := by rw [Hub.attached, held]
    exact Moves.plain (plain_setTenancy live _)
  all_goals exact .refl

theorem moves_lapsePort (p : Port) (h : Hub) : Moves h (h.lapsePort p) := by
  unfold lapsePort
  split
  · next held =>
    have live : h.attached p = true := by rw [Hub.attached, held]
    split
    · exact Moves.plain (plain_setTenancy live _)
    · exact Moves.claims (.lapse p live)
  all_goals exact .refl

/-! ## Chimes and references -/

theorem moves_decideChime (p : Port) (pitch loudness length : Byte) (h : Hub) :
    Moves h (h.decideChime p pitch loudness length) := by
  refine moves_refuseFirst fun _ => ?_
  split
  · unfold askChime
    split
    · exact Moves.respond (.single (.retrigger ..))
    · split
      · exact Moves.plain (plain_respond ..)
      · next room => exact Moves.respond (.single (.append _ (Nat.not_le.mp room)))
  · exact .refl

theorem moves_decideReference (p : Port) (channel : Byte) (h : Hub) : Moves h (h.decideReference p channel) := by
  refine moves_refuseFirst fun passed => ?_
  obtain ⟨started, _, rest⟩ := standing_passed passed
  split
  · next u named =>
    simp only [List.forall_mem_cons] at rest
    obtain ⟨_, clear, free, _, unknown, _⟩ := rest
    have run : h.mode = .run := by
      revert started clear free
      unfold onHold
      cases h.mode <;> simp
    rw [named] at unknown
    exact Moves.respond (.single (.reference u run unknown))
  · exact .refl

/-! ## Slots and setpoints -/

theorem plain_setSlot (k : Fin 8) (x : Slot) (h : Hub) : Plain h (h.setSlot k x) := plain_free h ..

/-- What an event wrote into setpoints is settled. -/
theorem moves_settle {α : Type} {f : Hub → α → Hub} (one : ∀ h a, Quiet h (f h a)) (xs : List α) (h : Hub) :
    Moves h ((xs.foldl f h).settleSetpoints h []) :=
  .single (.settle (quiet_foldl one xs h))

theorem moves_evaluateSlot (k : Fin 8) (h : Hub) : Moves h (h.evaluateSlot k) :=
  moves_settle (fun h n => quiet_setSetpoint n _ h) _ h

theorem moves_takeSample (k : Fin 8) (raw : Int) (h : Hub) : Moves h (h.takeSample k raw) :=
  .head (.plain (plain_setSlot k _ h)) (moves_evaluateSlot k _)

theorem moves_takeZero (k : Fin 8) (amount : Int) (h : Hub) : Moves h (h.takeZero k amount) := by
  unfold takeZero
  dsimp only
  split
  · exact .head (.plain (plain_setSlot k _ h)) (moves_evaluateSlot k _)
  · exact Moves.plain (plain_setSlot k _ h)

/-- The setpoints of a slot are failed or emptied on a part whose slot has just been written. -/
theorem moves_emptySlot (k : Fin 8) (h : Hub) : Moves h (h.emptySlot k) := by
  refine .single (.settle ((plain_setSlot k ⟨.empty, 0, none, false⟩ h).toQuiet.trans ?_))
  exact quiet_foldl (fun h n => quiet_setSetpoint n _ h) _ _

theorem moves_freshnessExpires (k : Fin 8) (h : Hub) : Moves h (h.freshnessExpires k) := by
  unfold freshnessExpires
  dsimp only
  split
  · split
    · exact Moves.plain (plain_setSlot k _ h)
    · have failed (m : Hub) : Quiet m ((h.setpointsOn k).foldl failSetpoint m) :=
        quiet_foldl (fun h n => quiet_setSetpoint n _ h) _ _
      exact .single (.settle ((failed _).comp (Quiet.comp (plain_giveFlag ..).toQuiet (plain_setSlot k _ h).toQuiet)))
  · exact .refl

theorem moves_delayExpires (n : Fin 16) (h : Hub) : Moves h (h.delayExpires n) := by
  unfold delayExpires
  split
  · split
    · exact Moves.plain (plain_setSetpoint rfl)
    · exact .single (.settle (quiet_setSetpoint n _ h))
  · exact .refl

/-! ## The configuration and the store -/

theorem Tuned.of_fields {w : Blocks} (groups : ∀ g : Fin 4, w.groups[g].members = h.work.groups[g].members)
    (fallbacks : w.fallbacks = h.work.fallbacks) (setpoints : w.setpoints = h.work.setpoints)
    (soundMotion : w.soundMotion = h.work.soundMotion) (steppers : w.steppers = h.work.steppers)
    (ports : w.ports = h.work.ports) : Tuned h w :=
  ⟨groups, fallbacks, setpoints, soundMotion, fun u => by rw [steppers]; exact ⟨rfl, rfl⟩, fun p => .inr (by rw [ports])⟩

theorem getElem_set_field {α β : Type} {n : Nat} (xs : Vector α n) (i k : Fin n) (x : α) (field : α → β)
    (same : field x = field xs[i]) : field (xs.set i x)[k] = field xs[k] := by
  by_cases here : i = k
  · subst here
    simpa using same
  · have apart : i.val ≠ k.val := fun e => here (Fin.ext e)
    simp [apart]

theorem moves_tune (f : Blocks → Blocks) (tuned : Tuned h (f h.work)) : Moves h (h.modWork f) := .single (.tune f tuned)

theorem moves_written {b : Block} {field : Byte} {x : BitVec 32} (wrote : h.Written b field x t) (halted : h.Halted)
    (closes : h.closesTwo b field x = false) : Moves h t := by
  cases wrote with
  | port p x quota =>
    refine moves_tune _ ⟨fun _ => rfl, rfl, rfl, rfl, fun _ => ⟨rfl, rfl⟩, fun q => ?_⟩
    by_cases same : p = q
    · subst same
      simpa [portItem] using quota
    · have apart : p.idx.val ≠ q.idx.val := fun e => same (idx_inj.mp (Fin.ext e))
      exact .inr (by simp [apart])
  | fallback c x => exact .single (.fallback c x halted)
  | handover c x => exact moves_tune _ (.of_fields (fun _ => rfl) rfl rfl rfl rfl rfl)
  | relay r x => exact moves_tune _ (.of_fields (fun _ => rfl) rfl rfl rfl rfl rfl)
  | soundMotion x => exact .single (.soundMotion x)
  | travel u x room => exact .single (.travel u x halted room)
  | motion u overtravel autoRef =>
    refine moves_tune _ ⟨fun _ => rfl, rfl, rfl, rfl, fun v => ⟨?_, ?_⟩, fun _ => .inr rfl⟩
    · exact getElem_set_field h.work.steppers u v _ (·.travel) rfl
    · exact getElem_set_field h.work.steppers u v _ (·.refRate) rfl
  | rate u x => exact .single (.rate u x halted)
  | members g apart => exact .single (.members g x halted apart closes)
  | group g deadTime preempt =>
    exact moves_tune _ (.of_fields (fun k => getElem_set_field h.work.groups g k _ (·.members) rfl) rfl rfl rfl rfl rfl)
  | slotKind k x => exact .head (.tune _ (.of_fields (fun _ => rfl) rfl rfl rfl rfl rfl)) (moves_emptySlot k _)
  | freshness k x => exact moves_tune _ (.of_fields (fun _ => rfl) rfl rfl rfl rfl rfl)
  | setpoint n x => exact .single (.setpoint n x halted)
  | calibration k x => exact moves_tune _ (.of_fields (fun _ => rfl) rfl rfl rfl rfl rfl)

theorem halted_of_writable (writable : h.notWritable = false) : h.Halted := by
  have away := (not_congr (notWritable_iff h)).mp (by simp [writable])
  exact Decidable.or_iff_not_not_and_not.mpr away

theorem moves_decideConfigWrite (p : Port) (block item field : Byte) (x : BitVec 32) (h : Hub) :
    Moves h (h.decideConfigWrite p block item field x) := by
  unfold decideConfigWrite
  dsimp only
  split
  · next taken =>
    refine moves_refuseFirst fun passed => Moves.respond ?_
    rw [List.append_assoc] at passed
    obtain ⟨_, _, rest⟩ := granted_passed passed
    simp only [List.cons_append, List.nil_append, List.forall_mem_cons] at rest
    obtain ⟨writable, _, closes, _⟩ := rest
    obtain ⟨b, named, taken⟩ := Option.bind_eq_some_iff.mp taken
    rw [named] at closes
    exact moves_written (written_of_write taken) (halted_of_writable writable) closes
  · exact moves_refuseFirst fun _ => .refl

theorem moves_writeCompletes (verified : Bool) (h : Hub) : Moves h (h.writeCompletes verified) := by
  unfold writeCompletes
  split
  · next x _ =>
    refine Many.tail (Many.tail ?_ (.plain (plain_free _ ..)))
      (.plain (plain_giveFlag x.2 .storeDone _))
    split
    · exact .tail (.single (.store x.1)) (.plain (plain_free _ ..))
    · exact Moves.plain (plain_free h ..)
  · exact .refl

/-! ## The mode and the resets -/

theorem moves_readAddress (h : Hub) : Moves h h.readAddress := by
  unfold readAddress
  split
  · exact .refl
  · exact Moves.plain (plain_free h ..)

theorem moves_decideHold (p : Port) (h : Hub) : Moves h (h.decideHold p) := by
  refine moves_refuseFirst fun passed => ?_
  obtain ⟨started, _, rest⟩ := granted_passed passed
  simp only [List.forall_mem_cons] at rest
  obtain ⟨clear, free, _⟩ := rest
  have run : h.mode = .run := by
    revert started clear free
    unfold onHold
    cases h.mode <;> simp
  exact Moves.respond (.single (.hold run))

theorem moves_decideResume (p : Port) (h : Hub) : Moves h (h.decideResume p) := by
  refine moves_refuseFirst fun passed => ?_
  obtain ⟨_, _, rest⟩ := granted_passed passed
  simp only [List.forall_mem_cons, Bool.not_eq_eq_eq_not, Bool.not_false, onHold_iff] at rest
  exact Moves.respond (.single (.run (rest.1.imp_right .inl)))

theorem moves_decideAcceptFault (p : Port) (h : Hub) : Moves h (h.decideAcceptFault p) := by
  refine moves_refuseFirst fun passed => ?_
  obtain ⟨_, _, rest⟩ := granted_passed passed
  simp only [List.forall_mem_cons, bne_eq_false_iff_eq] at rest
  exact Moves.respond (.single (.run (.inr (.inr rest.1))))

theorem moves_loadEnds (storeAnswers : Bool) (h : Hub) : Moves h (h.loadEnds storeAnswers) := by
  unfold loadEnds
  split
  · next loading =>
    have startup : h.mode = .startup := by simp [Hub.loading] at loading; exact loading.1
    exact .single (.load storeAnswers startup)
  · exact .refl

theorem moves_resetNFalls (h : Hub) : Moves h h.resetNFalls := by
  unfold resetNFalls
  split
  · exact .refl
  · exact .tail (.single (.reset .pin)) (.plain (plain_free _ ..))

theorem moves_resetNRises (h : Hub) : Moves h h.resetNRises := by
  unfold resetNRises
  split
  · exact .head (.plain (plain_free h ..)) (moves_readAddress _)
  · exact .refl

theorem moves_inhibitReleased (h : Hub) : Moves h h.inhibitReleased :=
  .tail (.tail (Moves.plain (plain_free h ..)) (.released 0)) (.released 1)

theorem moves_portReset (p : Port) (h : Hub) : Moves h (if (h.port p).resetLow then h else h.resetPort p) := by
  split
  · exact .refl
  · exact .tail (Moves.claims (.leave p)) (.plain (plain_modPort (.inl rfl) rfl))

end

/-! ## Every command, every step -/

theorem onRequest_moves (p : Port) {decided : Hub → Hub} (all : ∀ h, Moves h (decided h)) (s : State) :
    ∃ t, onRequest p decided s = .next { s with hub := t } ∧ Moves s.hub t := by
  cases heard : s.hub.takesFrames p with
  | true => exact ⟨_, onRequest_heard p decided s heard, .head (.plain (plain_restartLease p _)) (all _)⟩
  | false => exact ⟨_, onRequest_deaf p decided s heard, .refl⟩

theorem onEvent_moves {effect : Hub → Hub} (all : ∀ h, Moves h (effect h)) (s : State) :
    ∃ t, onEvent effect s = .next { s with hub := t } ∧ Moves s.hub t := ⟨_, rfl, all _⟩

section
variable (p : Port) (h : Hub)

theorem moves_answered (r : Result) (body : List Byte) : Moves h (h.respond p r body) := Moves.plain (plain_respond ..)

theorem moves_recorded (record : List LayoutByte) : Moves h (h.respondRecord p record) :=
  Moves.plain (plain_respondRecord ..)

theorem moves_decideDetach : Moves h (h.decideDetach p) :=
  moves_refuseFirst fun _ => Moves.respond (Moves.claims (.leave p))

theorem moves_decideKeep : Moves h (h.decideKeep p) := moves_refuseFirst fun _ => moves_answered ..

theorem moves_decideReadNotices (flags : BitVec 14) : Moves h (h.decideReadNotices p flags) :=
  moves_refuseFirst fun _ => moves_answered ..

theorem moves_decideClearNotices (flags : BitVec 16) (clear : Byte) : Moves h (h.decideClearNotices p flags clear) :=
  moves_refuseFirst fun _ => Moves.respond (Moves.plain (plain_modPort (.inl rfl) rfl))

theorem moves_decideSetMask (mask : BitVec 16) : Moves h (h.decideSetMask p mask) :=
  moves_refuseFirst fun _ => Moves.respond (Moves.plain (plain_modPort (.inl rfl) rfl))

theorem moves_decideRelease (channel : Byte) : Moves h (h.decideRelease p channel) :=
  moves_refuseFirst fun _ => moves_onChannel fun c _ => Moves.respond (Moves.claims (.remove p c))

theorem moves_decideReleaseAll : Moves h (h.decideReleaseAll p) :=
  moves_refuseFirst fun _ => Moves.respond (moves_removeClaims p h)

theorem moves_decideClearOrphans (channel : Byte) : Moves h (h.decideClearOrphans p channel) :=
  moves_refuseFirst fun _ => moves_onChannel fun c _ => moves_clearChannel p c h

theorem moves_decideQueryClaims (channel : Byte) : Moves h (h.decideQueryClaims p channel) :=
  moves_refuseFirst fun _ => moves_onChannel fun _ _ => moves_recorded ..

theorem moves_decideQueryChannel (channel : Byte) : Moves h (h.decideQueryChannel p channel) := by
  refine moves_refuseFirst fun _ => ?_
  split
  · exact moves_recorded ..
  · exact .refl

theorem moves_decideQuerySlot (slot : Byte) : Moves h (h.decideQuerySlot p slot) := by
  refine moves_refuseFirst fun _ => ?_
  split
  · exact moves_recorded ..
  · exact .refl

theorem moves_decideQuerySetpoints : Moves h (h.decideQuerySetpoints p) := moves_refuseFirst fun _ => moves_answered ..

theorem moves_decideAnswer (channel answer : Byte) : Moves h (h.decideAnswer p channel answer) :=
  moves_refuseFirst fun _ => moves_onChannel fun c _ => moves_answerHandover p _ c h

theorem moves_decideSilence : Moves h (h.decideSilence p) :=
  moves_refuseFirst fun _ => Moves.respond (.single (.withdraw p))

theorem moves_decideSample (slot : Byte) (raw : BitVec 32) : Moves h (h.decideSample p slot raw) := by
  refine moves_refuseFirst fun _ => ?_
  split
  · exact Moves.respond (moves_takeSample _ _ h)
  · exact .refl

theorem moves_decideZero (slot : Byte) (amount : BitVec 32) : Moves h (h.decideZero p slot amount) := by
  refine moves_refuseFirst fun _ => ?_
  split
  · exact Moves.respond (moves_takeZero _ _ h)
  · exact .refl

theorem moves_decideAckSetpoint (setpoint : Byte) : Moves h (h.decideAckSetpoint p setpoint) := by
  refine moves_refuseFirst fun _ => ?_
  split
  · exact Moves.respond (.single (.settle (quiet_setSetpoint _ _ h)))
  · exact .refl

theorem moves_decideClearFirstFault : Moves h (h.decideClearFirstFault p) :=
  moves_refuseFirst fun _ => Moves.respond (Moves.plain (plain_free h ..))

theorem moves_decideResetHub : Moves h (h.decideResetHub p) :=
  moves_refuseFirst fun _ => .head (.reset .software) (moves_readAddress _)

theorem moves_decideConfigRead (block item field : Byte) : Moves h (h.decideConfigRead p block item field) := by
  unfold decideConfigRead
  split
  · exact moves_refuseFirst fun _ => moves_answered ..
  · exact moves_refuseFirst fun _ => .refl

theorem moves_decideStore (block : Byte) : Moves h (h.decideStore p block) :=
  moves_refuseFirst fun _ => Moves.respond (Moves.plain (plain_free h ..))

theorem moves_discardFrame : Moves h (h.discardFrame p) := by
  unfold discardFrame
  split
  · exact Moves.respond (Moves.plain (plain_giveFlag ..))
  · exact .refl

end

theorem exec_moves (i : Instr) (s : State) : ∃ t, exec i s = .next { s with hub := t } ∧ Moves s.hub t := by
  cases i with
  | attach p => exact onRequest_moves p (moves_decideAttach p) s
  | detach p => exact onRequest_moves p (moves_decideDetach p) s
  | keep p => exact onRequest_moves p (moves_decideKeep p) s
  | queryHub p => exact onRequest_moves p (fun h => moves_recorded p h h.hubRecord) s
  | readNotices p => exact onRequest_moves p (fun h => moves_decideReadNotices p h _) s
  | clearNotices p flags clear => exact onRequest_moves p (fun h => moves_decideClearNotices p h flags clear) s
  | setMask p mask => exact onRequest_moves p (fun h => moves_decideSetMask p h mask) s
  | claim p channel level value policy => exact onRequest_moves p (moves_decideClaim p channel level value policy) s
  | release p channel => exact onRequest_moves p (fun h => moves_decideRelease p h channel) s
  | releaseAll p => exact onRequest_moves p (moves_decideReleaseAll p) s
  | clearOrphans p channel => exact onRequest_moves p (fun h => moves_decideClearOrphans p h channel) s
  | queryClaims p channel => exact onRequest_moves p (fun h => moves_decideQueryClaims p h channel) s
  | queryChannel p channel => exact onRequest_moves p (fun h => moves_decideQueryChannel p h channel) s
  | handover p channel => exact onRequest_moves p (moves_decideHandover p channel) s
  | answer p channel answer => exact onRequest_moves p (fun h => moves_decideAnswer p h channel answer) s
  | handoverTimerExpiry c => exact onEvent_moves (moves_handoverExpires c) s
  | chime p pitch loudness length => exact onRequest_moves p (moves_decideChime p pitch loudness length) s
  | silence p => exact onRequest_moves p (moves_decideSilence p) s
  | reference p channel => exact onRequest_moves p (moves_decideReference p channel) s
  | sample p slot raw => exact onRequest_moves p (fun h => moves_decideSample p h slot raw) s
  | zero p slot amount => exact onRequest_moves p (fun h => moves_decideZero p h slot amount) s
  | ackSetpoint p setpoint => exact onRequest_moves p (fun h => moves_decideAckSetpoint p h setpoint) s
  | querySlot p slot => exact onRequest_moves p (fun h => moves_decideQuerySlot p h slot) s
  | querySetpoints p => exact onRequest_moves p (moves_decideQuerySetpoints p) s
  | hold p => exact onRequest_moves p (moves_decideHold p) s
  | enterHeld => exact onEvent_moves (fun _ => .single .held) s
  | resume p => exact onRequest_moves p (moves_decideResume p) s
  | acceptFault p => exact onRequest_moves p (moves_decideAcceptFault p) s
  | clearFirstFault p => exact onRequest_moves p (moves_decideClearFirstFault p) s
  | resetHub p => exact onRequest_moves p (moves_decideResetHub p) s
  | configRead p block item field => exact onRequest_moves p (fun h => moves_decideConfigRead p h block item field) s
  | configWrite p block item field value => exact onRequest_moves p (moves_decideConfigWrite p block item field value) s
  | store p block => exact onRequest_moves p (fun h => moves_decideStore p h block) s
  | storeCompletion verified => exact onEvent_moves (moves_writeCompletes verified) s
  | badFrame p => exact onEvent_moves (moves_discardFrame p) s
  | badRequest p => exact onRequest_moves p (fun h => moves_answered p h .badRequest []) s
  | leaseLow p => exact onEvent_moves (moves_leaseHalf p) s
  | lapse p => exact onEvent_moves (moves_lapsePort p) s
  | portReset p => exact onEvent_moves (moves_portReset p) s
  | portResetRelease p => exact onEvent_moves (fun _ => Moves.plain (plain_modPort (.inl rfl) rfl)) s
  | powerOn => exact onEvent_moves (fun _ => .head (.reset .powerOn) (moves_readAddress _)) s
  | resetNAssert => exact onEvent_moves moves_resetNFalls s
  | resetNRelease => exact onEvent_moves moves_resetNRises s
  | endOfLoad storeAnswers => exact onEvent_moves (moves_loadEnds storeAnswers) s
  | stepInhibitAssert => exact onEvent_moves (fun h => Moves.plain (plain_free h ..)) s
  | stepInhibitRelease => exact onEvent_moves moves_inhibitReleased s
  | stepCompletion u => exact onEvent_moves (fun _ => .tail (.single (.stepCompletes u)) .held) s
  | referencingStepCompletion u => exact onEvent_moves (fun _ => .tail (.single (.referencingStepCompletes u)) .held) s
  | reversalPauseEnd u => exact onEvent_moves (fun _ => .single (.pauseEnds u)) s
  | minTimeExpiry r => exact onEvent_moves (fun _ => .single (.runExpires r)) s
  | deadTimerExpiry g => exact onEvent_moves (fun _ => .single (.deadExpires g)) s
  | decayTimerExpiry => exact onEvent_moves (fun h => Moves.plain (plain_decayExpires h)) s
  | chimeEnd => exact onEvent_moves (fun _ => .single .playingEnds) s
  | gapEnd => exact onEvent_moves (fun _ => .single .gapEnds) s
  | freshnessExpiry k => exact onEvent_moves (moves_freshnessExpires k) s
  | delayTimerExpiry n => exact onEvent_moves (moves_delayExpires n) s
  | flashClockLitHalfChange => exact onEvent_moves (fun _ => .single .flash) s

theorem runDue_moves : ∀ (events : List Instr) (s : State),
    ∃ t, runDue events s = .next t ∧ Moves s.hub t.hub
  | [], s => ⟨s, rfl, .refl⟩
  | i :: rest, s => by
    cases due : s.hub.due i with
    | true =>
      obtain ⟨t, taken, moved⟩ := exec_moves i s
      obtain ⟨v, more, further⟩ := runDue_moves rest { s with hub := t }
      exact ⟨v, (runDue_take due taken).trans more, moved.trans further⟩
    | false =>
      obtain ⟨v, more, further⟩ := runDue_moves rest s
      exact ⟨v, by rw [runDue, if_neg (by simp [due]), more], further⟩

/-- A step makes a sequence of moves. -/
theorem step_moves {s t : State} (stepped : step s = .next t) : Moves s.hub t.hub := by
  unfold step at stepped
  split at stepped
  · next i rest _ =>
    obtain ⟨v, taken, moved⟩ := exec_moves i { s with pending := rest }
    rw [taken] at stepped
    cases stepped
    exact moved
  · obtain ⟨v, taken, moved⟩ := runDue_moves s.hub.unitEvents { s with hub := s.hub.countDown }
    rw [passUnit, taken] at stepped
    cases stepped
    exact .head .pass moved

/-- What every move keeps, every step keeps. -/
theorem keptByStep_of_moves {good : Hub → Prop} (kept : ∀ h t, good h → Move h t → good t) : KeptByStep good := by
  intro s t holds stepped
  have moved := step_moves stepped
  generalize t.hub = u at moved
  induction moved with
  | refl => exact holds
  | tail _ move ih => exact kept _ _ ih move

end Hub
end Sys2Proof.Machine
end

section
/-! What the engines may write: a stepper operation its stepper and the mute mark, a sounder operation the sounder, a relay
operation relays and dead timers; beside that they give flags and nothing else. -/

namespace Sys2Proof.Machine.Hub

section
variable {u : Fin 2} {h t v : Hub}

/-- Ports that are told alone: the claim holds on any part with those ports. -/
theorem told_on {ports : Vector PortUnit 3} (told : Plain h { h with ports := ports }) (x : Hub) (same : x.ports = h.ports) :
    Plain x { x with ports := ports } :=
  ⟨⟨⟨rfl, rfl, rfl, rfl, fun _ => ⟨rfl, rfl⟩, rfl, rfl, ⟨rfl, rfl, rfl⟩, rfl, fun _ => rfl⟩, rfl,
    fun p => (told.attached p).trans (by rw [attached, attached, port, port, same]),
    fun p => (told.isLapsed p).trans (by rw [isLapsed, isLapsed, port, port, same]),
    fun p => (told.asked p).trans (by rw [port, port, same])⟩, fun _ => rfl⟩

/-- An operation of one Stepper unit: its stepper has moved, the mute mark is refreshed, flags are given. -/
structure StepperOnly (u : Fin 2) (h t : Hub) : Prop where
  rest : t = { h with ports := t.ports, steppers := t.steppers, sounder := { h.sounder with mute := t.sounder.mute } }
  others : ∀ w, w ≠ u → t.stepper w = h.stepper w
  told : Plain h { h with ports := t.ports }
  mute : h.sounder.mute = h.muteValue → t.sounder.mute = t.muteValue

theorem StepperOnly.refl (u : Fin 2) (h : Hub) : StepperOnly u h h := ⟨rfl, fun _ _ => rfl, .refl h, id⟩

theorem StepperOnly.trans (a : StepperOnly u h t) (b : StepperOnly u t v) : StepperOnly u h v where
  rest := by rw [b.rest, a.rest]
  others w other := (b.others w other).trans (a.others w other)
  told := a.told.trans (told_on b.told _ rfl)
  mute fresh := b.mute (a.mute fresh)

/-- The last step first: what it starts from is then known. -/
theorem StepperOnly.comp (b : StepperOnly u t v) (a : StepperOnly u h t) : StepperOnly u h v := a.trans b

theorem stepperOnly_modStepper (u : Fin 2) (f : Stepper → Stepper) (h : Hub) : StepperOnly u h (h.modStepper u f) where
  rest := rfl
  others w other := by rw [stepper_modStepper, if_neg (Ne.symm other)]
  told := .refl h
  mute _ := rfl

theorem stepperOnly_giveFlagOn (u : Fin 2) (p : Port) (f : Flag) (c : Fin 23) (h : Hub) :
    StepperOnly u h (h.giveFlagOn p f c) where
  rest := by unfold giveFlagOn; split <;> rfl
  others w _ := by unfold giveFlagOn; split <;> rfl
  told := by
    have told := plain_giveFlagOn p f c h
    rwa [show h.giveFlagOn p f c = { h with ports := (h.giveFlagOn p f c).ports } by
      unfold giveFlagOn; split <;> rfl] at told
  mute := by unfold giveFlagOn; split <;> exact id

end

section
variable (u : Fin 2) (h : Hub)

theorem stepperOnly_giveArrived : StepperOnly u h (h.giveArrived u) := by
  unfold giveArrived
  split
  · exact stepperOnly_giveFlagOn u _ _ _ h
  · exact .refl u h

theorem stepperOnly_decision : StepperOnly u h (h.decision u) := by
  unfold decision
  dsimp only
  split
  · exact .refl u h
  · split
    · exact (stepperOnly_giveArrived u _).comp (stepperOnly_modStepper u _ h)
    · split
      · exact stepperOnly_modStepper u _ h
      · split <;> split <;> exact stepperOnly_modStepper u _ h

theorem stepperOnly_startRunStep : StepperOnly u h (h.startRunStep u) := by
  unfold startRunStep
  split <;> exact stepperOnly_modStepper u _ h

theorem stepperOnly_startRun : StepperOnly u h (h.startRun u) := by
  unfold startRun
  dsimp only
  split
  · exact (stepperOnly_modStepper u _ h).trans (stepperOnly_modStepper u _ _)
  · exact (stepperOnly_modStepper u _ h).trans (stepperOnly_startRunStep u _)

theorem stepperOnly_goOn : StepperOnly u h (h.goOn u) := by
  unfold goOn
  split
  · exact stepperOnly_startRunStep u h
  · split
    · exact stepperOnly_startRun u h
    · exact stepperOnly_decision u h

theorem stepperOnly_stepperTakes (change : Bool) : StepperOnly u h (h.stepperTakes u change) := by
  unfold stepperTakes
  split
  · split
    · exact stepperOnly_decision u h
    · split
      · exact .refl u h
      · exact stepperOnly_decision u h
    all_goals exact .refl u h
  · exact .refl u h

theorem stepperOnly_comeToRest : StepperOnly u h (h.comeToRest u) := stepperOnly_modStepper u _ h

theorem stepperOnly_drainStep : StepperOnly u h (h.drainStep u) := by
  unfold drainStep
  dsimp only
  split
  · exact (stepperOnly_comeToRest u h).trans (stepperOnly_giveArrived u _)
  · exact stepperOnly_comeToRest u h

theorem stepperOnly_stepCompletes : StepperOnly u h (h.stepCompletes u) := by
  unfold stepCompletes
  split
  · dsimp only
    split
    · split
      · exact (stepperOnly_startRun u _).comp (stepperOnly_modStepper u _ h)
      · exact (stepperOnly_decision u _).comp (stepperOnly_modStepper u _ h)
    · exact (stepperOnly_drainStep u _).comp (stepperOnly_modStepper u _ h)
    · exact (stepperOnly_drainStep u _).comp (stepperOnly_modStepper u _ h)
  all_goals exact .refl u h

theorem stepperOnly_abortRun : StepperOnly u h ((h.abortRun u).comeToRest u) :=
  (stepperOnly_modStepper u _ h).trans (stepperOnly_comeToRest u _)

theorem stepperOnly_referencingStepCompletes : StepperOnly u h (h.referencingStepCompletes u) := by
  unfold referencingStepCompletes
  split
  · dsimp only
    split
    · split
      · exact ((stepperOnly_decision u _).comp (stepperOnly_modStepper u _ _)).comp (stepperOnly_modStepper u _ h)
      · exact (stepperOnly_startRunStep u _).comp (stepperOnly_modStepper u _ h)
    · exact (stepperOnly_abortRun u _).comp (stepperOnly_modStepper u _ h)
    · exact (stepperOnly_abortRun u _).comp (stepperOnly_modStepper u _ h)
  all_goals exact .refl u h

theorem stepperOnly_pauseEnds : StepperOnly u h (h.pauseEnds u) := by
  unfold pauseEnds
  split
  · exact (stepperOnly_goOn u _).comp (stepperOnly_modStepper u _ h)
  all_goals exact .refl u h

theorem stepperOnly_unitReleased : StepperOnly u h (h.unitReleased u) := by
  unfold unitReleased
  split
  · exact stepperOnly_goOn u h
  · exact .refl u h

theorem stepperOnly_drainUnit : StepperOnly u h (h.drainUnit u) := by
  have rested := stepperOnly_comeToRest u h
  have aborted := stepperOnly_abortRun u h
  unfold drainUnit
  split
  · exact rested
  · exact stepperOnly_modStepper u _ h
  · exact stepperOnly_modStepper u _ h
  all_goals
    split
    · exact aborted
    · exact rested

theorem stepperOnly_thawUnit (changed : Bool) : StepperOnly u h (h.thawUnit u changed) := by
  have running := stepperOnly_modStepper u (fun t => { t with cond := .running }) h
  unfold thawUnit
  dsimp only
  split
  · exact .refl u h
  · exact running
  · split
    · exact running.trans (stepperOnly_decision u _)
    · exact running

theorem stepperOnly_autoReference : StepperOnly u h (h.autoReference u) := by
  unfold autoReference
  split
  · exact stepperOnly_startRun u h
  · exact .refl u h

theorem stepperOnly_checkReference : StepperOnly u h (h.checkReference u) := by
  unfold checkReference
  split
  · exact stepperOnly_modStepper u _ h
  · exact .refl u h

theorem stepperOnly_takeReference : StepperOnly u h (h.takeReference u) := by
  unfold takeReference
  split
  · exact stepperOnly_startRun u h
  · exact stepperOnly_modStepper u _ h
  · exact stepperOnly_modStepper u _ h
  · exact stepperOnly_modStepper u _ h
  · exact .refl u h

end

/-! ## The sounder -/

/-- An operation of the sounder: it has moved but for the mute mark, flags are given. -/
structure SounderOnly (h t : Hub) : Prop where
  rest : t = { h with ports := t.ports, sounder := t.sounder }
  mute : t.sounder.mute = h.sounder.mute
  told : Plain h { h with ports := t.ports }

section
variable {h t v : Hub}

theorem SounderOnly.refl (h : Hub) : SounderOnly h h := ⟨rfl, rfl, .refl h⟩

theorem SounderOnly.trans (a : SounderOnly h t) (b : SounderOnly t v) : SounderOnly h v where
  rest := by rw [b.rest, a.rest]
  mute := b.mute.trans a.mute
  told := a.told.trans (told_on b.told _ rfl)

theorem sounderOnly_modSounder {f : Sounder → Sounder} (mute : (f h.sounder).mute = h.sounder.mute) :
    SounderOnly h (h.modSounder f) := ⟨rfl, mute, .refl h⟩

theorem sounderOnly_giveFlag (p : Port) (f : Flag) (h : Hub) : SounderOnly h (h.giveFlag p f) where
  rest := by unfold giveFlag; split <;> rfl
  mute := by unfold giveFlag; split <;> rfl
  told := by
    have told := plain_giveFlag p f h
    rwa [show h.giveFlag p f = { h with ports := (h.giveFlag p f).ports } by unfold giveFlag; split <;> rfl] at told

theorem sounderOnly_giveChimesDone (xs : List Chime) (h : Hub) : SounderOnly h (h.giveChimesDone xs) :=
  List.foldlRecOn (motive := SounderOnly h) xs _ (.refl h) fun t so _ _ => so.trans (sounderOnly_giveFlag _ _ t)

theorem sounderOnly_startTone (h : Hub) : SounderOnly h h.startTone := by
  unfold startTone
  split
  · exact sounderOnly_modSounder rfl
  all_goals exact .refl h

theorem sounderOnly_emptyChimes (h : Hub) : SounderOnly h h.emptyChimes :=
  (sounderOnly_giveChimesDone _ h).trans (sounderOnly_modSounder rfl)

theorem sounderOnly_sounderTakes (change : Bool) (h : Hub) : SounderOnly h (h.sounderTakes change) := by
  unfold sounderTakes
  split
  · exact .refl h
  · split
    · split
      · split
        · exact sounderOnly_startTone h
        · exact (sounderOnly_emptyChimes h).trans (sounderOnly_startTone _)
      · exact sounderOnly_modSounder rfl
    · exact .refl h

theorem sounderOnly_startChime (h : Hub) : SounderOnly h h.startChime := by
  unfold startChime
  split <;> exact sounderOnly_modSounder rfl

theorem sounderOnly_appendChime (c : Chime) (h : Hub) : SounderOnly h (h.appendChime c) := by
  have joined := sounderOnly_modSounder (h := h) (f := fun x => { x with queue := x.queue ++ [c] }) rfl
  unfold appendChime
  dsimp only
  split
  · exact joined.trans (sounderOnly_startChime _)
  · exact joined

theorem sounderOnly_retrigger (loudness : Nat) (length : ChimeLength) (h : Hub) :
    SounderOnly h (h.retrigger loudness length) := by
  unfold retrigger
  split
  · exact sounderOnly_modSounder rfl
  · exact .refl h

theorem sounderOnly_withdrawChimes (p : Port) (h : Hub) : SounderOnly h (h.withdrawChimes p) :=
  SounderOnly.trans (sounderOnly_modSounder (by rfl)) (sounderOnly_giveFlag p .chimeDone _)

theorem sounderOnly_playingEnds (h : Hub) : SounderOnly h h.playingEnds := by
  unfold playingEnds
  split
  · split
    · exact sounderOnly_modSounder rfl
    · exact (sounderOnly_modSounder rfl).trans (sounderOnly_giveFlag _ _ _)
  · exact .refl h

theorem sounderOnly_gapEnds (h : Hub) : SounderOnly h h.gapEnds := by
  unfold gapEnds
  split
  · exact sounderOnly_startChime h
  all_goals exact .refl h

theorem sounderOnly_freezeSounder (h : Hub) : SounderOnly h h.freezeSounder :=
  ((sounderOnly_emptyChimes h).trans (sounderOnly_modSounder rfl)).trans (sounderOnly_modSounder rfl)

theorem sounderOnly_thawSounder (h : Hub) : SounderOnly h h.thawSounder :=
  (sounderOnly_modSounder rfl).trans (sounderOnly_startTone _)

end

/-! ## The relays -/

/-- An operation of the relay unit: relays and dead timers have moved, flags are given. -/
structure RelaySide (h t : Hub) : Prop where
  rest : t = { h with ports := t.ports, relays := t.relays, dead := t.dead }
  told : Plain h { h with ports := t.ports }

section
variable {h t v : Hub}

theorem RelaySide.refl (h : Hub) : RelaySide h h := ⟨rfl, .refl h⟩

theorem RelaySide.trans (a : RelaySide h t) (b : RelaySide t v) : RelaySide h v where
  rest := by rw [b.rest, a.rest]
  told := a.told.trans (told_on b.told _ rfl)

theorem RelayOnly.relaySide (a : RelayOnly h t) : RelaySide h t where
  rest := by rw [a]
  told := by rw [a]; exact .refl h

theorem relaySide_giveFlagOn (p : Port) (f : Flag) (c : Fin 23) (h : Hub) : RelaySide h (h.giveFlagOn p f c) where
  rest := by unfold giveFlagOn; split <;> rfl
  told := (stepperOnly_giveFlagOn 0 p f c h).told

theorem relaySide_interlockNotice (before h : Hub) (r : Fin 12) : RelaySide h (interlockNotice before h r) := by
  unfold interlockNotice
  split
  · split
    · exact relaySide_giveFlagOn ..
    · exact .refl h
  · exact .refl h

theorem relaySide_foldl {α : Type} {f : Hub → α → Hub} (one : ∀ h a, RelaySide h (f h a)) (xs : List α) (h : Hub) :
    RelaySide h (xs.foldl f h) :=
  List.foldlRecOn (motive := RelaySide h) xs f (.refl h) fun t so a _ => so.trans (one t a)

theorem relaySide_contest (g : Fin 4) (h before : Hub) : RelaySide h (contest g h before) :=
  (relayOnly_contestPasses g 32 h).relaySide.trans (relaySide_foldl (relaySide_interlockNotice before) _ _)

theorem relaySide_relayTakes (r : Fin 12) (change : Bool) (h before : Hub) :
    RelaySide h (relayTakes r change h before) := by
  unfold relayTakes
  split
  · exact .refl h
  · split
    · exact relaySide_contest ..
    · split
      · exact (relayOnly_follow r h).relaySide
      · exact .refl h

theorem relaySide_endRun (r : Fin 12) (h : Hub) : RelaySide h (h.endRun r) := by
  have ended := (relayOnly_modRelay r (fun t => { t with mark := .expired }) h).relaySide
  unfold endRun
  dsimp only
  split
  · exact ended
  · split
    · exact ended.trans (relaySide_contest ..)
    · exact ended.trans (relayOnly_followExpiry r _).relaySide

theorem relaySide_relayRunExpires (r : Fin 12) (h : Hub) : RelaySide h (h.relayRunExpires r) := by
  unfold relayRunExpires
  split
  · exact relaySide_endRun r h
  · exact relaySide_endRun r h
  all_goals exact .refl h

theorem relaySide_deadTimerExpires (g : Fin 4) (h : Hub) : RelaySide h (h.deadTimerExpires g) := by
  have ended := (relayOnly_setDead g .expired h).relaySide
  unfold deadTimerExpires endDead
  dsimp only
  split
  · exact (relayOnly_setDead g _ h).relaySide
  · split
    · exact ended
    · split
      · exact ended.trans (relaySide_contest ..)
      · exact ended
  all_goals exact .refl h

/-- The thaw starts from the RUNNING relay unit. -/
theorem relaySide_thawRelays (h : Hub) : RelaySide { h with relayCond := .running } h.thawRelays :=
  (relaySide_foldl (fun x r => (relayOnly_follow r x).relaySide) _ _).trans
    (relaySide_foldl (fun x g => relaySide_contest g x h) _ _)

end
end Sys2Proof.Machine.Hub
end

section
/-! The edits of the claim pool and the settling of setpoints move the outputs by formings alone. -/

namespace Sys2Proof.Machine.Hub

/-- A step that leaves the outputs alone, or the forming of one channel. -/
inductive Forming (h : Hub) : Hub → Prop
  | calm {t : Hub} (same : Calm h t) : Forming h t
  | form (c : Fin 23) (cause : FormCause) : Forming h (h.form c cause)

abbrev Formings : Hub → Hub → Prop := Many Forming

section
variable {h t v : Hub}

theorem Formings.calm (same : Calm h t) : Formings h t := .single (.calm same)

/-- A forming of a channel of which only what the engine has not taken was changed. -/
theorem Formings.thenForm (before : Formings h t) (c : Fin 23) (cause : FormCause) : Formings h (t.form c cause) :=
  before.tail (.form c cause)

theorem formings_foldl {α : Type} {f : Hub → α → Hub} (one : ∀ h a, Formings h (f h a)) (xs : List α) (h : Hub) :
    Formings h (xs.foldl f h) :=
  List.foldlRecOn (motive := Formings h) xs f .refl fun t so a _ => so.trans (one t a)

theorem Calm.comp (b : Calm t v) (a : Calm h t) : Calm h v := a.trans b

theorem calm_foldl {α : Type} {f : Hub → α → Hub} (one : ∀ h a, Calm h (f h a)) (xs : List α) (h : Hub) :
    Calm h (xs.foldl f h) :=
  List.foldlRecOn (motive := Calm h) xs f (.refl h) fun t so a _ => so.trans (one t a)

theorem calm_modPort (p : Port) (f : PortUnit → PortUnit) (h : Hub) : Calm h (h.modPort p f) :=
  ⟨rfl, rfl, rfl, rfl, fun _ => ⟨rfl, rfl⟩, rfl, rfl, ⟨rfl, rfl, rfl⟩, rfl, fun _ => rfl⟩

/-- Channels may change but for what their engines have taken. -/
theorem calm_channels {channels : Vector Channel 23} (taken : ∀ c : Fin 23, channels[c].taken = (h.chan c).taken) :
    Calm h { h with channels := channels } :=
  ⟨rfl, rfl, rfl, rfl, fun _ => ⟨rfl, rfl⟩, rfl, rfl, ⟨rfl, rfl, rfl⟩, rfl, taken⟩

theorem calm_modChan {c : Fin 23} {f : Channel → Channel} (taken : (f (h.chan c)).taken = (h.chan c).taken) :
    Calm h (h.modChan c f) := by
  refine calm_channels fun k => ?_
  have there := chan_modChan c k f h
  rw [show (h.channels.set c (f (h.chan c)))[k] = (h.modChan c f).chan k from rfl, there]
  split
  · next same => subst same; exact taken
  · rfl

theorem calm_resolve (c : Fin 23) (o : HandoverOutcome) (q d : Port) (h : Hub) : Calm h (h.resolve c o q d) :=
  ((plain_giveFlagOn q .handoverDone c _).toCalm.comp (calm_modPort d _ _)).comp (calm_modChan rfl)

theorem calm_settleByDefault (c : Fin 23) (q d : Port) (h : Hub) : Calm h (h.settleByDefault c q d) := by
  unfold settleByDefault
  dsimp only
  split
  · exact (calm_resolve ..).comp (calm_modChan rfl)
  · exact calm_resolve ..

theorem calm_settleEdit (c : Fin 23) (p : Port) (kind : EditKind) (h : Hub) : Calm h (h.settleEdit c p kind) := by
  unfold settleEdit
  split
  · exact .refl h
  · split
    · split
      · exact calm_resolve ..
      · exact calm_settleByDefault ..
      · exact calm_resolve ..
      · exact .refl h
      · exact .refl h
    · split
      · split
        · exact calm_resolve ..
        · exact calm_resolve ..
        · exact calm_resolve ..
        · exact .refl h
        · exact .refl h
      · exact .refl h

theorem formings_editClaims (c : Fin 23) (p : Port) (kind : EditKind) (edit : List Claim → List Claim) (h : Hub) :
    Formings h (h.editClaims c p kind edit) :=
  (Formings.calm ((calm_settleEdit c p kind _).comp (calm_modChan rfl))).thenForm c .edit

theorem formings_removeClaims (p : Port) (h : Hub) : Formings h (h.removeClaims p) :=
  formings_foldl (f := removeClaim p) (fun h c => formings_editClaims c p .removed _ h) _ h

theorem formings_lapseClaims (p : Port) (h : Hub) : Formings h (h.lapseClaims p) := by
  refine formings_foldl (f := lapseClaim p) (fun h c => ?_) _ h
  unfold lapseClaim
  split
  · exact .refl
  · split
    · exact formings_editClaims ..
    · exact formings_editClaims ..

theorem calm_setTenancy (p : Port) (x : Tenancy) (h : Hub) : Calm h (h.setTenancy p x) := calm_modPort ..

theorem calm_clearPort (p : Port) (mask : BitVec 14) (h : Hub) : Calm h (h.clearPort p mask) := calm_modPort ..

theorem calm_attachPort (p : Port) (h : Hub) : Calm h (h.attachPort p) :=
  (calm_clearPort ..).comp (calm_setTenancy p _ h)

theorem calm_adoptClaims (p : Port) (h : Hub) : Calm h (h.adoptClaims p) :=
  calm_channels fun c => by simp [chan]

theorem formings_clearClaims (c : Fin 23) (limit : Nat) (h : Hub) : Formings h (h.clearClaims c limit) := by
  unfold clearClaims
  split
  · exact .refl
  · have settled (xs : List Claim) (m : Hub) : Calm m (xs.foldl (fun x y => x.settleEdit c y.port .removed) m) :=
      calm_foldl (fun x y => calm_settleEdit c y.port .removed x) xs m
    exact (Formings.calm ((settled _ _).comp (calm_modChan rfl))).thenForm c .edit

theorem formings_concludeHandover (grants : Bool) (c : Fin 23) (o : HandoverOutcome) (q d : Port) (h : Hub) :
    Formings h (h.concludeHandover grants c o q d) := by
  refine Many.tail ?_ (.calm (calm_resolve c o q d _))
  split
  · exact (Formings.calm (calm_modChan rfl)).thenForm c .edit
  · exact .refl

/-- An edit of the claim pool moves the outputs by formings alone. -/
theorem formings_of_claimMove (edit : ClaimMove h t) : Formings h t := by
  cases edit with
  | attach p => exact Formings.calm (calm_attachPort p h)
  | adopt p => exact Formings.calm ((calm_attachPort p _).comp (calm_adoptClaims p h))
  | leave p =>
    exact .tail (.head (.calm (calm_setTenancy p _ h)) (formings_removeClaims p _)) (.calm (calm_clearPort p _ _))
  | lapse p => exact .head (.calm (calm_setTenancy p _ h)) (formings_lapseClaims p _)
  | remove p c => exact formings_editClaims ..
  | place p c => exact formings_editClaims ..
  | replace p c => exact formings_editClaims ..
  | clear c limit => exact formings_clearClaims c limit h
  | ask p c own w =>
    have asked (m : Hub) : Calm m (m.giveAsked w.port c) := by
      unfold giveAsked
      exact (calm_modPort ..).comp (plain_giveFlag ..).toCalm
    exact Formings.calm ((asked _).comp (calm_modChan rfl))
  | atOnce grants c o p own w => exact formings_concludeHandover ..
  | conclude grants c o w => exact formings_concludeHandover ..

theorem formings_formLayer (h : Hub) (c : Fin 23) : Formings h (h.formLayer c) := by
  unfold formLayer
  dsimp only
  split
  · exact .refl
  · exact (Formings.calm (calm_modChan rfl)).thenForm c _

theorem formings_settleSetpoints (h before : Hub) (also : List (Fin 21)) :
    Formings h (h.settleSetpoints before also) := by
  have passed := formings_foldl formings_formLayer (channelsTouched before h also) h
  unfold settleSetpoints
  dsimp only
  split
  · exact passed.tail (.calm (plain_giveAll ..).toCalm)
  · exact passed

/-- What a calm step and a forming keep, a sequence of them keeps. -/
theorem Formings.keeps {good : Hub → Prop} (calm : ∀ h t, good h → Calm h t → good t)
    (form : ∀ h c cause, good h → good (h.form c cause)) (made : Formings h t) (holds : good h) : good t := by
  induction made with
  | refl => exact holds
  | tail _ last ih =>
    cases last with
    | calm same => exact calm _ _ ih same
    | form c cause => exact form _ c cause ih

/-- A forming in parts: the notices and the new record, then the hand-over. -/
theorem form_calm (c : Fin 23) (cause : FormCause) (h : Hub) :
    ∃ m pair, Calm h m ∧ h.form c cause = m.passOn c pair := by
  have told : Calm h (h.winnerNotices c) := by
    unfold winnerNotices
    split
    · exact .refl h
    · exact (plain_giveFlagOn ..).toCalm
    · exact (plain_giveFlagOn ..).toCalm
    · split
      · exact .refl h
      · exact ((plain_giveFlagOn ..).toCalm).comp (plain_giveFlagOn ..).toCalm
  exact ⟨_, _, Calm.comp (calm_modChan rfl) told, rfl⟩

/-- What calm steps and a hand-over keep, a forming keeps. -/
theorem form_keeps {good : Hub → Prop} (calm : ∀ h t, good h → Calm h t → good t)
    (handOver : ∀ h c pair, good h → h.mode = .run → good (h.handOver c pair)) {h : Hub} (holds : good h) (c : Fin 23)
    (cause : FormCause) : good (h.form c cause) := by
  obtain ⟨m, pair, same, parts⟩ := form_calm c cause h
  have ready := calm h m holds same
  rw [parts]
  unfold passOn
  split
  · next run =>
    split
    · exact ready
    · exact handOver m c pair ready run
  · exact calm _ _ ready (calm_modChan rfl)

end
end Sys2Proof.Machine.Hub
end

section
/-! Sound and light (R131, R138, R140, R144): the chime queue and its engine, the lamps and the mute mark stand after every
step. -/

namespace Sys2Proof.Machine

/-! ## What a lamp shows -/

theorem lampDrive_congr {flash : Option Nat} {x y : Option Pair} (same : x.map (·.command) = y.map (·.command)) :
    lampDrive flash x = lampDrive flash y := by
  cases x <;> cases y <;> simp_all [lampDrive]

theorem lampDrive_halves {f g : Option Nat} (slow : slowLit f = slowLit g) (fast : fastLit f = fastLit g)
    (x : Option Pair) : lampDrive f x = lampDrive g x := by
  unfold lampDrive
  rw [slow, fast]

/-- A unit short of a boundary stays within the eighth of the flash round it is in. -/
theorem eighth_tickFlash (n : Nat) : tickFlash n / Config.flashBoundary = n / Config.flashBoundary := by
  unfold tickFlash atBoundary
  split
  · rfl
  · next short =>
    have pos : 0 < Config.flashBoundary := by decide
    have short : (n + 1) % Config.flashBoundary ≠ 0 := by simpa using short
    exact Nat.succ_div_of_mod_ne_zero short

theorem slowLit_eighth (n : Nat) : slowLit (some n) = decide (n / Config.flashBoundary < 4) := by
  have eighth : Config.ms 500 = 4 * Config.flashBoundary := by decide
  rw [slowLit, Option.getD_some, eighth, decide_eq_decide, Nat.div_lt_iff_lt_mul (by decide)]

theorem fastLit_eighth (n : Nat) : fastLit (some n) = decide (n / Config.flashBoundary % 2 < 1) := by
  have quarter : Config.ms 250 = Config.flashBoundary * 2 := by decide
  have eighth : Config.ms 125 = 1 * Config.flashBoundary := by decide
  rw [fastLit, Option.getD_some, quarter, eighth, decide_eq_decide, ← Nat.div_lt_iff_lt_mul (by decide),
    ← Nat.mod_mul_right_div_self]

theorem lampDrive_tick (flash : Option Nat) (x : Option Pair) : lampDrive (flash.map tickFlash) x = lampDrive flash x := by
  cases flash with
  | none => rfl
  | some n =>
    refine lampDrive_halves ?_ ?_ x
    · rw [Option.map_some, slowLit_eighth, slowLit_eighth, eighth_tickFlash]
    · rw [Option.map_some, fastLit_eighth, fastLit_eighth, eighth_tickFlash]

namespace Hub

/-- The queue, the lamps and the mute mark stand. -/
def SoundAndLight (h : Hub) : Prop := h.ChimesStand ∧ h.SightAndSoundStand

section
variable {h t : Hub}

theorem ChimesStand.of_sounder (stands : h.ChimesStand) (queue : t.sounder.queue = h.sounder.queue)
    (engine : t.sounder.engine = h.sounder.engine) : t.ChimesStand :=
  ⟨by rw [queue]; exact stands.size, by rw [queue, engine]; exact stands.ready⟩

theorem muteValue_of_steppers (steppers : t.steppers = h.steppers) (soundMotion : t.work.soundMotion = h.work.soundMotion) :
    t.muteValue = h.muteValue := by
  unfold muteValue stepper
  rw [steppers, soundMotion]

/-- Nothing seen or heard has changed. -/
structure Alike (h t : Hub) : Prop where
  queue : t.sounder.queue = h.sounder.queue
  engine : t.sounder.engine = h.sounder.engine
  mute : t.sounder.mute = h.sounder.mute
  value : t.muteValue = h.muteValue
  lamps : t.lamps = h.lamps
  flash : t.flash = h.flash
  commands : ∀ l, (t.chan (lampChannel l)).taken.map (·.command) = (h.chan (lampChannel l)).taken.map (·.command)

theorem Alike.keeps (a : Alike h t) (stands : h.SoundAndLight) : t.SoundAndLight := by
  refine ⟨stands.1.of_sounder a.queue a.engine, fun l => ?_, ?_⟩
  · rw [lamp, a.lamps, a.flash, lampDrive_congr (a.commands l)]
    exact stands.2.lamps l
  · rw [a.mute, a.value]
    exact stands.2.mute

theorem Calm.alike (a : Calm h t) : Alike h t where
  queue := a.sounder.1
  engine := a.sounder.2.1
  mute := a.sounder.2.2
  value := muteValue_of_steppers a.steppers (by rw [a.work])
  lamps := a.lamps
  flash := a.flash
  commands l := by rw [a.taken]

theorem RelaySide.alike (a : RelaySide h t) : Alike h t := by
  rw [a.rest]
  exact ⟨rfl, rfl, rfl, rfl, rfl, rfl, fun _ => rfl⟩

theorem soundAndLight_of_stepperOnly {u : Fin 2} (a : StepperOnly u h t) (stands : h.SoundAndLight) :
    t.SoundAndLight := by
  refine ⟨stands.1.of_sounder (by rw [a.rest]) (by rw [a.rest]), fun l => ?_, a.mute stands.2.mute⟩
  rw [a.rest]
  exact stands.2.lamps l

theorem soundAndLight_of_sounderOnly (a : SounderOnly h t) (chimes : t.ChimesStand) (stands : h.SoundAndLight) :
    t.SoundAndLight := by
  refine ⟨chimes, fun l => ?_, a.mute.trans ?_⟩
  · rw [a.rest]
    exact stands.2.lamps l
  · rw [a.rest]
    exact stands.2.mute

/-! ## The chimes, operation by operation -/

theorem giveFlag_sounder (p : Port) (f : Flag) (h : Hub) : (h.giveFlag p f).sounder = h.sounder := by
  unfold giveFlag
  split <;> rfl

theorem giveChimesDone_sounder (xs : List Chime) (h : Hub) : (h.giveChimesDone xs).sounder = h.sounder :=
  List.foldlRecOn (motive := fun t => t.sounder = h.sounder) xs _ rfl fun t so _ _ => (giveFlag_sounder _ _ t).trans so

theorem chimes_emptyChimes (h : Hub) : h.emptyChimes.ChimesStand :=
  ⟨Nat.zero_le _, iff_of_true rfl rfl⟩

theorem chimes_startTone (stands : h.ChimesStand) : h.startTone.ChimesStand :=
  stands.of_sounder (plain_startTone h).sounder.1 (plain_startTone h).sounder.2.1

theorem chimes_sounderTakes (change : Bool) (stands : h.ChimesStand) : (h.sounderTakes change).ChimesStand := by
  unfold sounderTakes
  split
  · exact stands
  · split
    · split
      · split
        · exact chimes_startTone stands
        · exact chimes_startTone (chimes_emptyChimes h)
      · exact stands.of_sounder rfl rfl
    · exact stands

theorem startChime_sounder (h : Hub) : h.startChime.sounder.queue = h.sounder.queue ∧
    (h.startChime.sounder.engine = .ready ↔ h.sounder.queue = []) := by
  unfold startChime
  split
  · next first =>
    refine ⟨rfl, iff_of_false (by simp) fun empty => ?_⟩
    rw [empty] at first
    cases first
  · next none => exact ⟨rfl, iff_of_true rfl (by simpa using none)⟩

theorem chimes_startChime (size : h.sounder.queue.length ≤ Config.chimeQueueSize) : h.startChime.ChimesStand := by
  obtain ⟨queue, ready⟩ := startChime_sounder h
  exact ⟨by rwa [queue], by rw [queue, ready]⟩

theorem chimes_appendChime (c : Chime) (room : h.sounder.queue.length < Config.chimeQueueSize) :
    (h.appendChime c).ChimesStand := by
  have size : (h.sounder.queue ++ [c]).length ≤ Config.chimeQueueSize := by
    rw [List.length_append]
    exact room
  unfold appendChime
  dsimp only
  split
  · exact chimes_startChime size
  · next busy => exact ⟨size, iff_of_false (by simpa using busy) (by simp)⟩

theorem chimes_retrigger (loudness : Nat) (length : ChimeLength) (stands : h.ChimesStand) :
    (h.retrigger loudness length).ChimesStand := by
  unfold retrigger
  split
  · next queue =>
    have size := stands.size
    rw [queue] at size
    exact ⟨size, iff_of_false (by simp) (by simp)⟩
  · exact stands

theorem chimes_withdrawChimes (p : Port) (stands : h.ChimesStand) : (h.withdrawChimes p).ChimesStand := by
  have size : (h.sounder.queue.filter fun c => c.port != p).length ≤ Config.chimeQueueSize :=
    Nat.le_trans (List.length_filter_le ..) stands.size
  unfold withdrawChimes
  dsimp only
  refine ⟨by rw [giveFlag_sounder]; exact size, ?_⟩
  rw [giveFlag_sounder, modSounder_sounder]
  dsimp only
  split
  · next ready => simp [stands.ready.mp ready]
  · next playing =>
    split
    · split
      · next none => exact iff_of_true rfl (by simpa using none)
      · next some => exact iff_of_false (by simp) (by simpa using some)
    · next other =>
      have busy : h.sounder.queue ≠ [] := fun empty => by simp [stands.ready.mpr empty] at playing
      obtain ⟨c, rest, queue⟩ := List.exists_cons_of_ne_nil busy
      rw [queue] at other ⊢
      have mine : c.port ≠ p := by simpa using other
      simp [mine]
  · split
    · next none => exact iff_of_true rfl (by simpa using none)
    · next some => exact iff_of_false (by simp) (by simpa using some)

theorem chimes_playingEnds (stands : h.ChimesStand) : h.playingEnds.ChimesStand := by
  unfold playingEnds
  split
  · next c rest playing queue =>
    split
    · exact stands.of_sounder rfl rfl
    · have size := stands.size
      rw [queue, List.length_cons] at size
      refine ⟨by rw [giveFlag_sounder]; exact Nat.le_of_succ_le size, ?_⟩
      rw [giveFlag_sounder, modSounder_sounder]
      dsimp only
      split
      · next none => exact iff_of_true rfl (by simpa using none)
      · next some => exact iff_of_false (by simp) (by simpa using some)
  · exact stands

theorem chimes_gapEnds (stands : h.ChimesStand) : h.gapEnds.ChimesStand := by
  unfold gapEnds
  split
  · exact chimes_startChime stands.size
  all_goals exact stands

/-! ## The hand-over of a command -/

theorem soundAndLight_showLamps (flash : Option Nat) (stands : h.SoundAndLight) :
    (showLamps { h with flash := flash }).SoundAndLight :=
  ⟨stands.1.of_sounder rfl rfl, fun l => lamp_showLamps _ l, stands.2.mute⟩

/-- A lamp whose taken command changed is shown anew. -/
theorem soundAndLight_showLamp {l : Fin 8} {pair : Pair} (stands : h.SoundAndLight) :
    (showLamp l (h.modChan (lampChannel l) fun x => { x with taken := some pair })).SoundAndLight := by
  refine ⟨stands.1.of_sounder rfl rfl, fun k => ?_, stands.2.mute⟩
  rw [showLamp, lamp_setLamp, setLamp_chan, setLamp_flash, chan_modChan, chan_modChan]
  by_cases same : l = k
  · subst same
    rw [if_pos rfl]
  · have apart : lampChannel l ≠ lampChannel k := fun e => same (by simpa [lampChannel, Fin.ext_iff] using e)
    rw [if_neg same, if_neg apart]
    exact stands.2.lamps k

theorem alike_taken {c : Fin 23} {pair : Pair}
    (same : ∀ l, c = lampChannel l → (h.chan c).taken.map (·.command) = some pair.command) :
    Alike h (h.modChan c fun x => { x with taken := some pair }) := by
  refine ⟨rfl, rfl, rfl, rfl, rfl, rfl, fun l => ?_⟩
  rw [chan_modChan]
  split
  · next here => exact here ▸ (same l here).symm
  · rfl

theorem soundAndLight_handOverAs (c : Fin 23) {change : Bool} {pair : Pair}
    (changed : change = false → (h.chan c).taken.map (·.command) = some pair.command) (stands : h.SoundAndLight) :
    (h.handOverAs c change pair).SoundAndLight := by
  unfold handOverAs
  dsimp only
  rcases outputOf_cases c with ⟨r, out, rfl⟩ | ⟨l, out, rfl⟩ | ⟨out, rfl⟩ | ⟨u, out, rfl⟩ <;> rw [out]
  · have apart : ∀ q l, relayChannel q ≠ lampChannel l := by decide
    exact (relaySide_relayTakes r change _ h).alike.keeps ((alike_taken fun l e => absurd e (apart r l)).keeps stands)
  · dsimp only
    split
    · exact soundAndLight_showLamp stands
    · next still => exact (alike_taken fun _ _ => changed (by simpa using still)).keeps stands
  · have apart : ∀ l, soundChannel ≠ lampChannel l := by decide
    have taken := (alike_taken (h := h) (pair := pair) fun l e => absurd e (apart l)).keeps stands
    exact soundAndLight_of_sounderOnly (sounderOnly_sounderTakes change _) (chimes_sounderTakes change taken.1) taken
  · have apart : ∀ v l, stepperChannel v ≠ lampChannel l := by decide
    exact soundAndLight_of_stepperOnly (stepperOnly_stepperTakes u _ change)
      ((alike_taken fun l e => absurd e (apart u l)).keeps stands)

theorem soundAndLight_handOver (c : Fin 23) (pair : Pair) (stands : h.SoundAndLight) :
    (h.handOver c pair).SoundAndLight :=
  soundAndLight_handOverAs c (fun still => by simpa [isCommandChange] using still) stands

theorem soundAndLight_of_calm (h t : Hub) (stands : h.SoundAndLight) (same : Calm h t) : t.SoundAndLight :=
  same.alike.keeps stands

theorem soundAndLight_form (h : Hub) (c : Fin 23) (cause : FormCause) (stands : h.SoundAndLight) :
    (h.form c cause).SoundAndLight :=
  form_keeps soundAndLight_of_calm (fun _ c pair holds _ => soundAndLight_handOver c pair holds) stands c cause

theorem soundAndLight_formings (made : Formings h t) (stands : h.SoundAndLight) : t.SoundAndLight :=
  made.keeps soundAndLight_of_calm soundAndLight_form stands

/-! ## The moves -/

theorem soundAndLight_foldl {α : Type} {f : Hub → α → Hub} (one : ∀ h a, h.SoundAndLight → (f h a).SoundAndLight)
    (xs : List α) (stands : h.SoundAndLight) : (xs.foldl f h).SoundAndLight :=
  List.foldlRecOn (motive := SoundAndLight) xs f stands fun t so a _ => one t a so

theorem soundAndLight_handWaiting (everyChannel : Bool) (h : Hub) (c : Fin 23) (stands : h.SoundAndLight) :
    (h.handWaiting everyChannel c).SoundAndLight := by
  unfold handWaiting
  split
  · exact (Calm.alike (calm_modChan rfl)).keeps (soundAndLight_handOverAs c (by simp) stands)
  · split
    · exact (Calm.alike (calm_modChan rfl)).keeps (soundAndLight_handOver c _ stands)
    · exact stands

/-- A change of mode alone is not seen. -/
theorem alike_mode (mode : HubMode) (h : Hub) : Alike h { h with mode := mode } :=
  ⟨rfl, rfl, rfl, rfl, rfl, rfl, fun _ => rfl⟩

theorem soundAndLight_thaw (changed : Fin 2 → Bool) (stands : h.SoundAndLight) : (h.thaw changed).SoundAndLight := by
  have running : Alike h { h with relayCond := .running } := ⟨rfl, rfl, rfl, rfl, rfl, rfl, fun _ => rfl⟩
  have relays := (relaySide_thawRelays h).alike.keeps (running.keeps stands)
  have chimes : h.thawRelays.thawSounder.ChimesStand := chimes_startTone (relays.1.of_sounder rfl rfl)
  have sounds := soundAndLight_of_sounderOnly (sounderOnly_thawSounder _) chimes relays
  exact soundAndLight_of_stepperOnly (stepperOnly_thawUnit 1 _ _)
    (soundAndLight_of_stepperOnly (stepperOnly_thawUnit 0 _ _) sounds)

theorem soundAndLight_enterRun (stands : h.SoundAndLight) : h.enterRun.SoundAndLight := by
  have handed := soundAndLight_foldl (soundAndLight_handWaiting h.starting) (List.finRange 23)
    ((alike_mode .run h).keeps stands)
  have thawed := soundAndLight_thaw (h.waitingChange h.starting) handed
  unfold enterRun
  dsimp only
  split
  · exact soundAndLight_of_stepperOnly (stepperOnly_autoReference 1 _)
      (soundAndLight_of_stepperOnly (stepperOnly_autoReference 0 _) thawed)
  · exact thawed

theorem soundAndLight_checkHeld (stands : h.SoundAndLight) : h.checkHeld.SoundAndLight := by
  unfold checkHeld
  split
  · exact (plain_giveAll ..).alike.keeps ((alike_mode .held h).keeps stands)
  · exact stands

theorem soundAndLight_enterHolding (stands : h.SoundAndLight) : h.enterHolding.SoundAndLight := by
  have frozen : Alike h (freezeRelays { h with mode := .holding }) := ⟨rfl, rfl, rfl, rfl, rfl, rfl, fun _ => rfl⟩
  have silent (m : Hub) : m.freezeSounder.ChimesStand := (chimes_emptyChimes m).of_sounder rfl rfl
  have quiet := soundAndLight_of_sounderOnly (sounderOnly_freezeSounder _) (silent _) (frozen.keeps stands)
  exact soundAndLight_checkHeld (soundAndLight_of_stepperOnly (stepperOnly_drainUnit 1 _)
    (soundAndLight_of_stepperOnly (stepperOnly_drainUnit 0 _) quiet))

/-- The working copies may change where the mute mark is refreshed or does not depend on them. -/
theorem alike_modWork {f : Blocks → Blocks} (same : (f h.work).soundMotion = h.work.soundMotion) :
    Alike h (h.modWork f) :=
  ⟨rfl, rfl, rfl, muteValue_of_steppers rfl same, rfl, rfl, fun _ => rfl⟩

theorem soundAndLight_refreshMute (stands : h.SoundAndLight) (f : Blocks → Blocks) :
    (refreshMute (h.modWork f)).SoundAndLight :=
  ⟨stands.1.of_sounder rfl rfl, stands.2.lamps, rfl⟩

theorem alike_setpointChanged {n : Fin 16} {x : SetpointItem} (stands : h.SoundAndLight) :
    ((h.modSetpointItem n fun _ => x).setpointChanged n h).SoundAndLight := by
  have written : Alike h (h.modSetpointItem n fun _ => x) := alike_modWork rfl
  exact soundAndLight_formings (formings_settleSetpoints _ _ _)
    ((quiet_setSetpoint n _ _).alike.keeps (written.keeps stands))

theorem alike_writeMembers (g : Fin 4) (x : BitVec 12) (h : Hub) : Alike h (h.writeMembers g x) := by
  have written : Alike h (h.modGroupItem g fun i => { i with members := x }) := alike_modWork rfl
  unfold writeMembers
  dsimp only
  split
  · exact { written with }
  · exact { written with }

theorem chan_resetChannels (h : Hub) (c : Fin 23) : h.resetChannels.chan c = h.channelAfterReset c := by
  simp [chan, resetChannels]

/-- The part as it stands in a reset when its ports and channels are reset. -/
def stoppedForReset (cause : ResetCause) (h : Hub) : Hub :=
  (((resetController cause h.abandonWrite).resetUnit 0 (cause == .software)).resetUnit 1 (cause == .software)).resetPorts

theorem chan_hubReset (cause : ResetCause) (h : Hub) (c : Fin 23) :
    (h.hubReset cause).chan c = (h.stoppedForReset cause).channelAfterReset c :=
  chan_resetChannels (h.stoppedForReset cause) c

theorem soundAndLight_hubReset (cause : ResetCause) (h : Hub) : (h.hubReset cause).SoundAndLight := by
  refine ⟨⟨Nat.zero_le _, iff_of_true rfl rfl⟩, fun l => ?_, rfl⟩
  have dark : (h.hubReset cause).lamp l = .dark := Vector.getElem_replicate ..
  rw [dark, chan_hubReset]
  rfl

/-- The blocks have been loaded, and faults recorded, and nothing else of the part has changed. -/
def LoadOnly (h m : Hub) : Prop :=
  m = { h with work := m.work, marks := m.marks, faults := m.faults, firstFault := m.firstFault }

theorem loadOnly_loadBlock (storeAnswers : Bool) (h : Hub) (b : Block) : LoadOnly h (h.loadBlock storeAnswers b) := by
  unfold loadBlock
  split <;> rfl

theorem loadOnly_foldl {α : Type} {f : Hub → α → Hub} (one : ∀ h a, LoadOnly h (f h a)) (xs : List α) (h : Hub) :
    LoadOnly h (xs.foldl f h) :=
  List.foldlRecOn (motive := LoadOnly h) xs f rfl fun t so a _ => by
    have more := one t a
    unfold LoadOnly at *
    rw [more, so]

/-- The part as the load's results find it, before the mute mark is refreshed. -/
def loadedBlocks (storeAnswers : Bool) (h : Hub) : Hub :=
  (h.faultsFound storeAnswers).foldl recordFault (Block.all.foldl (loadBlock storeAnswers) h)

theorem loadOnly_loadedBlocks (storeAnswers : Bool) (h : Hub) : LoadOnly h (h.loadedBlocks storeAnswers) := by
  have blocks := loadOnly_foldl (loadOnly_loadBlock storeAnswers) Block.all h
  have faults := loadOnly_foldl (f := recordFault) (fun _ _ => rfl) (h.faultsFound storeAnswers)
    (Block.all.foldl (loadBlock storeAnswers) h)
  unfold LoadOnly loadedBlocks at *
  rw [faults, blocks]

theorem loadResults_eq (storeAnswers : Bool) (h : Hub) :
    h.loadResults storeAnswers = refreshMute (h.loadedBlocks storeAnswers) := rfl

theorem soundAndLight_loadResults (storeAnswers : Bool) (stands : h.SoundAndLight) :
    (h.loadResults storeAnswers).SoundAndLight := by
  rw [loadResults_eq, loadOnly_loadedBlocks storeAnswers h]
  exact ⟨stands.1.of_sounder rfl rfl, stands.2.lamps, rfl⟩

theorem soundAndLight_endLoad (storeAnswers : Bool) (stands : h.SoundAndLight) :
    (h.endLoad storeAnswers).SoundAndLight := by
  have runs (m : Hub) : Alike m m.readRelayRuns := ⟨rfl, rfl, rfl, rfl, rfl, rfl, fun _ => rfl⟩
  have loaded := (runs _).keeps (soundAndLight_loadResults storeAnswers stands)
  have compared := soundAndLight_of_stepperOnly (stepperOnly_checkReference 1 _)
    (soundAndLight_of_stepperOnly (stepperOnly_checkReference 0 _) loaded)
  have pass (m : Hub) (c : Fin 23) (holds : m.SoundAndLight) : (m.passLoaded c).SoundAndLight :=
    soundAndLight_form _ c .load ((Calm.alike (calm_modChan rfl)).keeps holds)
  have lit := soundAndLight_showLamps (some 0) (soundAndLight_foldl pass (List.finRange 23) compared)
  unfold endLoad
  dsimp only
  split
  · exact (alike_mode .faultHold _).keeps lit
  · exact soundAndLight_enterRun lit

theorem stepperMutes_tick (t : Stepper) : stepperMutes { t with engine := tickEngine t.engine } = stepperMutes t := by
  unfold stepperMutes tickEngine
  cases t.engine <;> rfl

theorem stepper_countDown (h : Hub) (u : Fin 2) :
    h.countDown.stepper u = { h.stepper u with engine := tickEngine (h.stepper u).engine } := by
  simp [countDown, stepper]

theorem chan_countDown (h : Hub) (c : Fin 23) :
    h.countDown.chan c = { h.chan c with
      handover := { (h.chan c).handover with pending := (h.chan c).handover.pending.map tickHandover } } := by
  simp [countDown, chan]

theorem soundAndLight_countDown (stands : h.SoundAndLight) : h.countDown.SoundAndLight := by
  refine ⟨⟨stands.1.size, ?_⟩, fun l => ?_, ?_⟩
  · rw [show h.countDown.sounder.queue = h.sounder.queue from rfl, ← stands.1.ready,
      show h.countDown.sounder.engine = tickChime h.sounder.engine from rfl]
    unfold tickChime
    cases h.sounder.engine <;> simp
  · rw [chan_countDown, show h.countDown.flash = h.flash.map tickFlash from rfl, lampDrive_tick]
    exact stands.2.lamps l
  · have value : h.countDown.muteValue = h.muteValue := by
      unfold muteValue
      rw [stepper_countDown, stepper_countDown, stepperMutes_tick, stepperMutes_tick]
      rfl
    rw [value]
    exact stands.2.mute

theorem soundAndLight_move (h t : Hub) (stands : h.SoundAndLight) (move : Move h t) : t.SoundAndLight := by
  cases move with
  | plain same => exact same.alike.keeps stands
  | claims edit => exact soundAndLight_formings (formings_of_claimMove edit) stands
  | form c => exact soundAndLight_form h c .edit stands
  | settle wrote => exact soundAndLight_formings (formings_settleSetpoints _ _ _) (wrote.alike.keeps stands)
  | tune f tuned => exact (alike_modWork tuned.soundMotion).keeps stands
  | fallback c x =>
    have written : Alike h (h.setFallback c x) := alike_modWork rfl
    exact soundAndLight_formings (formings_formLayer _ c) (written.keeps stands)
  | soundMotion x => exact soundAndLight_refreshMute stands _
  | travel u x =>
    have written : Alike h (h.modStepperItem u fun i => { i with travel := x }) := alike_modWork rfl
    exact written.keeps stands
  | rate u x =>
    have written : Alike h (h.modStepperItem u fun i => { i with refRate := x }) := alike_modWork rfl
    exact soundAndLight_form _ _ _ (written.keeps stands)
  | members g v => exact (alike_writeMembers g _ h).keeps stands
  | setpoint n x => exact alike_setpointChanged stands
  | store b =>
    have stored : Alike h { h with stored := Blocks.copyBlock b h.work h.stored } :=
      ⟨rfl, rfl, rfl, rfl, rfl, rfl, fun _ => rfl⟩
    exact stored.keeps stands
  | hold => exact soundAndLight_enterHolding stands
  | held => exact soundAndLight_checkHeld stands
  | run => exact soundAndLight_enterRun stands
  | reset cause => exact soundAndLight_hubReset cause h
  | load storeAnswers => exact soundAndLight_endLoad storeAnswers stands
  | append c room => exact soundAndLight_of_sounderOnly (sounderOnly_appendChime c h) (chimes_appendChime c room) stands
  | retrigger loudness length =>
    exact soundAndLight_of_sounderOnly (sounderOnly_retrigger loudness length h)
      (chimes_retrigger loudness length stands.1) stands
  | withdraw p =>
    exact soundAndLight_of_sounderOnly (sounderOnly_withdrawChimes p h) (chimes_withdrawChimes p stands.1) stands
  | playingEnds => exact soundAndLight_of_sounderOnly (sounderOnly_playingEnds h) (chimes_playingEnds stands.1) stands
  | gapEnds => exact soundAndLight_of_sounderOnly (sounderOnly_gapEnds h) (chimes_gapEnds stands.1) stands
  | flash =>
    unfold flashBoundaryPasses
    split
    · exact soundAndLight_showLamps _ stands
    · exact stands
  | runExpires r => exact (relaySide_relayRunExpires r h).alike.keeps stands
  | deadExpires g => exact (relaySide_deadTimerExpires g h).alike.keeps stands
  | reference u => exact soundAndLight_of_stepperOnly (stepperOnly_takeReference u h) stands
  | stepCompletes u => exact soundAndLight_of_stepperOnly (stepperOnly_stepCompletes u h) stands
  | referencingStepCompletes u => exact soundAndLight_of_stepperOnly (stepperOnly_referencingStepCompletes u h) stands
  | pauseEnds u => exact soundAndLight_of_stepperOnly (stepperOnly_pauseEnds u h) stands
  | released u => exact soundAndLight_of_stepperOnly (stepperOnly_unitReleased u h) stands
  | pass => exact soundAndLight_countDown stands

end
end Hub

/-- Settles O57: move by move. -/
theorem stepsKeepSoundAndLight : Obligations.StepsKeepSoundAndLight := Hub.keptByStep_of_moves Hub.soundAndLight_move

end Sys2Proof.Machine
end

section
/-! The interlock (R93, R97, R103, R106): after every step never two members of a group are physically ON at once, and each
relay's engine state gives its output. -/

namespace Sys2Proof.Machine.Hub

/-- What the operations of a RUNNING relay unit rest on and keep. -/
structure Interlocked (h : Hub) : Prop where
  oneOn : ∀ (g : Fin 4) (q r : Fin 12), h.namesRelay g q = true → h.namesRelay g r = true →
    (h.relay q).output = true → (h.relay r).output = true → q = r
  apart : GroupsApart h.work
  outputs : ∀ r, (h.relay r).output = true ↔ ((h.relay r).state = .on ∨ (h.relay r).state = .waitMinOn)

section
variable {h t : Hub}

/-- Relays show the same, and groups have the same members. -/
structure RelaysAlike (h t : Hub) : Prop where
  relays : ∀ r, (t.relay r).state = (h.relay r).state ∧ (t.relay r).output = (h.relay r).output
  members : ∀ g : Fin 4, t.work.groups[g].members = h.work.groups[g].members

theorem RelaysAlike.namesRelay (a : RelaysAlike h t) (g : Fin 4) (r : Fin 12) : t.namesRelay g r = h.namesRelay g r := by
  unfold Hub.namesRelay
  rw [a.members]

theorem Interlocked.alike (holds : h.Interlocked) (a : RelaysAlike h t) : t.Interlocked where
  oneOn g q r nq nr oq or_ := by
    rw [a.namesRelay] at nq nr
    rw [(a.relays _).2] at oq or_
    exact holds.oneOn g q r nq nr oq or_
  apart := by
    intro g k other r
    rw [a.members, a.members]
    exact holds.apart g k other r
  outputs r := by
    rw [(a.relays r).1, (a.relays r).2]
    exact holds.outputs r

/-! ## The writes of the relay unit -/

theorem interlocked_setRelayState {r : Fin 12} {x : RelayState} (why : Option LeaveReason)
    (agrees : (x = .on ∨ x = .waitMinOn) ↔ (h.relay r).output = true) (holds : h.Interlocked) :
    (h.setRelayState r x why).Interlocked := by
  have output (q : Fin 12) : ((h.setRelayState r x why).relay q).output = (h.relay q).output := by
    rw [relay_setRelayState]
    split
    · next same => subst same; rfl
    · rfl
  refine ⟨fun g q k nq nk oq ok => ?_, holds.apart, fun q => ?_⟩
  · rw [output] at oq ok
    exact holds.oneOn g q k nq nk oq ok
  · rw [output, relay_setRelayState]
    split
    · next same => subst same; exact agrees.symm
    · exact holds.outputs q

theorem work_switchOff (r : Fin 12) (into : RelayState) (h : Hub) : (h.switchOff r into).work = h.work :=
  (relayOnly_switchOff r into h).work

theorem namesRelay_of_work (same : t.work = h.work) (g : Fin 4) (r : Fin 12) : t.namesRelay g r = h.namesRelay g r := by
  unfold namesRelay
  rw [same]

theorem interlocked_switchOff {r : Fin 12} {into : RelayState} (opens : into = .off ∨ into = .heldOff)
    (holds : h.Interlocked) : (h.switchOff r into).Interlocked := by
  have output (q : Fin 12) (on : ((h.switchOff r into).relay q).output = true) : (h.relay q).output = true := by
    rw [relay_switchOff] at on
    split at on
    · cases on
    · exact on
  refine ⟨fun g q k nq nk oq ok => ?_, by rw [work_switchOff]; exact holds.apart, fun q => ?_⟩
  · rw [namesRelay_of_work (work_switchOff ..)] at nq nk
    exact holds.oneOn g q k nq nk (output q oq) (output k ok)
  · rw [relay_switchOff]
    split
    · rcases opens with rfl | rfl <;> simp
    · exact holds.outputs q

/-- A relay may close where no other member of a group of its own is ON. -/
theorem interlocked_switchOn {r : Fin 12}
    (alone : ∀ g q, h.namesRelay g r = true → h.namesRelay g q = true → (h.relay q).output = true → q = r)
    (holds : h.Interlocked) : (h.switchOn r).Interlocked := by
  have reads (q : Fin 12) : (h.switchOn r).relay q =
      if r = q then ⟨.on, none, true, minOnRun (Config.tenths h.work.relays[r].minOn)⟩ else h.relay q :=
    relay_modRelay ..
  refine ⟨fun g q k nq nk oq ok => ?_, holds.apart, fun q => ?_⟩
  · rw [reads] at oq ok
    split at oq
    · next same =>
      subst same
      split at ok
      · next same => exact same
      · exact (alone g k nq nk ok).symm
    · split at ok
      · next same => subst same; exact alone g q nk nq oq
      · exact holds.oneOn g q k nq nk oq ok
  · rw [reads]
    split
    · simp
    · exact holds.outputs q

theorem namesRelay_of_groupOf_none {r : Fin 12} (alone : h.groupOf r = none) (g : Fin 4) : h.namesRelay g r = false := by
  simpa using List.find?_eq_none.mp alone g (List.mem_finRange g)

theorem interlocked_switchOn_ungrouped {r : Fin 12} (alone : h.groupOf r = none) (holds : h.Interlocked) :
    (h.switchOn r).Interlocked :=
  interlocked_switchOn (fun g _ named => absurd named (by simp [namesRelay_of_groupOf_none alone g])) holds

theorem interlocked_foldl {α : Type} {f : Hub → α → Hub} (one : ∀ h a, h.Interlocked → (f h a).Interlocked) (xs : List α)
    (holds : h.Interlocked) : (xs.foldl f h).Interlocked :=
  List.foldlRecOn (motive := Interlocked) xs f holds fun t so a _ => one t a so

/-! ## An ungrouped relay -/

theorem Interlocked.output_eq (holds : h.Interlocked) (r : Fin 12) :
    (h.relay r).output = match (h.relay r).state with
      | .on => true
      | .waitMinOn => true
      | .off => false
      | .waitMinOff => false
      | .waitDead => false
      | .heldOff => false := by
  have agrees := holds.outputs r
  revert agrees
  cases (h.relay r).state <;> simp

theorem interlocked_follow {r : Fin 12} (alone : h.groupOf r = none) (holds : h.Interlocked) : (h.follow r).Interlocked := by
  have output := holds.output_eq r
  have on := interlocked_switchOn_ungrouped alone holds
  have off : (h.switchOff r .off).Interlocked := interlocked_switchOff (.inl rfl) holds
  unfold follow followOn followOff
  split
  · split <;> rename_i state <;> rw [state] at output
    · exact holds
    · exact holds
    · exact interlocked_setRelayState _ (by simp [output]) holds
    all_goals
      split
      · exact interlocked_setRelayState _ (by simp [output]) holds
      · exact on
  · split <;> rename_i state <;> rw [state] at output
    · split
      · exact interlocked_setRelayState _ (by simp [output]) holds
      · exact off
    · exact holds
    · exact holds
    all_goals exact interlocked_setRelayState _ (by simp [output]) holds

theorem interlocked_followExpiry {r : Fin 12} (alone : h.groupOf r = none) (holds : h.Interlocked) :
    (h.followExpiry r).Interlocked := by
  unfold followExpiry
  split
  · exact interlocked_switchOn_ungrouped alone holds
  · exact interlocked_switchOff (.inl rfl) holds
  all_goals exact holds

/-! ## A contest -/

theorem interlocked_settleMember (h : Hub) (r : Fin 12) (holds : h.Interlocked) : (h.settleMember r).Interlocked := by
  have output := holds.output_eq r
  unfold settleMember
  split <;> rename_i state <;> rw [state] at output
  · split
    · exact interlocked_setRelayState _ (by simp [output]) holds
    · split
      · exact holds
      · exact interlocked_switchOff (by split <;> simp) holds
  · split
    · exact holds
    · split
      · exact interlocked_setRelayState _ (by simp [output]) holds
      · exact interlocked_switchOff (.inl rfl) holds
  · split
    · exact holds
    · exact interlocked_setRelayState _ (by simp [output]) holds
  · split
    · exact holds
    · exact interlocked_setRelayState _ (by simp [output]) holds
  · exact holds
  · split
    · exact holds
    · exact interlocked_setRelayState _ (by simp [output]) holds

theorem incumbent_state {g : Fin 4} {i : Fin 12} (found : h.incumbent g = some i) :
    (h.relay i).state = .on ∨ (h.relay i).state = .waitDead := by
  unfold incumbent at found
  split at found
  · next first =>
    cases found
    exact .inl (by simpa using List.find?_some first)
  · exact .inr (by simpa using List.find?_some found)

theorem interlocked_preemption (g : Fin 4) (holds : h.Interlocked) : (h.preemption g).1.Interlocked := by
  unfold preemption
  split
  · next i found =>
    split
    · have output := holds.output_eq i
      unfold forceOut
      split
      · next on =>
        split
        · exact interlocked_setRelayState _ (by simpa using (holds.outputs i).mpr (.inl (by simpa using on))) holds
        · exact interlocked_switchOff (.inr rfl) holds
      · next closed =>
        have waits := (incumbent_state found).resolve_left (by simpa using closed)
        rw [waits] at output
        exact interlocked_setRelayState _ (by simp [output]) holds
    · exact holds
  · exact holds

theorem output_of_eligible {r : Fin 12} (holds : h.Interlocked) (may : h.eligible r = true) :
    (h.relay r).output = false := by
  have output := holds.output_eq r
  have open_ : (h.relay r).state ≠ .on ∧ (h.relay r).state ≠ .waitMinOn := by
    simp only [eligible, Bool.and_eq_true, bne_iff_ne] at may
    exact ⟨may.1.2, may.2⟩
  rw [output]
  cases state : (h.relay r).state <;> simp_all

theorem interlocked_holdAll {held : List (Fin 12)} (opens : ∀ r ∈ held, (h.relay r).output = false)
    (holds : h.Interlocked) : (held.foldl (fun x r => x.setRelayState r .heldOff none) h).Interlocked := by
  induction held generalizing h with
  | nil => exact holds
  | cons r held ih =>
    refine ih (fun q mem => ?_) (interlocked_setRelayState none (by simp [opens r List.mem_cons_self]) holds)
    rw [relay_setRelayState]
    split
    · next same => subst same; exact opens r List.mem_cons_self
    · exact opens q (List.mem_cons_of_mem _ mem)

theorem interlocked_chooseAndHold (g : Fin 4) (remains : Option (Fin 12)) (holds : h.Interlocked) :
    (h.chooseAndHold g remains).Interlocked := by
  have held (m : Hub) (fits : m.Interlocked) (keeps : Option (Fin 12)) :
      (((h.members g).filter fun r => m.eligible r && keeps != some r).foldl
        (fun x r => x.setRelayState r .heldOff none) m).Interlocked :=
    interlocked_holdAll (fun r mem => output_of_eligible fits (by
      simp only [List.mem_filter, Bool.and_eq_true] at mem
      exact mem.2.1)) fits
  unfold chooseAndHold
  dsimp only
  refine held _ ?_ _
  split
  · next chosen =>
    have may := output_of_eligible holds (choose_mem chosen).2
    exact interlocked_setRelayState none (by simp [may]) holds
  · exact holds

theorem interlocked_closeChosen (g : Fin 4) (holds : h.Interlocked) : (h.closeChosen g).Interlocked := by
  unfold closeChosen
  split
  · next r found =>
    split
    · next may =>
      have named : h.namesRelay g r = true := mem_members.mp (List.mem_of_find?_eq_some found)
      refine interlocked_switchOn (fun k q nk nq on => ?_) holds
      have mine : k = g := by
        refine Classical.byContradiction fun other => ?_
        exact holds.apart k g other r ⟨nk, named⟩
      subst mine
      simp only [mayClose, Bool.and_eq_true, Bool.not_eq_eq_eq_not, Bool.not_true, List.any_eq_false] at may
      have free := may.1.1 q (mem_members.mpr nq)
      refine Classical.byContradiction fun other => ?_
      simp [other, on] at free
    · exact holds
  · exact holds

theorem interlocked_contestPass (g : Fin 4) (holds : h.Interlocked) : (h.contestPass g).1.Interlocked :=
  interlocked_closeChosen g (interlocked_chooseAndHold g _
    (interlocked_preemption g (interlocked_foldl interlocked_settleMember _ holds)))

theorem interlocked_contestPasses (g : Fin 4) : ∀ (fuel : Nat) {h : Hub}, h.Interlocked →
    (h.contestPasses g fuel).Interlocked
  | 0, _, holds => holds
  | n + 1, h, holds => by
    rw [contestPasses_succ]
    split
    · exact interlocked_contestPasses g n (interlocked_contestPass g holds)
    · exact interlocked_contestPass g holds

theorem Calm.relaysAlike (a : Calm h t) : RelaysAlike h t := ⟨a.relays, fun g => by rw [a.work]⟩

theorem interlocked_contest (g : Fin 4) (before : Hub) (holds : h.Interlocked) : (contest g h before).Interlocked := by
  have told (m : Hub) (r : Fin 12) (fits : m.Interlocked) : (interlockNotice before m r).Interlocked := by
    unfold interlockNotice
    split
    · split
      · exact fits.alike (plain_giveFlagOn ..).relaysAlike
      · exact fits
    · exact fits
  exact interlocked_foldl told _ (interlocked_contestPasses g 32 holds)

theorem interlocked_relayTakes (r : Fin 12) (change : Bool) (before : Hub) (holds : h.Interlocked) :
    (relayTakes r change h before).Interlocked := by
  unfold relayTakes
  split
  · exact holds
  · split
    · exact interlocked_contest _ _ holds
    · next alone =>
      split
      · exact interlocked_follow alone holds
      · exact holds

theorem interlocked_endRun (r : Fin 12) (holds : h.Interlocked) : (h.endRun r).Interlocked := by
  have ended : (h.modRelay r fun t => { t with mark := .expired }).Interlocked :=
    holds.alike ⟨fun q => by rw [relay_modRelay]; split <;> simp_all, fun _ => rfl⟩
  unfold endRun
  dsimp only
  split
  · exact ended
  · split
    · exact interlocked_contest _ _ ended
    · next alone => exact interlocked_followExpiry alone ended

theorem interlocked_relayRunExpires (r : Fin 12) (holds : h.Interlocked) : (h.relayRunExpires r).Interlocked := by
  unfold relayRunExpires
  split
  · exact interlocked_endRun r holds
  · exact interlocked_endRun r holds
  all_goals exact holds

theorem interlocked_deadTimerExpires (g : Fin 4) (holds : h.Interlocked) : (h.deadTimerExpires g).Interlocked := by
  have set (x : DeadTimer) : (h.setDead g x).Interlocked := holds.alike ⟨fun _ => ⟨rfl, rfl⟩, fun _ => rfl⟩
  unfold deadTimerExpires endDead
  dsimp only
  split
  · exact set _
  · split
    · exact set _
    · split
      · exact interlocked_contest _ _ (set _)
      · exact set _
  all_goals exact holds

theorem interlocked_thawRelays (holds : h.Interlocked) : h.thawRelays.Interlocked := by
  have running : ({ h with relayCond := .running } : Hub).Interlocked := holds.alike ⟨fun _ => ⟨rfl, rfl⟩, fun _ => rfl⟩
  unfold thawRelays
  dsimp only
  refine interlocked_foldl (fun m g fits => interlocked_contest g h fits) _ ?_
  have followed : ∀ (xs : List (Fin 12)) (m : Hub), (∀ r ∈ xs, m.groupOf r = none) → m.Interlocked →
      (xs.foldl (fun x r => x.follow r) m).Interlocked := by
    intro xs
    induction xs with
    | nil => exact fun _ _ fits => fits
    | cons r xs ih =>
      intro m alone fits
      refine ih _ (fun q mem => ?_) (interlocked_follow (alone r List.mem_cons_self) fits)
      rw [(relayOnly_follow r m).groupOf]
      exact alone q (List.mem_cons_of_mem _ mem)
  exact followed _ _ (fun r mem => show h.groupOf r = none by simpa using (List.mem_filter.mp mem).2) running

end
end Sys2Proof.Machine.Hub
end

section
/-! The interlock, move by move: the relay unit is RUNNING exactly in RUN, so that a hand-over runs a contest there and
nothing elsewhere. -/

namespace Sys2Proof.Machine
namespace Hub

section
variable {h t : Hub}

/-- The interlock and the relays' outputs stand. -/
def RelaysSafe (h : Hub) : Prop := h.InterlockStands ∧ h.RelaysStand

theorem RelaysSafe.interlocked (safe : h.RelaysSafe) : h.Interlocked :=
  ⟨safe.1.oneOn, safe.1.apart, safe.2.outputs⟩

/-- In RUN, or at the entry into it, the RUNNING unit needs nothing else. -/
theorem relaysSafe_of_running (holds : h.Interlocked) (stored : GroupsApart h.stored) (running : h.relayCond = .running)
    (run : h.mode = .run) : h.RelaysSafe where
  left := ⟨holds.oneOn, holds.apart, stored, iff_of_true running run, fun startup => by rw [run] at startup; cases startup⟩
  right := ⟨holds.outputs, fun frozen => by rw [running] at frozen; cases frozen⟩

/-- Outside RUN the unit is FROZEN. -/
theorem relaysSafe_of_frozen (holds : h.Interlocked) (stored : GroupsApart h.stored) (frozen : h.relayCond = .frozen)
    (rest : ∀ r, (h.relay r).state = .on ∨ (h.relay r).state = .off) (halted : h.mode ≠ .run)
    (startup : h.mode = .startup → ∀ r, (h.relay r).output = false) : h.RelaysSafe where
  left := ⟨holds.oneOn, holds.apart, stored, iff_of_false (by simp [frozen]) halted, startup⟩
  right := ⟨holds.outputs, fun _ => rest⟩

/-- The relay unit and all it is judged by is as it was. -/
structure UnitAlike (h t : Hub) : Prop extends RelaysAlike h t where
  relayCond : t.relayCond = h.relayCond
  mode : t.mode = h.mode
  stored : t.stored = h.stored

theorem UnitAlike.keeps (a : UnitAlike h t) (safe : h.RelaysSafe) : t.RelaysSafe := by
  have locked := safe.interlocked.alike a.toRelaysAlike
  refine ⟨⟨locked.oneOn, locked.apart, ?_, ?_, fun startup r => ?_⟩, locked.outputs, fun frozen r => ?_⟩
  · rw [a.stored]
    exact safe.1.storedApart
  · rw [a.relayCond, a.mode]
    exact safe.1.running
  · rw [(a.relays r).2]
    exact safe.1.offInStartup (a.mode ▸ startup) r
  · rw [(a.relays r).1]
    exact safe.2.frozen (a.relayCond ▸ frozen) r

theorem UnitAlike.trans {v : Hub} (a : UnitAlike h t) (b : UnitAlike t v) : UnitAlike h v where
  relays r := ⟨(b.relays r).1.trans (a.relays r).1, (b.relays r).2.trans (a.relays r).2⟩
  members g := (b.members g).trans (a.members g)
  relayCond := b.relayCond.trans a.relayCond
  mode := b.mode.trans a.mode
  stored := b.stored.trans a.stored

theorem UnitAlike.refl (h : Hub) : UnitAlike h h := ⟨⟨fun _ => ⟨rfl, rfl⟩, fun _ => rfl⟩, rfl, rfl, rfl⟩

theorem Calm.unitAlike (a : Calm h t) : UnitAlike h t := ⟨a.relaysAlike, a.relayCond, a.mode, a.stored⟩

theorem SounderOnly.unitAlike (a : SounderOnly h t) : UnitAlike h t := by
  rw [a.rest]
  exact ⟨⟨fun _ => ⟨rfl, rfl⟩, fun _ => rfl⟩, rfl, rfl, rfl⟩

theorem StepperOnly.unitAlike {u : Fin 2} (a : StepperOnly u h t) : UnitAlike h t := by
  rw [a.rest]
  exact ⟨⟨fun _ => ⟨rfl, rfl⟩, fun _ => rfl⟩, rfl, rfl, rfl⟩

theorem unitAlike_modWork {f : Blocks → Blocks} (same : ∀ g : Fin 4, (f h.work).groups[g].members = h.work.groups[g].members) :
    UnitAlike h (h.modWork f) := ⟨⟨fun _ => ⟨rfl, rfl⟩, same⟩, rfl, rfl, rfl⟩

theorem unitAlike_foldl {α : Type} {f : Hub → α → Hub} (one : ∀ h a, UnitAlike h (f h a)) (xs : List α) (h : Hub) :
    UnitAlike h (xs.foldl f h) :=
  List.foldlRecOn (motive := UnitAlike h) xs f (.refl h) fun t so a _ => so.trans (one t a)

/-- After an operation of the relay unit in RUN. -/
theorem relaysSafe_of_relaySide (safe : h.RelaysSafe) (moved : RelaySide h t) (running : h.relayCond = .running)
    (holds : t.Interlocked) : t.RelaysSafe := by
  have cond : t.relayCond = h.relayCond := by rw [moved.rest]
  have mode : t.mode = h.mode := by rw [moved.rest]
  have stored : t.stored = h.stored := by rw [moved.rest]
  exact relaysSafe_of_running holds (by rw [stored]; exact safe.1.storedApart) (cond.trans running)
    (mode.trans (safe.1.running.mp running))

/-! ## The timers of the unit -/

/-- In a FROZEN unit the end of a run leaves its mark and moves nothing (R105). -/
theorem relaysSafe_relayRunExpires (r : Fin 12) (safe : h.RelaysSafe) : (h.relayRunExpires r).RelaysSafe := by
  cases cond : h.relayCond with
  | running =>
    exact relaysSafe_of_relaySide safe (relaySide_relayRunExpires r h) cond
      (interlocked_relayRunExpires r safe.interlocked)
  | frozen =>
    have marked : UnitAlike h (h.modRelay r fun t => { t with mark := .expired }) :=
      ⟨⟨fun q => by rw [relay_modRelay]; split <;> simp_all, fun _ => rfl⟩, rfl, rfl, rfl⟩
    unfold relayRunExpires endRun
    simp only [cond]
    split
    · exact marked.keeps safe
    · exact marked.keeps safe
    all_goals exact safe

theorem relaysSafe_deadTimerExpires (g : Fin 4) (safe : h.RelaysSafe) : (h.deadTimerExpires g).RelaysSafe := by
  cases cond : h.relayCond with
  | running =>
    exact relaysSafe_of_relaySide safe (relaySide_deadTimerExpires g h) cond
      (interlocked_deadTimerExpires g safe.interlocked)
  | frozen =>
    have set (x : DeadTimer) : UnitAlike h (h.setDead g x) := ⟨⟨fun _ => ⟨rfl, rfl⟩, fun _ => rfl⟩, rfl, rfl, rfl⟩
    unfold deadTimerExpires endDead
    simp only [cond]
    split
    · exact (set _).keeps safe
    · exact (set _).keeps safe
    all_goals exact safe

/-! ## Hand-overs -/

theorem unitAlike_taken (c : Fin 23) (pair : Pair) (h : Hub) :
    UnitAlike h (h.modChan c fun x => { x with taken := some pair }) :=
  ⟨⟨fun _ => ⟨rfl, rfl⟩, fun _ => rfl⟩, rfl, rfl, rfl⟩

/-- A hand-over to another unit than the relays', or to a FROZEN one, leaves the relays alone. -/
theorem unitAlike_handOverAs {c : Fin 23} (change : Bool) (pair : Pair) (h : Hub)
    (away : h.relayCond = .frozen ∨ ∀ r, outputOf c ≠ .relay r) : UnitAlike h (h.handOverAs c change pair) := by
  refine (unitAlike_taken c pair h).trans ?_
  unfold handOverAs
  dsimp only
  split
  · next r out =>
    unfold relayTakes
    rw [modChan_relayCond, away.resolve_right fun none => none r out]
    exact .refl _
  · split
    · exact ⟨⟨fun _ => ⟨rfl, rfl⟩, fun _ => rfl⟩, rfl, rfl, rfl⟩
    · exact .refl _
  · exact (sounderOnly_sounderTakes change _).unitAlike
  · next u _ => exact (stepperOnly_stepperTakes u _ change).unitAlike

theorem relaysSafe_handOver (c : Fin 23) (pair : Pair) (safe : h.RelaysSafe) (run : h.mode = .run) :
    (h.handOver c pair).RelaysSafe := by
  by_cases relay : ∃ r, outputOf c = .relay r
  · obtain ⟨r, out⟩ := relay
    have taken := (unitAlike_taken c pair h).keeps safe
    unfold handOver handOverAs
    rw [out]
    exact relaysSafe_of_relaySide taken (relaySide_relayTakes r _ _ h) (safe.1.running.mpr run)
      (interlocked_relayTakes r _ h taken.interlocked)
  · exact (unitAlike_handOverAs _ pair h (.inr fun r out => relay ⟨r, out⟩)).keeps safe

theorem relaysSafe_of_calm (h t : Hub) (safe : h.RelaysSafe) (same : Calm h t) : t.RelaysSafe := same.unitAlike.keeps safe

theorem relaysSafe_form (h : Hub) (c : Fin 23) (cause : FormCause) (safe : h.RelaysSafe) :
    (h.form c cause).RelaysSafe :=
  form_keeps relaysSafe_of_calm (fun _ c pair holds run => relaysSafe_handOver c pair holds run) safe c cause

theorem relaysSafe_formings (made : Formings h t) (safe : h.RelaysSafe) : t.RelaysSafe :=
  made.keeps relaysSafe_of_calm relaysSafe_form safe

/-! ## The changes of mode -/

theorem frozen_of_halted (safe : h.RelaysSafe) (halted : h.mode ≠ .run) : h.relayCond = .frozen := by
  have stopped := (not_congr safe.1.running).mpr halted
  cases cond : h.relayCond with
  | frozen => rfl
  | running => exact absurd cond stopped

/-- At the entry into RUN the relay unit is still FROZEN, so that nothing of it moves before the thaw. -/
theorem relaysSafe_enterRun (safe : h.RelaysSafe) (halted : h.mode ≠ .run) : h.enterRun.RelaysSafe := by
  have cond := frozen_of_halted safe halted
  have handed (everyChannel : Bool) : ∀ (xs : List (Fin 23)) (m : Hub), m.relayCond = .frozen →
      UnitAlike m (xs.foldl (handWaiting everyChannel) m) := by
    intro xs
    induction xs with
    | nil => exact fun m _ => .refl m
    | cons c xs ih =>
      intro m frozen
      have one : UnitAlike m (m.handWaiting everyChannel c) := by
        unfold handWaiting
        split
        · exact (unitAlike_handOverAs true _ m (.inl frozen)).trans (Calm.unitAlike (calm_modChan rfl))
        · split
          · exact (unitAlike_handOverAs _ _ m (.inl frozen)).trans (Calm.unitAlike (calm_modChan rfl))
          · exact .refl m
      exact one.trans (ih _ (one.relayCond.trans frozen))
  have alike := handed h.starting (List.finRange 23) { h with mode := .run } cond
  generalize same : (List.finRange 23).foldl (handWaiting h.starting) { h with mode := .run } = m at alike
  have locked : m.Interlocked :=
    (safe.interlocked.alike (t := { h with mode := .run }) ⟨fun _ => ⟨rfl, rfl⟩, fun _ => rfl⟩).alike alike.toRelaysAlike
  have thawed : m.thawRelays.RelaysSafe := by
    have side := relaySide_thawRelays m
    refine relaysSafe_of_running (interlocked_thawRelays locked) ?_ (by rw [side.rest]) ?_
    · rw [show m.thawRelays.stored = m.stored by rw [side.rest], alike.stored]
      exact safe.1.storedApart
    · rw [show m.thawRelays.mode = m.mode by rw [side.rest]]
      exact alike.mode
  have rest (changed : Fin 2 → Bool) : (m.thaw changed).RelaysSafe :=
    (((sounderOnly_thawSounder _).unitAlike.trans (stepperOnly_thawUnit 0 _ _).unitAlike).trans
      (stepperOnly_thawUnit 1 _ _).unitAlike).keeps thawed
  unfold enterRun
  dsimp only
  rw [same]
  split
  · exact ((stepperOnly_autoReference 0 _).unitAlike.trans (stepperOnly_autoReference 1 _).unitAlike).keeps (rest _)
  · exact rest _

/-- A hub that is not in STARTUP and stays out of RUN may change its mode. -/
theorem relaysSafe_halt {mode : HubMode} (safe : h.RelaysSafe) (before : h.mode ≠ .run) (after : mode ≠ .run)
    (startup : mode ≠ .startup) : ({ h with mode := mode } : Hub).RelaysSafe :=
  ⟨{ safe.1 with
      running := iff_of_false (fun running => before (safe.1.running.mp running)) after
      offInStartup := fun here => absurd here startup }, safe.2.outputs, safe.2.frozen⟩

theorem relaysSafe_checkHeld (safe : h.RelaysSafe) : h.checkHeld.RelaysSafe := by
  unfold checkHeld
  split
  · next holding =>
    have mode : h.mode = .holding := by simp only [Bool.and_eq_true, beq_iff_eq] at holding; exact holding.1
    exact (plain_giveAll ..).unitAlike.keeps (relaysSafe_halt safe (by simp [mode]) (by simp) (by simp))
  · exact safe

theorem relay_freezeRelays (h : Hub) (r : Fin 12) : h.freezeRelays.relay r = freezeRelay (h.relay r) := by
  simp [freezeRelays, relay]

theorem freezeRelay_state (t : Relay) : (freezeRelay t).output = t.output ∧
    ((freezeRelay t).state = .on ∧ (t.state = .on ∨ t.state = .waitMinOn) ∨
      (freezeRelay t).state = .off ∧ ¬ (t.state = .on ∨ t.state = .waitMinOn)) := by
  unfold freezeRelay
  cases t.state <;> simp

theorem relaysSafe_enterHolding (safe : h.RelaysSafe) : h.enterHolding.RelaysSafe := by
  have frozen : (freezeRelays { h with mode := .holding }).RelaysSafe := by
    have reads (r : Fin 12) : (freezeRelays { h with mode := .holding }).relay r = freezeRelay (h.relay r) :=
      relay_freezeRelays _ r
    refine relaysSafe_of_frozen ⟨fun g q r nq nr oq or_ => ?_, safe.1.apart, fun r => ?_⟩ safe.1.storedApart rfl
      (fun r => ?_) (by simp [freezeRelays]) (by simp [freezeRelays])
    · rw [reads, (freezeRelay_state _).1] at oq or_
      exact safe.1.oneOn g q r nq nr oq or_
    · rw [reads, (freezeRelay_state _).1, safe.2.outputs]
      rcases (freezeRelay_state (h.relay r)).2 with ⟨state, on⟩ | ⟨state, off⟩ <;> simp_all
    · rw [reads]
      exact (freezeRelay_state (h.relay r)).2.imp (·.1) (·.1)
  exact relaysSafe_checkHeld (((sounderOnly_freezeSounder _).unitAlike.trans ((stepperOnly_drainUnit 0 _).unitAlike.trans
    (stepperOnly_drainUnit 1 _).unitAlike)).keeps frozen)

/-! ## Resets, the load, the configuration -/

theorem hubReset_copies (cause : ResetCause) (h : Hub) :
    (h.hubReset cause).work = h.work ∧ (h.hubReset cause).stored = h.stored := by
  have abandoned : h.abandonWrite.work = h.work ∧ h.abandonWrite.stored = h.stored := by
    unfold abandonWrite
    split <;> exact ⟨rfl, rfl⟩
  exact abandoned

theorem relay_hubReset (cause : ResetCause) (h : Hub) (r : Fin 12) :
    (h.hubReset cause).relay r = ⟨.off, none, false, .fromReset⟩ := Vector.getElem_replicate ..

theorem relaysSafe_hubReset (cause : ResetCause) (safe : h.RelaysSafe) : (h.hubReset cause).RelaysSafe := by
  obtain ⟨work, stored⟩ := hubReset_copies cause h
  have off (r : Fin 12) : ((h.hubReset cause).relay r).output = false := by rw [relay_hubReset]
  refine relaysSafe_of_frozen ⟨fun g q r _ _ on => ?_, by rw [work]; exact safe.1.apart, fun r => ?_⟩
    (by rw [stored]; exact safe.1.storedApart) rfl (fun r => ?_) (fun mode => by cases mode) fun _ => off
  · rw [off] at on
    cases on
  · simp [relay_hubReset]
  · simp [relay_hubReset]

theorem groupsApart_factory : GroupsApart factoryBlocks := by
  intro g k _ r named
  simp [factoryBlocks] at named

theorem groupsApart_copyBlock {b : Block} {src dst : Blocks} (apart : GroupsApart src) (kept : GroupsApart dst) :
    GroupsApart (Blocks.copyBlock b src dst) := by
  cases b <;> first
    | exact kept
    | exact apart

/-- The working copies may be loaded while every relay is OFF. -/
theorem relaysSafe_loadBlock (storeAnswers : Bool) (h : Hub) (b : Block) (safe : h.RelaysSafe ∧ h.mode = .startup) :
    (h.loadBlock storeAnswers b).RelaysSafe ∧ (h.loadBlock storeAnswers b).mode = .startup := by
  obtain ⟨safe, startup⟩ := safe
  have frozen := frozen_of_halted safe (by simp [startup])
  have loaded (w : Blocks) (marks : Vector BlockMark 6) (apart : GroupsApart w) :
      ({ h with work := w, marks := marks } : Hub).RelaysSafe :=
    relaysSafe_of_frozen ⟨fun _ q _ _ _ on => absurd ((safe.1.offInStartup startup q).symm.trans on) (by simp), apart,
      safe.2.outputs⟩ safe.1.storedApart frozen (safe.2.frozen frozen) (by simp [startup])
      fun _ => safe.1.offInStartup startup
  unfold loadBlock
  split
  · exact ⟨loaded _ _ (groupsApart_copyBlock safe.1.storedApart safe.1.apart), startup⟩
  · exact ⟨loaded _ _ (groupsApart_copyBlock groupsApart_factory safe.1.apart), startup⟩

theorem relaysSafe_loadResults (storeAnswers : Bool) (safe : h.RelaysSafe) (startup : h.mode = .startup) :
    (h.loadResults storeAnswers).RelaysSafe ∧ (h.loadResults storeAnswers).mode = .startup := by
  have blocks := List.foldlRecOn (motive := fun m : Hub => m.RelaysSafe ∧ m.mode = .startup) Block.all
    (loadBlock storeAnswers) ⟨safe, startup⟩ fun m holds b _ => relaysSafe_loadBlock storeAnswers m b holds
  have faults := unitAlike_foldl (f := recordFault) (fun m _ => ⟨⟨fun _ => ⟨rfl, rfl⟩, fun _ => rfl⟩, rfl, rfl, rfl⟩)
    (h.faultsFound storeAnswers) (Block.all.foldl (loadBlock storeAnswers) h)
  have muted (m : Hub) : UnitAlike m m.refreshMute := ⟨⟨fun _ => ⟨rfl, rfl⟩, fun _ => rfl⟩, rfl, rfl, rfl⟩
  exact ⟨(faults.trans (muted _)).keeps blocks.1, (faults.trans (muted _)).mode.trans blocks.2⟩

theorem unitAlike_readRelayRuns (h : Hub) : UnitAlike h h.readRelayRuns :=
  ⟨⟨fun r => by simp [readRelayRuns, relay], fun _ => rfl⟩, rfl, rfl, rfl⟩

theorem relaysSafe_endLoad (storeAnswers : Bool) (safe : h.RelaysSafe) (startup : h.mode = .startup) :
    (h.endLoad storeAnswers).RelaysSafe := by
  obtain ⟨loaded, mode⟩ := relaysSafe_loadResults storeAnswers safe startup
  have compared (m : Hub) : UnitAlike m ((m.readRelayRuns.checkReference 0).checkReference 1) :=
    (unitAlike_readRelayRuns m).trans ((stepperOnly_checkReference 0 _).unitAlike.trans
      (stepperOnly_checkReference 1 _).unitAlike)
  have pass (m : Hub) (c : Fin 23) (holds : m.RelaysSafe ∧ m.mode = .startup) :
      (m.passLoaded c).RelaysSafe ∧ (m.passLoaded c).mode = .startup := by
    have input := Calm.unitAlike (calm_modChan (c := c) (h := m) (f := fun x => { x with input := m.localLayer c }) rfl)
    exact ⟨relaysSafe_form _ c .load (input.keeps holds.1), (form_mode ..).trans (input.mode.trans holds.2)⟩
  have passed := List.foldlRecOn (motive := fun m : Hub => m.RelaysSafe ∧ m.mode = .startup) (List.finRange 23) passLoaded
    ⟨(compared _).keeps loaded, (compared _).mode.trans mode⟩ fun m holds c _ => pass m c holds
  have lit (m : Hub) : UnitAlike m (showLamps { m with flash := some 0 }) :=
    ⟨⟨fun _ => ⟨rfl, rfl⟩, fun _ => rfl⟩, rfl, rfl, rfl⟩
  have before := ((lit _).mode.trans passed.2 : _ = HubMode.startup)
  unfold endLoad
  dsimp only
  split
  · exact relaysSafe_halt ((lit _).keeps passed.1) (by rw [before]; simp) (by simp) (by simp)
  · exact relaysSafe_enterRun ((lit _).keeps passed.1) (by rw [before]; simp)

/-- At most one of the members written is ON. -/
theorem eq_of_closes {b : Block} {field : Byte} {v : BitVec 32} (closes : h.closesTwo b field v = false)
    (written : b = .groups ∧ field = 0) {q r : Fin 12} (nq : v.getLsbD q.val = true) (nr : v.getLsbD r.val = true)
    (oq : (h.relay q).output = true) (or_ : (h.relay r).output = true) : q = r := by
  obtain ⟨rfl, rfl⟩ := written
  have few : ((List.finRange 12).filter fun r => v.getLsbD r.val && (h.relay r).output).length ≤ 1 := by
    simp only [closesTwo, beq_self_eq_true, Bool.true_and, decide_eq_false_iff_not] at closes
    omega
  have mem {k : Fin 12} (named : v.getLsbD k.val = true) (on : (h.relay k).output = true) :
      k ∈ (List.finRange 12).filter fun r => v.getLsbD r.val && (h.relay r).output := by simp [named, on]
  have both := And.intro (mem nq oq) (mem nr or_)
  generalize (List.finRange 12).filter (fun r => v.getLsbD r.val && (h.relay r).output) = on at few both
  match on, few, both with
  | [k], _, both => exact (List.mem_singleton.mp both.1).trans (List.mem_singleton.mp both.2).symm

/-- What no other group shares is named by no other group. -/
theorem not_named_of_apart {g k : Fin 4} {members : BitVec 12} (apart : h.sharesMember g members = false) (other : k ≠ g)
    {r : Fin 12} (named : members.getLsbD r.val = true) : h.work.groups[k].members.getLsbD r.val = false := by
  simp only [sharesMember, List.any_eq_false, List.mem_finRange, forall_const] at apart
  have clear : h.work.groups[k].members &&& members = 0 := by simpa [other] using apart k
  have bit : (h.work.groups[k].members &&& members).getLsbD r.val = false := by
    rw [clear]
    exact BitVec.getLsbD_zero
  rwa [BitVec.getLsbD_and, named, Bool.and_true] at bit

theorem relaysSafe_writeMembers {g : Fin 4} {v : BitVec 32} (safe : h.RelaysSafe)
    (apart : h.sharesMember g (v.setWidth 12) = false) (closes : h.closesTwo .groups 0 v = false) :
    (h.writeMembers g (v.setWidth 12)).RelaysSafe := by
  have members (k : Fin 4) : (h.writeMembers g (v.setWidth 12)).work.groups[k].members =
      if k = g then v.setWidth 12 else h.work.groups[k].members := by
    have set : (h.work.groups.set g { h.work.groups[g] with members := v.setWidth 12 })[k].members =
        if k = g then v.setWidth 12 else h.work.groups[k].members := by
      by_cases same : k = g
      · subst same
        simp
      · have apart : g.val ≠ k.val := fun e => same (Fin.ext e.symm)
        simp [same, apart]
    unfold writeMembers
    dsimp only
    split <;> exact set
  have relay (r : Fin 12) : (h.writeMembers g (v.setWidth 12)).relay r = h.relay r := by
    unfold writeMembers
    dsimp only
    split <;> rfl
  have wide (r : Fin 12) (named : (v.setWidth 12).getLsbD r.val = true) : v.getLsbD r.val = true := by
    simpa [r.isLt] using named
  have names (k : Fin 4) (r : Fin 12) : (h.writeMembers g (v.setWidth 12)).namesRelay k r =
      if k = g then (v.setWidth 12).getLsbD r.val else h.namesRelay k r := by
    rw [namesRelay, members]
    split <;> rfl
  have locked : (h.writeMembers g (v.setWidth 12)).Interlocked := by
    refine ⟨fun k q r nq nr oq or_ => ?_, fun k l other r named => ?_, fun r => ?_⟩
    · rw [names] at nq nr
      rw [relay] at oq or_
      split at nq
      · next same =>
        rw [if_pos same] at nr
        exact eq_of_closes closes ⟨rfl, rfl⟩ (wide q nq) (wide r nr) oq or_
      · next away =>
        rw [if_neg away] at nr
        exact safe.1.oneOn k q r nq nr oq or_
    · rw [members, members] at named
      split at named
      · next same =>
        rw [if_neg (fun e => other (same.trans e.symm))] at named
        rw [not_named_of_apart apart (fun e => other (same.trans e.symm)) named.1] at named
        exact absurd named.2 (by simp)
      · next away =>
        split at named
        · rw [not_named_of_apart apart away named.2] at named
          exact absurd named.1 (by simp)
        · exact safe.1.apart k l other r named
    · rw [relay]
      exact safe.2.outputs r
  have rest : (h.writeMembers g (v.setWidth 12)).relayCond = h.relayCond ∧
      (h.writeMembers g (v.setWidth 12)).mode = h.mode ∧ (h.writeMembers g (v.setWidth 12)).stored = h.stored := by
    unfold writeMembers
    dsimp only
    split <;> exact ⟨rfl, rfl, rfl⟩
  obtain ⟨cond, mode, stored⟩ := rest
  refine ⟨⟨locked.oneOn, locked.apart, ?_, ?_, fun startup r => ?_⟩, locked.outputs, fun frozen r => ?_⟩
  · rw [stored]
    exact safe.1.storedApart
  · rw [cond, mode]
    exact safe.1.running
  · rw [relay]
    exact safe.1.offInStartup (mode ▸ startup) r
  · rw [relay]
    exact safe.2.frozen (cond ▸ frozen) r

theorem relaysSafe_countDown (safe : h.RelaysSafe) : h.countDown.RelaysSafe := by
  have alike : UnitAlike h h.countDown :=
    ⟨⟨fun r => by simp [countDown, relay], fun _ => rfl⟩, rfl, rfl, rfl⟩
  exact alike.keeps safe

theorem Halted.not_run (halted : h.Halted) : h.mode ≠ .run := by
  rcases halted with mode | mode <;> simp [mode]

theorem relaysSafe_move (h t : Hub) (safe : h.RelaysSafe) (move : Move h t) : t.RelaysSafe := by
  cases move with
  | plain same => exact same.unitAlike.keeps safe
  | claims edit => exact relaysSafe_formings (formings_of_claimMove edit) safe
  | form c => exact relaysSafe_form h c .edit safe
  | settle wrote => exact relaysSafe_formings (formings_settleSetpoints _ _ _) (wrote.unitAlike.keeps safe)
  | tune f tuned => exact (unitAlike_modWork tuned.members).keeps safe
  | fallback c x =>
    have written : UnitAlike h (h.setFallback c x) := unitAlike_modWork fun _ => rfl
    exact relaysSafe_formings (formings_formLayer _ c) (written.keeps safe)
  | soundMotion x =>
    have written : UnitAlike h (refreshMute (h.modWork fun w => { w with soundMotion := x })) :=
      ⟨⟨fun _ => ⟨rfl, rfl⟩, fun _ => rfl⟩, rfl, rfl, rfl⟩
    exact written.keeps safe
  | travel u x =>
    have written : UnitAlike h (h.modStepperItem u fun i => { i with travel := x }) := unitAlike_modWork fun _ => rfl
    exact written.keeps safe
  | rate u x =>
    have written : UnitAlike h (h.modStepperItem u fun i => { i with refRate := x }) := unitAlike_modWork fun _ => rfl
    exact relaysSafe_form _ _ _ (written.keeps safe)
  | members g v halted apart closes => exact relaysSafe_writeMembers safe apart closes
  | setpoint n x =>
    have written : UnitAlike h (h.modSetpointItem n fun _ => x) := unitAlike_modWork fun _ => rfl
    exact relaysSafe_formings (formings_settleSetpoints _ _ _)
      ((quiet_setSetpoint n _ _).unitAlike.keeps (written.keeps safe))
  | store b =>
    exact ⟨{ safe.1 with storedApart := groupsApart_copyBlock safe.1.apart safe.1.storedApart },
      safe.2.outputs, safe.2.frozen⟩
  | hold => exact relaysSafe_enterHolding safe
  | held => exact relaysSafe_checkHeld safe
  | run halted =>
    exact relaysSafe_enterRun safe (halted.elim (fun mode => by simp [mode]) Halted.not_run)
  | reset cause => exact relaysSafe_hubReset cause safe
  | load storeAnswers startup => exact relaysSafe_endLoad storeAnswers safe startup
  | append c => exact (sounderOnly_appendChime c h).unitAlike.keeps safe
  | retrigger loudness length => exact (sounderOnly_retrigger loudness length h).unitAlike.keeps safe
  | withdraw p => exact (sounderOnly_withdrawChimes p h).unitAlike.keeps safe
  | playingEnds => exact (sounderOnly_playingEnds h).unitAlike.keeps safe
  | gapEnds => exact (sounderOnly_gapEnds h).unitAlike.keeps safe
  | flash =>
    have shown : UnitAlike h h.flashBoundaryPasses := by
      unfold flashBoundaryPasses
      split
      · exact ⟨⟨fun _ => ⟨rfl, rfl⟩, fun _ => rfl⟩, rfl, rfl, rfl⟩
      · exact .refl h
    exact shown.keeps safe
  | runExpires r => exact relaysSafe_relayRunExpires r safe
  | deadExpires g => exact relaysSafe_deadTimerExpires g safe
  | reference u => exact (stepperOnly_takeReference u h).unitAlike.keeps safe
  | stepCompletes u => exact (stepperOnly_stepCompletes u h).unitAlike.keeps safe
  | referencingStepCompletes u => exact (stepperOnly_referencingStepCompletes u h).unitAlike.keeps safe
  | pauseEnds u => exact (stepperOnly_pauseEnds u h).unitAlike.keeps safe
  | released u => exact (stepperOnly_unitReleased u h).unitAlike.keeps safe
  | pass => exact relaysSafe_countDown safe

end
end Hub

/-- Settles O56: move by move. -/
theorem stepsKeepTheInterlock : Obligations.StepsKeepTheInterlock := Hub.keptByStep_of_moves Hub.relaysSafe_move

end Sys2Proof.Machine
end

section
/-! The steppers (R114 to R128): a step is made by a REFERENCED stepper within its travel, a referencing step by a REFERENCING
one, and the unit's condition fits the hub mode. -/

namespace Sys2Proof.Machine
namespace Hub

/-- A unit in condition `c` moves only with a reference, and only within its travel. -/
structure Paced (u : Fin 2) (c : StepCondition) (h : Hub) : Prop where
  cond : (h.stepper u).cond = c
  moving : ∀ d t, (h.stepper u).engine = .moving d t → (h.stepper u).ref = .referenced
  referencing : ∀ t, (h.stepper u).engine = .referencing t → (h.stepper u).ref = .referencing
  travel : (h.stepper u).ref = .referenced → (h.stepper u).pos ≤ (h.stepperItem u).travel
  up : ∀ t, (h.stepper u).engine = .moving .up t → (h.stepper u).pos < (h.stepperItem u).travel
  down : ∀ t, (h.stepper u).engine = .moving .down t → 0 < (h.stepper u).pos

section
variable {h t : Hub} {u : Fin 2} {c : StepCondition}

theorem MotionStands.paced (stands : h.MotionStands u) : h.Paced u (h.stepper u).cond :=
  ⟨rfl, stands.moving, stands.referencing, stands.travel, stands.up, stands.down⟩

/-- A unit that runs does so in RUN. -/
theorem MotionStands.run_of_running (stands : h.MotionStands u) (running : (h.stepper u).cond = .running) : h.mode = .run := by
  refine Classical.byContradiction fun away => ?_
  by_cases holding : h.mode = .holding
  · exact stands.inHolding holding running
  · have stopped := stands.elsewhere away holding
    rw [running] at stopped
    cases stopped

theorem motionStands_of_running (paced : h.Paced u .running) (run : h.mode = .run) : h.MotionStands u where
  inRun _ := paced.cond
  inHolding holding := by rw [run] at holding; cases holding
  elsewhere away _ := absurd run away
  stopped stopped := by rw [paced.cond] at stopped; cases stopped
  draining draining := by rw [paced.cond] at draining; cases draining
  moving := paced.moving
  referencing := paced.referencing
  travel := paced.travel
  up := paced.up
  down := paced.down

/-- A unit at rest, STOPPED, where the hub is not in RUN. -/
theorem motionStands_of_stopped (cond : (h.stepper u).cond = .stopped) (idle : (h.stepper u).engine = .idle)
    (travel : (h.stepper u).ref = .referenced → (h.stepper u).pos ≤ (h.stepperItem u).travel) (halted : h.mode ≠ .run) :
    h.MotionStands u where
  inRun run := absurd run halted
  inHolding _ := by simp [cond]
  elsewhere _ _ := cond
  stopped _ := idle
  draining draining := by rw [cond] at draining; cases draining
  moving d t moves := by rw [idle] at moves; cases moves
  referencing t runs := by rw [idle] at runs; cases runs
  travel := travel
  up t moves := by rw [idle] at moves; cases moves
  down t moves := by rw [idle] at moves; cases moves

/-! ## Operations of a running unit -/

theorem giveArrived_stepper (u v : Fin 2) (h : Hub) : (h.giveArrived u).stepper v = h.stepper v := by
  unfold giveArrived
  split
  · unfold giveFlagOn
    split <;> rfl
  · rfl

theorem StepperOnly.work (a : StepperOnly u h t) : t.work = h.work := by rw [a.rest]

theorem StepperOnly.mode (a : StepperOnly u h t) : t.mode = h.mode := by rw [a.rest]

theorem StepperOnly.stepperItem (a : StepperOnly u h t) (v : Fin 2) : t.stepperItem v = h.stepperItem v := by
  rw [Hub.stepperItem, a.work]
  rfl

theorem stepper_modStepper_same (u : Fin 2) (f : Stepper → Stepper) (h : Hub) :
    (h.modStepper u f).stepper u = f (h.stepper u) := by
  rw [stepper_modStepper, if_pos rfl]

/-- What is written over a unit: no more than its new stepper has to be looked at. -/
theorem paced_modStepper {f : Stepper → Stepper} {x : Stepper} (written : f (h.stepper u) = x) (cond : x.cond = c)
    (moving : ∀ d t, x.engine = .moving d t → x.ref = .referenced)
    (referencing : ∀ t, x.engine = .referencing t → x.ref = .referencing)
    (travel : x.ref = .referenced → x.pos ≤ (h.stepperItem u).travel)
    (up : ∀ t, x.engine = .moving .up t → x.pos < (h.stepperItem u).travel)
    (down : ∀ t, x.engine = .moving .down t → 0 < x.pos) : (h.modStepper u f).Paced u c := by
  subst written
  constructor <;> rw [stepper_modStepper_same] <;> assumption

/-- An engine that neither moves nor references only needs its position within the travel. -/
theorem paced_still {f : Stepper → Stepper} (cond : (f (h.stepper u)).cond = c)
    (still : (∀ d t, (f (h.stepper u)).engine ≠ .moving d t) ∧ ∀ t, (f (h.stepper u)).engine ≠ .referencing t)
    (travel : (f (h.stepper u)).ref = .referenced → (f (h.stepper u)).pos ≤ (h.stepperItem u).travel) :
    (h.modStepper u f).Paced u c :=
  paced_modStepper rfl cond (fun d t moves => absurd moves (still.1 d t)) (fun t runs => absurd runs (still.2 t)) travel
    (fun t moves => absurd moves (still.1 _ t)) (fun t moves => absurd moves (still.1 _ t))

theorem Paced.giveArrived (paced : h.Paced u c) (v : Fin 2) : (h.giveArrived v).Paced u c := by
  have item := (stepperOnly_giveArrived v h).stepperItem u
  constructor <;> rw [giveArrived_stepper] <;> first | rw [item] | skip
  · exact paced.cond
  · exact paced.moving
  · exact paced.referencing
  · exact paced.travel
  · exact paced.up
  · exact paced.down

theorem pursued_le (away : (h.stepper u).pos ≠ h.pursued u) : h.pursued u ≤ (h.stepperItem u).travel := by
  unfold pursued at away ⊢
  split
  · exact Nat.min_le_right ..
  · next none =>
    split at away
    · next some => exact absurd some (none _ _ _)
    · exact absurd rfl away

/-- A decision of a REFERENCED stepper within its travel (R116). -/
theorem paced_decision (cond : (h.stepper u).cond = c) (ref : (h.stepper u).ref = .referenced)
    (travel : (h.stepper u).pos ≤ (h.stepperItem u).travel) : (h.decision u).Paced u c := by
  unfold decision
  dsimp only
  rw [if_neg (by simp [ref])]
  split
  · exact Paced.giveArrived (paced_still cond (by simp) fun _ => travel) u
  · next away =>
    split
    · exact paced_still cond (by simp) fun _ => travel
    · have within := pursued_le away
      split <;> split
      · exact paced_still cond (by simp) fun _ => travel
      · next below _ =>
        exact paced_modStepper rfl cond (fun _ _ _ => ref) (by simp) (fun _ => travel) (fun _ _ => Nat.lt_of_lt_of_le below within)
          (by simp)
      · exact paced_still cond (by simp) fun _ => travel
      · next above _ =>
        exact paced_modStepper rfl cond (fun _ _ _ => ref) (by simp) (fun _ => travel) (by simp)
          (fun _ _ => Nat.zero_lt_of_lt (Nat.lt_of_le_of_ne (Nat.not_lt.mp above) (Ne.symm away)))

theorem paced_decide (paced : h.Paced u c) : (h.decision u).Paced u c := by
  by_cases ref : (h.stepper u).ref = .referenced
  · exact paced_decision paced.cond ref (paced.travel ref)
  · unfold decision
    dsimp only
    rw [if_pos (by simp [ref])]
    exact paced

theorem paced_startRunStep (cond : (h.stepper u).cond = c) (ref : (h.stepper u).ref = .referencing) :
    (h.startRunStep u).Paced u c := by
  unfold startRunStep pauseStepper
  split
  · exact paced_still cond (by simp) (by simp [ref])
  · exact paced_modStepper rfl cond (by simp) (fun _ _ => ref) (by simp [ref]) (by simp) (by simp)

theorem paced_startRun (cond : (h.stepper u).cond = c) : (h.startRun u).Paced u c := by
  unfold startRun
  dsimp only
  split
  · refine paced_still ?_ ?_ ?_
    · rw [stepper_modStepper_same]; exact cond
    · simp
    · simp [stepper_modStepper_same]
  · exact paced_startRunStep (by rw [stepper_modStepper_same]; exact cond) (by rw [stepper_modStepper_same])

theorem paced_goOn (paced : h.Paced u c) : (h.goOn u).Paced u c := by
  unfold goOn
  split
  · next runs => exact paced_startRunStep paced.cond (by simpa using runs)
  · split
    · exact paced_startRun paced.cond
    · exact paced_decide paced

theorem paced_stepperTakes (change : Bool) (paced : h.Paced u c) : (h.stepperTakes u change).Paced u c := by
  unfold stepperTakes
  split
  · split
    · exact paced_decide paced
    · split
      · exact paced
      · exact paced_decide paced
    all_goals exact paced
  · exact paced

/-- A unit that is not running takes nothing. -/
theorem stepperTakes_halted (change : Bool) (halted : (h.stepper u).cond ≠ .running) : h.stepperTakes u change = h := by
  unfold stepperTakes
  rw [if_neg (by simp [halted])]

theorem Paced.alike {v : Hub} (paced : h.Paced u c) (stepper : v.stepper u = h.stepper u)
    (travel : (v.stepperItem u).travel = (h.stepperItem u).travel) : v.Paced u c := by
  constructor <;> rw [stepper]
  · exact paced.cond
  · exact paced.moving
  · exact paced.referencing
  · rw [travel]; exact paced.travel
  · rw [travel]; exact paced.up
  · exact paced.down

theorem Paced.other {v : Fin 2} (paced : h.Paced u c) (moved : StepperOnly v h t) (apart : u ≠ v) : t.Paced u c :=
  paced.alike (moved.others u apart) (by rw [moved.stepperItem])

theorem paced_autoReference (v : Fin 2) (paced : h.Paced u c) : (h.autoReference v).Paced u c := by
  by_cases same : u = v
  · subst same
    unfold autoReference
    split
    · exact paced_startRun paced.cond
    · exact paced
  · exact paced.other (stepperOnly_autoReference v h) same

theorem paced_takeReference (paced : h.Paced u c) : (h.takeReference u).Paced u c := by
  unfold takeReference
  split
  · exact paced_startRun paced.cond
  · exact paced_modStepper rfl paced.cond paced.moving paced.referencing paced.travel paced.up paced.down
  · exact paced_modStepper rfl paced.cond paced.moving paced.referencing paced.travel paced.up paced.down
  · exact paced_modStepper rfl paced.cond paced.moving paced.referencing paced.travel paced.up paced.down
  · exact paced

/-! ## The ends of steps, in any condition -/

theorem motionStands_comeToRest (travel : (h.stepper u).ref = .referenced → (h.stepper u).pos ≤ (h.stepperItem u).travel)
    (halted : h.mode ≠ .run) : (h.comeToRest u).MotionStands u := by
  refine motionStands_of_stopped ?_ ?_ ?_ halted <;> rw [comeToRest, stepper_modStepper_same]
  exact travel

theorem MotionStands.alike {v : Hub} (stands : h.MotionStands u) (mode : v.mode = h.mode)
    (stepper : v.stepper u = h.stepper u) (travel : (v.stepperItem u).travel = (h.stepperItem u).travel) :
    v.MotionStands u := by
  constructor <;> (try rw [mode]) <;> rw [stepper]
  · exact stands.inRun
  · exact stands.inHolding
  · exact stands.elsewhere
  · exact stands.stopped
  · exact stands.draining
  · exact stands.moving
  · exact stands.referencing
  · rw [travel]; exact stands.travel
  · rw [travel]; exact stands.up
  · exact stands.down

theorem MotionStands.giveArrived (stands : h.MotionStands u) (v : Fin 2) : (h.giveArrived v).MotionStands u :=
  stands.alike (stepperOnly_giveArrived v h).mode (giveArrived_stepper v u h)
    (by rw [(stepperOnly_giveArrived v h).stepperItem])

theorem motionStands_drainStep (travel : (h.stepper u).ref = .referenced → (h.stepper u).pos ≤ (h.stepperItem u).travel)
    (halted : h.mode ≠ .run) : (h.drainStep u).MotionStands u := by
  unfold drainStep
  dsimp only
  split
  · exact (motionStands_comeToRest travel halted).giveArrived u
  · exact motionStands_comeToRest travel halted

theorem MotionStands.halted (stands : h.MotionStands u) (cond : (h.stepper u).cond ≠ .running) : h.mode ≠ .run :=
  fun run => cond (stands.inRun run)

theorem motionStands_stepCompletes (stands : h.MotionStands u) : (h.stepCompletes u).MotionStands u := by
  unfold stepCompletes
  split
  · next d left moves =>
    dsimp only
    have ref := stands.moving d left moves
    have travel : (match (generalizing := false) d with
        | .up => (h.stepper u).pos + 1
        | .down => (h.stepper u).pos - 1) ≤ (h.stepperItem u).travel := by
      cases d with
      | up => exact stands.up left moves
      | down => exact Nat.le_trans (Nat.sub_le ..) (stands.travel ref)
    split
    · next running =>
      have run := stands.run_of_running running
      split
      · exact motionStands_of_running (paced_startRun (by rw [stepper_modStepper_same]; exact running))
          ((stepperOnly_startRun u _).mode.trans run)
      · refine motionStands_of_running (paced_decision ?_ ?_ ?_) ((stepperOnly_decision u _).mode.trans run) <;>
          rw [stepper_modStepper_same]
        · exact running
        · exact ref
        · exact travel
    · next draining =>
      exact motionStands_drainStep (by rw [stepper_modStepper_same]; exact fun _ => travel)
        (stands.halted (by simp [draining]))
    · next stopped =>
      exact motionStands_drainStep (by rw [stepper_modStepper_same]; exact fun _ => travel)
        (stands.halted (by simp [stopped]))
  all_goals exact stands

theorem motionStands_abortRun (halted : h.mode ≠ .run) : ((h.abortRun u).comeToRest u).MotionStands u :=
  motionStands_comeToRest (by rw [abortRun, stepper_modStepper_same]; simp) halted

theorem motionStands_referencingStepCompletes (stands : h.MotionStands u) :
    (h.referencingStepCompletes u).MotionStands u := by
  unfold referencingStepCompletes
  split
  · next left runs =>
    dsimp only
    have ref := stands.referencing left runs
    split
    · next running =>
      have run := stands.run_of_running running
      split
      · refine motionStands_of_running (paced_decision ?_ ?_ ?_) ((stepperOnly_decision u _).mode.trans run) <;>
          rw [stepper_modStepper_same]
        · rw [stepper_modStepper_same]; exact running
        · exact Nat.zero_le _
      · exact motionStands_of_running (paced_startRunStep (by rw [stepper_modStepper_same]; exact running)
          (by rw [stepper_modStepper_same]; exact ref)) ((stepperOnly_startRunStep u _).mode.trans run)
    · next draining => exact motionStands_abortRun (stands.halted (by simp [draining]))
    · next stopped => exact motionStands_abortRun (stands.halted (by simp [stopped]))
  all_goals exact stands

theorem motionStands_pauseEnds (stands : h.MotionStands u) : (h.pauseEnds u).MotionStands u := by
  unfold pauseEnds
  split
  · next left pauses =>
    have running : (h.stepper u).cond = .running := by
      cases cond : (h.stepper u).cond with
      | running => rfl
      | stopped =>
        have idle := stands.stopped cond
        rw [pauses] at idle
        cases idle
      | draining =>
        rcases stands.draining cond with ⟨d, t, moves⟩ | ⟨t, runs⟩
        · rw [pauses] at moves; cases moves
        · rw [pauses] at runs; cases runs
    have paced : (h.modStepper u fun t => { t with lastDir := none }).Paced u .running :=
      paced_modStepper rfl running stands.moving stands.referencing stands.travel stands.up stands.down
    exact motionStands_of_running (paced_goOn paced) ((stepperOnly_goOn u _).mode.trans (stands.run_of_running running))
  all_goals exact stands

theorem motionStands_unitReleased (stands : h.MotionStands u) : (h.unitReleased u).MotionStands u := by
  unfold unitReleased
  split
  · next waits =>
    have running : (h.stepper u).cond = .running := by simp only [Bool.and_eq_true, beq_iff_eq] at waits; exact waits.1
    exact motionStands_of_running (paced_goOn (running ▸ stands.paced))
      ((stepperOnly_goOn u _).mode.trans (stands.run_of_running running))
  · exact stands

/-! ## The whole part -/

/-- Both steppers stand. -/
def SteppersStand (h : Hub) : Prop := ∀ u, h.MotionStands u

/-- An operation of one unit leaves the other as it stands. -/
theorem steppersStand_of_stepperOnly (moved : StepperOnly u h t) (stand : h.SteppersStand) (own : t.MotionStands u) :
    t.SteppersStand := by
  intro v
  by_cases same : v = u
  · exact same ▸ own
  · exact (stand v).alike moved.mode (moved.others v same) (by rw [moved.stepperItem])

/-- The steppers, their travel and the mode are as they were. -/
structure MotionAlike (h t : Hub) : Prop where
  mode : t.mode = h.mode
  steppers : t.steppers = h.steppers
  travel : ∀ u, (t.stepperItem u).travel = (h.stepperItem u).travel

theorem MotionAlike.keeps (a : MotionAlike h t) (stand : h.SteppersStand) : t.SteppersStand :=
  fun u => (stand u).alike a.mode (by rw [stepper, a.steppers]; rfl) (a.travel u)

theorem Calm.motionAlike (a : Calm h t) : MotionAlike h t := ⟨a.mode, a.steppers, fun u => by rw [stepperItem, a.work]; rfl⟩

theorem SounderOnly.motionAlike (a : SounderOnly h t) : MotionAlike h t := by rw [a.rest]; exact ⟨rfl, rfl, fun _ => rfl⟩

theorem RelaySide.motionAlike (a : RelaySide h t) : MotionAlike h t := by rw [a.rest]; exact ⟨rfl, rfl, fun _ => rfl⟩

theorem motionAlike_modWork {f : Blocks → Blocks}
    (same : ∀ u : Fin 2, (f h.work).steppers[u].travel = h.work.steppers[u].travel) : MotionAlike h (h.modWork f) :=
  ⟨rfl, rfl, same⟩

theorem motionAlike_taken (c : Fin 23) (pair : Pair) (h : Hub) :
    MotionAlike h (h.modChan c fun x => { x with taken := some pair }) := ⟨rfl, rfl, fun _ => rfl⟩

theorem MotionAlike.trans {v : Hub} (a : MotionAlike h t) (b : MotionAlike t v) : MotionAlike h v :=
  ⟨b.mode.trans a.mode, b.steppers.trans a.steppers, fun u => (b.travel u).trans (a.travel u)⟩

/-- A hand-over moves the steppers only where a running one is handed to. -/
theorem motionAlike_handOverAs {c : Fin 23} (change : Bool) (pair : Pair) (h : Hub)
    (away : ∀ u, outputOf c = .stepper u → (h.stepper u).cond ≠ .running) : MotionAlike h (h.handOverAs c change pair) := by
  refine (motionAlike_taken c pair h).trans ?_
  unfold handOverAs
  dsimp only
  split
  · exact (relaySide_relayTakes _ change _ h).motionAlike
  · split <;> exact ⟨rfl, rfl, fun _ => rfl⟩
  · exact (sounderOnly_sounderTakes change _).motionAlike
  · next u out =>
    have halted : ((h.modChan c fun x => { x with taken := some pair }).stepper u).cond ≠ .running := away u out
    rw [stepperTakes_halted change halted]
    exact ⟨rfl, rfl, fun _ => rfl⟩

theorem steppersStand_handOver (c : Fin 23) (pair : Pair) (stand : h.SteppersStand) (run : h.mode = .run) :
    (h.handOver c pair).SteppersStand := by
  by_cases stepper : ∃ u, outputOf c = .stepper u
  · obtain ⟨u, out⟩ := stepper
    have taken := (motionAlike_taken c pair h).keeps stand
    have paced := (taken u).paced
    rw [(taken u).inRun run] at paced
    unfold handOver handOverAs
    rw [out]
    exact steppersStand_of_stepperOnly (stepperOnly_stepperTakes u _ _) taken
      (motionStands_of_running (paced_stepperTakes _ paced) ((stepperOnly_stepperTakes u _ _).mode.trans run))
  · exact (motionAlike_handOverAs _ pair h fun u out => absurd ⟨u, out⟩ stepper).keeps stand

theorem steppersStand_of_calm (h t : Hub) (stand : h.SteppersStand) (same : Calm h t) : t.SteppersStand :=
  same.motionAlike.keeps stand

theorem steppersStand_form (h : Hub) (c : Fin 23) (cause : FormCause) (stand : h.SteppersStand) :
    (h.form c cause).SteppersStand :=
  form_keeps steppersStand_of_calm (fun _ c pair holds run => steppersStand_handOver c pair holds run) stand c cause

theorem steppersStand_formings (made : Formings h t) (stand : h.SteppersStand) : t.SteppersStand :=
  made.keeps steppersStand_of_calm steppersStand_form stand

/-! ## The changes of mode -/

/-- The entry into RUN hands over before it thaws: no unit runs yet, and none moves (R15, R168). -/
theorem motionAlike_handWaitings (everyChannel : Bool) : ∀ (xs : List (Fin 23)) (h : Hub),
    (∀ u, (h.stepper u).cond ≠ .running) → MotionAlike h (xs.foldl (handWaiting everyChannel) h)
  | [], _, _ => ⟨rfl, rfl, fun _ => rfl⟩
  | c :: xs, h, halted => by
    have one : MotionAlike h (h.handWaiting everyChannel c) := by
      unfold handWaiting
      split
      · exact (motionAlike_handOverAs true _ h fun u _ => halted u).trans ⟨rfl, rfl, fun _ => rfl⟩
      · split
        · exact (motionAlike_handOverAs _ _ h fun u _ => halted u).trans ⟨rfl, rfl, fun _ => rfl⟩
        · exact ⟨rfl, rfl, fun _ => rfl⟩
    exact one.trans (motionAlike_handWaitings everyChannel xs _ fun u => by
      rw [stepper, one.steppers]
      exact halted u)

theorem paced_thawUnit (changed : Bool) (paced : h.Paced u c) (halted : c ≠ .running) :
    (h.thawUnit u changed).Paced u .running := by
  have running : (h.modStepper u fun t => { t with cond := .running }).Paced u .running :=
    paced_modStepper rfl rfl paced.moving paced.referencing paced.travel paced.up paced.down
  unfold thawUnit
  dsimp only
  split
  · next runs => exact absurd (paced.cond.symm.trans runs) halted
  · exact running
  · split
    · exact paced_decide running
    · exact running

theorem steppersStand_enterRun (stand : h.SteppersStand) (halted : h.mode ≠ .run) : h.enterRun.SteppersStand := by
  have still (u : Fin 2) : (h.stepper u).cond ≠ .running := fun runs => halted ((stand u).run_of_running runs)
  have handed := motionAlike_handWaitings h.starting (List.finRange 23) { h with mode := .run } still
  generalize same : (List.finRange 23).foldl (handWaiting h.starting) { h with mode := .run } = m at handed
  have before (u : Fin 2) : m.thawRelays.thawSounder.Paced u (h.stepper u).cond :=
    (stand u).paced.alike (by
      rw [stepper, (sounderOnly_thawSounder _).motionAlike.steppers, (relaySide_thawRelays m).motionAlike.steppers]
      rw [show ({ m with relayCond := .running } : Hub).steppers = m.steppers from rfl, handed.steppers]
      rfl) (by
      rw [(sounderOnly_thawSounder _).motionAlike.travel, (relaySide_thawRelays m).motionAlike.travel]
      exact handed.travel u)
  have thawed (changed : Fin 2 → Bool) (u : Fin 2) : (m.thaw changed).Paced u .running := by
    have zero : (m.thawRelays.thawSounder.thawUnit 0 (changed 0)).Paced 0 .running :=
      paced_thawUnit _ (before 0) (still 0)
    have one : (m.thawRelays.thawSounder.thawUnit 0 (changed 0)).Paced 1 (h.stepper 1).cond :=
      (before 1).other (stepperOnly_thawUnit 0 _ _) (by decide)
    match u with
    | 0 => exact zero.other (stepperOnly_thawUnit 1 _ _) (by decide)
    | 1 => exact paced_thawUnit _ one (still 1)
  have mode (changed : Fin 2 → Bool) : (m.thaw changed).mode = .run := by
    rw [thaw, (stepperOnly_thawUnit 1 _ _).mode, (stepperOnly_thawUnit 0 _ _).mode,
      (sounderOnly_thawSounder _).motionAlike.mode, (relaySide_thawRelays m).motionAlike.mode]
    exact handed.mode
  unfold enterRun
  dsimp only
  rw [same]
  intro u
  split
  · exact motionStands_of_running (paced_autoReference 1 (paced_autoReference 0 (thawed _ u)))
      ((stepperOnly_autoReference 1 _).mode.trans ((stepperOnly_autoReference 0 _).mode.trans (mode _)))
  · exact motionStands_of_running (thawed _ u) (mode _)

/-- The entry into HELD finds both engines IDLE, so that neither unit drains. -/
theorem steppersStand_checkHeld (stand : h.SteppersStand) : h.checkHeld.SteppersStand := by
  unfold checkHeld
  split
  · next rest =>
    simp only [Bool.and_eq_true, beq_iff_eq, atRest] at rest
    obtain ⟨holding, zero, one⟩ := rest
    refine (plain_giveAll ..).motionAlike.keeps fun u => ?_
    have idle : (h.stepper u).engine = .idle := match u with
      | 0 => zero
      | 1 => one
    have stopped : (h.stepper u).cond = .stopped := by
      cases cond : (h.stepper u).cond with
      | stopped => rfl
      | running => exact absurd cond ((stand u).inHolding holding)
      | draining =>
        rcases (stand u).draining cond with ⟨d, t, moves⟩ | ⟨t, runs⟩
        · rw [idle] at moves; cases moves
        · rw [idle] at runs; cases runs
    exact motionStands_of_stopped stopped idle (stand u).travel (by simp)
  · exact stand

/-- The drain of a running unit: it goes on with its step, or comes to rest (R125). -/
theorem motionStands_drainUnit (paced : h.Paced u c) (holding : h.mode = .holding) : (h.drainUnit u).MotionStands u := by
  have halted : h.mode ≠ .run := by simp [holding]
  have rested := motionStands_comeToRest paced.travel halted
  have drains (engine : (∃ d t, (h.stepper u).engine = .moving d t) ∨ ∃ t, (h.stepper u).engine = .referencing t) :
      (h.modStepper u fun t => { t with cond := .draining }).MotionStands u := by
    have paced : (h.modStepper u fun t => { t with cond := .draining }).Paced u .draining :=
      paced_modStepper rfl rfl paced.moving paced.referencing paced.travel paced.up paced.down
    exact {
      inRun := fun run => absurd run halted
      inHolding := fun _ => by simp [paced.cond]
      elsewhere := fun _ away => absurd holding away
      stopped := fun stopped => by rw [paced.cond] at stopped; cases stopped
      draining := fun _ => by rw [stepper_modStepper_same]; exact engine
      moving := paced.moving
      referencing := paced.referencing
      travel := paced.travel
      up := paced.up
      down := paced.down }
  unfold drainUnit
  split
  · exact rested
  · next moves => exact drains (.inl ⟨_, _, moves⟩)
  · next runs => exact drains (.inr ⟨_, runs⟩)
  all_goals
    split
    · exact motionStands_abortRun halted
    · exact rested

theorem steppersStand_enterHolding (stand : h.SteppersStand) : h.enterHolding.SteppersStand := by
  have frozen := (sounderOnly_freezeSounder (freezeRelays { h with mode := .holding })).motionAlike
  have before (u : Fin 2) : (freezeRelays { h with mode := .holding }).freezeSounder.Paced u (h.stepper u).cond :=
    (stand u).paced.alike (by rw [stepper, frozen.steppers]; rfl) (frozen.travel u)
  have first := stepperOnly_drainUnit 0 (freezeRelays { h with mode := .holding }).freezeSounder
  refine steppersStand_checkHeld fun u => ?_
  match u with
  | 0 =>
    have second := stepperOnly_drainUnit 1 ((freezeRelays { h with mode := .holding }).freezeSounder.drainUnit 0)
    exact (motionStands_drainUnit (before 0) frozen.mode).alike second.mode (second.others 0 (by decide))
      (by rw [second.stepperItem])
  | 1 => exact motionStands_drainUnit ((before 1).other first (by decide)) (first.mode.trans frozen.mode)

/-! ## Resets and the load -/

theorem stepper_hubReset (cause : ResetCause) (h : Hub) (u : Fin 2) :
    (h.hubReset cause).stepper u =
      { ref := if (cause == .software && (h.stepper u).ref == .referenced) = true then .referenced else .unreferenced
        engine := .idle, pos := (h.stepper u).pos, lastDir := none, runCount := 0, refReq := false, cond := .stopped
        dirUp := cause == .software && (h.stepper u).dirUp, pulses := (h.stepper u).pulses } := by
  have abandoned : h.abandonWrite.steppers = h.steppers := by
    unfold abandonWrite
    split <;> rfl
  have units : (h.hubReset cause).stepper u = (((resetController cause h.abandonWrite).resetUnit 0
    (cause == .software)).resetUnit 1 (cause == .software)).stepper u := rfl
  rw [units, resetUnit, resetUnit, stepper_modStepper, stepper_modStepper, stepper_modStepper]
  have start (v : Fin 2) : (resetController cause h.abandonWrite).stepper v = h.stepper v := by
    rw [stepper, stepper, ← abandoned]
    rfl
  match u with
  | 0 => simp [start]
  | 1 => simp [start]

theorem steppersStand_hubReset (cause : ResetCause) (stand : h.SteppersStand) : (h.hubReset cause).SteppersStand := by
  intro u
  refine motionStands_of_stopped (by rw [stepper_hubReset]) (by rw [stepper_hubReset]) (fun kept => ?_) (by
    rw [show (h.hubReset cause).mode = .startup from rfl]; simp)
  rw [stepperItem, (hubReset_copies cause h).1, stepper_hubReset]
  rw [stepper_hubReset] at kept
  refine (stand u).travel ?_
  simp only [Bool.and_eq_true, beq_iff_eq] at kept
  refine Classical.byContradiction fun lost => ?_
  simp [lost] at kept

/-- The check of a kept reference moves nothing and takes nothing but the reference, which then is within the travel
(R128). -/
theorem checkReference_stepper (u v : Fin 2) (h : Hub) :
    ((h.checkReference u).stepper v).engine = (h.stepper v).engine ∧
      ((h.checkReference u).stepper v).cond = (h.stepper v).cond := by
  unfold checkReference
  split
  · rw [stepper_modStepper]
    split
    · next same => subst same; exact ⟨rfl, rfl⟩
    · exact ⟨rfl, rfl⟩
  · exact ⟨rfl, rfl⟩

theorem checkReference_travel (u : Fin 2) (h : Hub) (kept : ((h.checkReference u).stepper u).ref = .referenced) :
    ((h.checkReference u).stepper u).pos ≤ ((h.checkReference u).stepperItem u).travel := by
  unfold checkReference at kept ⊢
  split at kept
  · rw [stepper_modStepper_same] at kept
    cases kept
  · next within =>
    rw [if_neg within]
    simp only [Bool.and_eq_true, beq_iff_eq, decide_eq_true_eq, not_and, Nat.not_lt] at within
    exact within kept

/-- With both references checked, a part at rest out of RUN stands, whatever its travel limits were before. -/
theorem steppersStand_checkReferences (halted : h.mode ≠ .run)
    (rest : ∀ u, (h.stepper u).cond = .stopped ∧ (h.stepper u).engine = .idle) :
    ((h.checkReference 0).checkReference 1).SteppersStand := by
  have second := stepperOnly_checkReference 1 (h.checkReference 0)
  have mode : ((h.checkReference 0).checkReference 1).mode ≠ .run := by
    rwa [second.mode, (stepperOnly_checkReference 0 h).mode]
  intro u
  have same (v : Fin 2) := checkReference_stepper v u
  refine motionStands_of_stopped ?_ ?_ (fun kept => ?_) mode
  · rw [(same 1 _).2, (same 0 h).2]
    exact (rest u).1
  · rw [(same 1 _).1, (same 0 h).1]
    exact (rest u).2
  · match u with
    | 0 =>
      rw [second.others 0 (by decide)] at kept ⊢
      rw [second.stepperItem]
      exact checkReference_travel 0 h kept
    | 1 => exact checkReference_travel 1 _ kept

theorem loadResults_steppers (storeAnswers : Bool) (h : Hub) :
    (h.loadResults storeAnswers).steppers = h.steppers ∧ (h.loadResults storeAnswers).mode = h.mode := by
  rw [loadResults_eq, loadOnly_loadedBlocks storeAnswers h]
  exact ⟨rfl, rfl⟩

theorem steppersStand_faultHold (stand : h.SteppersStand) (startup : h.mode = .startup) :
    ({ h with mode := .faultHold } : Hub).SteppersStand := fun u => by
  have stopped := (stand u).elsewhere (by simp [startup]) (by simp [startup])
  exact motionStands_of_stopped stopped ((stand u).stopped stopped) (stand u).travel (by simp)

theorem steppersStand_endLoad (storeAnswers : Bool) (stand : h.SteppersStand) (startup : h.mode = .startup) :
    (h.endLoad storeAnswers).SteppersStand := by
  obtain ⟨steppers, mode⟩ := loadResults_steppers storeAnswers h
  have before : (h.loadResults storeAnswers).readRelayRuns.mode = .startup := mode.trans startup
  have compared := steppersStand_checkReferences (h := (h.loadResults storeAnswers).readRelayRuns) (by simp [before])
    fun u => by
      have stopped := (stand u).elsewhere (by simp [startup]) (by simp [startup])
      have unit : (h.loadResults storeAnswers).readRelayRuns.stepper u = h.stepper u := by
        rw [stepper, stepper, ← steppers]
        rfl
      rw [unit]
      exact ⟨stopped, (stand u).stopped stopped⟩
  have pass (m : Hub) (c : Fin 23) (holds : m.SteppersStand ∧ m.mode = .startup) :
      (m.passLoaded c).SteppersStand ∧ (m.passLoaded c).mode = .startup := by
    have input := Calm.motionAlike (calm_modChan (c := c) (h := m) (f := fun x => { x with input := m.localLayer c }) rfl)
    exact ⟨steppersStand_form _ c .load (input.keeps holds.1), (form_mode ..).trans (input.mode.trans holds.2)⟩
  have passed := List.foldlRecOn (motive := fun m : Hub => m.SteppersStand ∧ m.mode = .startup) (List.finRange 23)
    passLoaded ⟨compared, by rw [(stepperOnly_checkReference 1 _).mode, (stepperOnly_checkReference 0 _).mode, before]⟩
    fun m holds c _ => pass m c holds
  have lit (m : Hub) : MotionAlike m (showLamps { m with flash := some 0 }) := ⟨rfl, rfl, fun _ => rfl⟩
  have stands := (lit _).keeps passed.1
  have halted := ((lit _).mode.trans passed.2 : _ = HubMode.startup)
  unfold endLoad
  dsimp only
  split
  · exact steppersStand_faultHold stands halted
  · exact steppersStand_enterRun stands (by rw [halted]; simp)

theorem tickEngine_moving {e : StepEngine} {d : Dir} {left : Nat} (moves : tickEngine e = .moving d left) :
    ∃ before, e = .moving d before := by
  cases e <;> simp_all [tickEngine]

theorem tickEngine_referencing {e : StepEngine} {left : Nat} (runs : tickEngine e = .referencing left) :
    ∃ before, e = .referencing before := by
  cases e <;> simp_all [tickEngine]

theorem steppersStand_countDown (stand : h.SteppersStand) : h.countDown.SteppersStand := by
  intro u
  have stands := stand u
  constructor <;> rw [stepper_countDown] <;> dsimp only
  · exact stands.inRun
  · exact stands.inHolding
  · exact stands.elsewhere
  · exact fun stopped => by rw [stands.stopped stopped]; rfl
  · refine fun draining => (stands.draining draining).imp ?_ ?_
    · rintro ⟨d, t, moves⟩
      exact ⟨d, t - 1, by rw [moves]; rfl⟩
    · rintro ⟨t, runs⟩
      exact ⟨t - 1, by rw [runs]; rfl⟩
  · intro d t moves
    obtain ⟨before, moves⟩ := tickEngine_moving moves
    exact stands.moving d before moves
  · intro t runs
    obtain ⟨before, runs⟩ := tickEngine_referencing runs
    exact stands.referencing before runs
  · exact stands.travel
  · intro t moves
    obtain ⟨before, moves⟩ := tickEngine_moving moves
    exact stands.up before moves
  · intro t moves
    obtain ⟨before, moves⟩ := tickEngine_moving moves
    exact stands.down before moves

theorem stepperItem_modStepperItem (u v : Fin 2) (f : StepperItem → StepperItem) (h : Hub) :
    (h.modStepperItem u f).stepperItem v = if u = v then f (h.stepperItem u) else h.stepperItem v := by
  by_cases same : u = v
  · subst same
    simp [modStepperItem, stepperItem, modWork]
  · have apart : u.val ≠ v.val := fun e => same (Fin.ext e)
    simp [modStepperItem, stepperItem, modWork, same, apart]

/-- A travel limit is written in HELD or FAULT_HOLD, with both units at rest, and not below a REFERENCED position (R177). -/
theorem steppersStand_travel {x : Nat} (stand : h.SteppersStand) (halted : h.Halted)
    (room : h.travelTooLow u x = false) : (h.modStepperItem u fun i => { i with travel := x }).SteppersStand := by
  intro v
  have stopped : (h.stepper v).cond = .stopped :=
    (stand v).elsewhere halted.not_run (by rcases halted with mode | mode <;> simp [mode])
  refine motionStands_of_stopped stopped ((stand v).stopped stopped) (fun ref => ?_) halted.not_run
  rw [stepperItem_modStepperItem]
  split
  · next same =>
    subst same
    have ref : (h.stepper u).ref = .referenced := ref
    simp only [travelTooLow, Bool.or_eq_false_iff, Bool.and_eq_false_iff, beq_eq_false_iff_ne, decide_eq_false_iff_not,
      Nat.not_lt] at room
    exact room.1.1.resolve_left (absurd ref)
  · exact (stand v).travel ref

theorem steppersStand_move (h t : Hub) (stand : h.SteppersStand) (move : Move h t) : t.SteppersStand := by
  cases move with
  | plain same => exact same.motionAlike.keeps stand
  | claims edit => exact steppersStand_formings (formings_of_claimMove edit) stand
  | form c => exact steppersStand_form h c .edit stand
  | settle wrote => exact steppersStand_formings (formings_settleSetpoints _ _ _) (wrote.motionAlike.keeps stand)
  | tune f tuned => exact (motionAlike_modWork fun u => (tuned.steppers u).1).keeps stand
  | fallback c x =>
    have written : MotionAlike h (h.setFallback c x) := motionAlike_modWork fun _ => rfl
    exact steppersStand_formings (formings_formLayer _ c) (written.keeps stand)
  | soundMotion x =>
    have written : MotionAlike h (refreshMute (h.modWork fun w => { w with soundMotion := x })) := ⟨rfl, rfl, fun _ => rfl⟩
    exact written.keeps stand
  | travel u x halted room => exact steppersStand_travel stand halted room
  | rate u x =>
    have written : MotionAlike h (h.modStepperItem u fun i => { i with refRate := x }) :=
      ⟨rfl, rfl, fun v => by rw [stepperItem_modStepperItem]; split <;> simp_all⟩
    exact steppersStand_form _ _ _ (written.keeps stand)
  | members g v =>
    have written : MotionAlike h (h.writeMembers g (v.setWidth 12)) := by
      unfold writeMembers
      dsimp only
      split <;> exact ⟨rfl, rfl, fun _ => rfl⟩
    exact written.keeps stand
  | setpoint n x =>
    have written : MotionAlike h (h.modSetpointItem n fun _ => x) := motionAlike_modWork fun _ => rfl
    exact steppersStand_formings (formings_settleSetpoints _ _ _)
      ((quiet_setSetpoint n _ _).motionAlike.keeps (written.keeps stand))
  | store b =>
    have stored : MotionAlike h { h with stored := Blocks.copyBlock b h.work h.stored } := ⟨rfl, rfl, fun _ => rfl⟩
    exact stored.keeps stand
  | hold => exact steppersStand_enterHolding stand
  | held => exact steppersStand_checkHeld stand
  | run halted => exact steppersStand_enterRun stand (halted.elim (fun mode => by simp [mode]) Halted.not_run)
  | reset cause => exact steppersStand_hubReset cause stand
  | load storeAnswers startup => exact steppersStand_endLoad storeAnswers stand startup
  | append c => exact (sounderOnly_appendChime c h).motionAlike.keeps stand
  | retrigger loudness length => exact (sounderOnly_retrigger loudness length h).motionAlike.keeps stand
  | withdraw p => exact (sounderOnly_withdrawChimes p h).motionAlike.keeps stand
  | playingEnds => exact (sounderOnly_playingEnds h).motionAlike.keeps stand
  | gapEnds => exact (sounderOnly_gapEnds h).motionAlike.keeps stand
  | flash =>
    have shown : MotionAlike h h.flashBoundaryPasses := by
      unfold flashBoundaryPasses
      split <;> exact ⟨rfl, rfl, fun _ => rfl⟩
    exact shown.keeps stand
  | runExpires r => exact (relaySide_relayRunExpires r h).motionAlike.keeps stand
  | deadExpires g => exact (relaySide_deadTimerExpires g h).motionAlike.keeps stand
  | reference u run =>
    have paced := (stand u).paced
    rw [(stand u).inRun run] at paced
    exact steppersStand_of_stepperOnly (stepperOnly_takeReference u h) stand
      (motionStands_of_running (paced_takeReference paced) ((stepperOnly_takeReference u h).mode.trans run))
  | stepCompletes u =>
    exact steppersStand_of_stepperOnly (stepperOnly_stepCompletes u h) stand (motionStands_stepCompletes (stand u))
  | referencingStepCompletes u =>
    exact steppersStand_of_stepperOnly (stepperOnly_referencingStepCompletes u h) stand
      (motionStands_referencingStepCompletes (stand u))
  | pauseEnds u => exact steppersStand_of_stepperOnly (stepperOnly_pauseEnds u h) stand (motionStands_pauseEnds (stand u))
  | released u =>
    exact steppersStand_of_stepperOnly (stepperOnly_unitReleased u h) stand (motionStands_unitReleased (stand u))
  | pass => exact steppersStand_countDown stand

end
end Hub

/-- Settles O59: move by move. -/
theorem stepsKeepSteppersWithinTravel : Obligations.StepsKeepSteppersWithinTravel :=
  Hub.keptByStep_of_moves Hub.steppersStand_move

end Sys2Proof.Machine
end

section
/-! What the standing of a channel rests on: what leaves it alone, what a forming makes of the part, and how channels leave the
local layer behind when setpoints change. -/

namespace Sys2Proof.Machine
namespace Hub

section
variable {h t v : Hub} {c : Fin 23}

/-! ## Frames -/

/-- A channel is seen the same: but for its handover, and for claims below the winner and the states of claims. -/
structure ChannelAlike (x y : Channel) : Prop where
  rest : y = { x with claims := y.claims, handover := y.handover }
  head : y.claims.head?.map (fun z => (z.port, z.level, z.value)) = x.claims.head?.map fun z => (z.port, z.level, z.value)

theorem ChannelAlike.refl (x : Channel) : ChannelAlike x x := ⟨rfl, rfl⟩

theorem ChannelAlike.of_handover {x y : Channel} (same : y = { x with handover := y.handover }) : ChannelAlike x y :=
  ⟨by rw [same], by rw [same]⟩

/-- The standing of a channel rests on what is seen of it, on the mode and on the reference rate. -/
theorem Formed.alike (formed : h.Formed c) (chan : ChannelAlike (h.chan c) (t.chan c)) (mode : t.mode = h.mode)
    (rate : t.refRateOf c = h.refRateOf c) : t.Formed c := by
  obtain ⟨winner, ⟨source, command⟩, passed⟩ := formed
  have head := chan.head
  have rest := chan.rest
  have input : (t.chan c).input = (h.chan c).input := by rw [rest]
  have eff : (t.chan c).eff = (h.chan c).eff := by rw [rest]
  have stay : (t.chan c).stay = (h.chan c).stay := by rw [rest]
  refine ⟨?_, ⟨?_, ?_⟩, ?_⟩
  · rw [show (t.chan c).winner = (h.chan c).winner by rw [rest], winner]
    unfold winnerPort
    have ports := congrArg (Option.map Prod.fst) head
    simp only [Option.map_map] at ports
    exact ports.symm
  · rw [eff, source]
    unfold sourceOf
    rw [input]
    clear rest chan
    cases before : (h.chan c).claims <;> cases after : (t.chan c).claims <;> simp_all
  · rw [eff, input, stay, rate]
    clear rest chan
    cases before : (h.chan c).claims <;> cases after : (t.chan c).claims <;> simp_all
  · unfold EnginePassed at passed ⊢
    rw [mode, eff, show (t.chan c).taken = (h.chan c).taken by rw [rest],
      show (t.chan c).pendingEff = (h.chan c).pendingEff by rw [rest]]
    exact passed

theorem refRateOf_of_work (same : t.work = h.work) (c : Fin 23) : t.refRateOf c = h.refRateOf c := by
  unfold refRateOf stepperItem
  rw [same]

theorem localLayer_congr (items : ∀ n, t.setpointItem n = h.setpointItem n) (driving : ∀ n, t.driving n = h.driving n)
    (fallback : t.work.fallbacks[c] = h.work.fallbacks[c]) : t.localLayer c = h.localLayer c := by
  have drivers : t.driversOf c = h.driversOf c := by
    unfold driversOf
    exact List.filter_congr fun n _ => by rw [items, driving]
  unfold localLayer
  rw [drivers, fallback, List.map_congr_left fun n _ => congrArg SetpointItem.command (items n)]

/-- The channels are seen the same, with all they are judged by. -/
structure ArbitrationAlike (h t : Hub) : Prop where
  chan : ∀ c, ChannelAlike (h.chan c) (t.chan c)
  mode : t.mode = h.mode
  rate : ∀ c, t.refRateOf c = h.refRateOf c
  layer : ∀ c, t.localLayer c = h.localLayer c

/-- Every channel is formed, nothing waits in RUN, and the local input is the local layer after STARTUP. -/
def Arbitrated (h : Hub) : Prop := h.ArbitrationStands ∧ h.LayersStand

theorem ArbitrationAlike.keeps (a : ArbitrationAlike h t) (holds : h.Arbitrated) : t.Arbitrated := by
  refine ⟨⟨fun c => (holds.1.formed c).alike (a.chan c) a.mode (a.rate c), fun run c => ?_⟩, fun started c => ?_⟩
  · rw [(a.chan c).rest]
    exact holds.1.nothingWaits (a.mode ▸ run) c
  · rw [(a.chan c).rest, a.layer]
    exact holds.2 (a.mode ▸ started) c

theorem arbitrationAlike_of_channels (chan : ∀ c, ChannelAlike (h.chan c) (t.chan c)) (mode : t.mode = h.mode)
    (work : t.work = h.work) (setpoints : t.setpoints = h.setpoints) : ArbitrationAlike h t where
  chan := chan
  mode := mode
  rate := refRateOf_of_work work
  layer c := localLayer_congr (fun n => by unfold setpointItem; rw [work]) (fun n => by unfold driving setpoint; rw [setpoints])
    (by rw [work])

theorem Plain.arbitrationAlike (a : Plain h t) : ArbitrationAlike h t where
  chan c := by
    rw [show t.chan c = h.chan c from chan_of_channels a.channels c]
    exact .refl _
  mode := a.mode
  rate := refRateOf_of_work a.work
  layer c := localLayer_congr (fun n => by unfold setpointItem; rw [a.work]) a.driving (by rw [a.work])

theorem StepperOnly.arbitrationAlike {u : Fin 2} (a : StepperOnly u h t) : ArbitrationAlike h t := by
  rw [a.rest]
  exact arbitrationAlike_of_channels (fun _ => .refl _) rfl rfl rfl

theorem SounderOnly.arbitrationAlike (a : SounderOnly h t) : ArbitrationAlike h t := by
  rw [a.rest]
  exact arbitrationAlike_of_channels (fun _ => .refl _) rfl rfl rfl

theorem RelaySide.arbitrationAlike (a : RelaySide h t) : ArbitrationAlike h t := by
  rw [a.rest]
  exact arbitrationAlike_of_channels (fun _ => .refl _) rfl rfl rfl

/-! ## A forming -/

theorem Reach.setpoints {C : Fin 23 → Bool} (a : Reach C h t) : t.setpoints = h.setpoints := by rw [a.rest]

theorem localLayer_of_reach {C : Fin 23 → Bool} (a : Reach C h t) (c : Fin 23) : t.localLayer c = h.localLayer c :=
  localLayer_congr (fun n => by unfold setpointItem; rw [a.work]) (fun n => by unfold driving setpoint; rw [a.setpoints])
    (by rw [a.work])

/-- A channel was changed where a forming makes good, and nothing else: its local input and what waits are as they were. -/
structure ChangedAt (c : Fin 23) (h m : Hub) : Prop where
  reach : Reach (only c) h m
  input : (m.chan c).input = (h.chan c).input
  pending : (m.chan c).pendingEff = (h.chan c).pendingEff

theorem only_of_ne {k : Fin 23} (apart : k ≠ c) : only c k = false := by simpa [only] using apart

theorem ChangedAt.refl (c : Fin 23) (h : Hub) : ChangedAt c h h := ⟨.refl _ h, rfl, rfl⟩

theorem ChangedAt.trans {m : Hub} (a : ChangedAt c h m) (b : ChangedAt c m v) : ChangedAt c h v :=
  ⟨a.reach.trans b.reach, b.input.trans a.input, b.pending.trans a.pending⟩

theorem only_self (c : Fin 23) : only c c = true := by simp [only]

theorem changedAt_modChan {f : Channel → Channel} (input : (f (h.chan c)).input = (h.chan c).input)
    (pending : (f (h.chan c)).pendingEff = (h.chan c).pendingEff) : ChangedAt c h (h.modChan c f) :=
  ⟨reach_modChan (only_self c) f h, by rw [chan_modChan, if_pos rfl]; exact input,
    by rw [chan_modChan, if_pos rfl]; exact pending⟩

theorem changedAt_resolve (c : Fin 23) (o : HandoverOutcome) (q d : Port) (h : Hub) :
    ChangedAt c h (h.resolve c o q d) :=
  ⟨reach_resolve (only_self c) o q d h, by rw [chan_resolve, if_pos rfl], by rw [chan_resolve, if_pos rfl]⟩

theorem changedAt_settleByDefault (c : Fin 23) (q d : Port) (h : Hub) : ChangedAt c h (h.settleByDefault c q d) := by
  unfold settleByDefault
  dsimp only
  split
  · have ordered : ChangedAt c h (h.reorder c q d) := changedAt_modChan rfl rfl
    exact ordered.trans (changedAt_resolve ..)
  · exact changedAt_resolve ..

theorem changedAt_settleEdit (c : Fin 23) (p : Port) (kind : EditKind) (h : Hub) :
    ChangedAt c h (h.settleEdit c p kind) := by
  unfold settleEdit
  split
  · exact .refl c h
  · split
    · split
      · exact changedAt_resolve ..
      · exact changedAt_settleByDefault ..
      · exact changedAt_resolve ..
      · exact .refl c h
      · exact .refl c h
    · split
      · split
        · exact changedAt_resolve ..
        · exact changedAt_resolve ..
        · exact changedAt_resolve ..
        · exact .refl c h
        · exact .refl c h
      · exact .refl c h

/-- The forming of a channel stands it up again, and leaves the others standing. -/
theorem formed_after_form (others : ∀ k, k ≠ c → h.Formed k) (cause : FormCause) (k : Fin 23) :
    (h.form c cause).Formed k := by
  by_cases same : k = c
  · subst same
    exact formed_form k cause h
  · refine (others k same).alike ?_ (form_mode ..) (refRateOf_of_work (form_work ..) k)
    rw [chan_form, if_neg (Ne.symm same)]
    exact .refl _

theorem form_pendingEff (c k : Fin 23) (cause : FormCause) {h : Hub} (run : h.mode = .run) :
    ((h.form c cause).chan k).pendingEff = (h.chan k).pendingEff := by
  rw [chan_form]
  split
  · next same =>
    subst same
    rw [formedChannel]
    dsimp only
    rw [if_pos run]
  · rfl

theorem form_input (c k : Fin 23) (cause : FormCause) (h : Hub) :
    ((h.form c cause).chan k).input = (h.chan k).input := by
  rw [chan_form]
  split
  · next same => subst same; rfl
  · rfl

theorem form_localLayer (c k : Fin 23) (cause : FormCause) (h : Hub) : (h.form c cause).localLayer k = h.localLayer k :=
  localLayer_of_reach (reach_form (C := fun _ => true) (c := c) rfl cause h) k

/-- An edit of a channel that ends in its forming keeps the arbitration. -/
theorem ChangedAt.thenForm {m : Hub} (changed : ChangedAt c h m) (cause : FormCause) (holds : h.Arbitrated) :
    (m.form c cause).Arbitrated := by
  have others (k : Fin 23) (apart : k ≠ c) : m.chan k = h.chan k := changed.reach.channels k (only_of_ne apart)
  have mode := changed.reach.mode
  refine ⟨⟨formed_after_form (fun k apart => ?_) cause, fun run k => ?_⟩, fun started k => ?_⟩
  · refine (holds.1.formed k).alike ?_ mode (refRateOf_of_work changed.reach.work k)
    rw [others k apart]
    exact .refl _
  · rw [form_mode] at run
    rw [form_pendingEff c k cause run]
    by_cases same : k = c
    · rw [same, changed.pending]
      exact holds.1.nothingWaits (mode ▸ run) c
    · rw [others k same]
      exact holds.1.nothingWaits (mode ▸ run) k
  · rw [form_mode] at started
    rw [form_input, form_localLayer, localLayer_of_reach changed.reach]
    by_cases same : k = c
    · rw [same, changed.input]
      exact holds.2 (mode ▸ started) c
    · rw [others k same]
      exact holds.2 (mode ▸ started) k

theorem arbitrated_editClaims (c : Fin 23) (p : Port) (kind : EditKind) (edit : List Claim → List Claim) (h : Hub)
    (holds : h.Arbitrated) : (h.editClaims c p kind edit).Arbitrated := by
  have edited : ChangedAt c h (h.modChan c fun x => { x with claims := edit x.claims }) := changedAt_modChan rfl rfl
  exact (edited.trans (changedAt_settleEdit c p kind _)).thenForm .edit holds

/-! ## The local layer -/

/-- A channel not touched keeps its local layer. -/
theorem localLayer_untouched {before after : Hub} {also : List (Fin 21)}
    (items : ∀ n, after.setpointItem n = before.setpointItem n ∨
      (before.setpointItem n).target ∈ also ∧ (after.setpointItem n).target ∈ also)
    (fallbacks : after.work.fallbacks = before.work.fallbacks) (untouched : c ∉ channelsTouched before after also) :
    after.localLayer c = before.localLayer c := by
  have away (x : Fin 21) (touched : x ∈ also ∨ ∃ n, (after.setpointItem n).target = x ∧
      drivingChanged before after n = true) : targetChannel x ≠ c := by
    intro same
    unfold channelsTouched at untouched
    simp only [List.mem_map, List.mem_filter, List.mem_finRange, true_and, Bool.or_eq_true, List.contains_iff_mem,
      List.any_eq_true, Bool.and_eq_true, beq_iff_eq] at untouched
    exact untouched ⟨x, touched, same⟩
  have drivers : after.driversOf c = before.driversOf c := by
    unfold driversOf
    refine List.filter_congr fun n _ => ?_
    rcases items n with item | ⟨old, new⟩
    · rw [item]
      cases changed : drivingChanged before after n with
      | true =>
        have apart := beq_false_of_ne (away _ (.inr ⟨n, rfl, changed⟩))
        rw [item] at apart
        rw [apart, Bool.and_false, Bool.and_false]
      | false =>
        have same : before.driving n = after.driving n := by simpa [drivingChanged] using changed
        rw [same]
    · rw [beq_false_of_ne (away _ (.inl old)), beq_false_of_ne (away _ (.inl new)), Bool.and_false, Bool.and_false]
  have commands : ((after.driversOf c).map fun n => (after.setpointItem n).command) =
      (before.driversOf c).map fun n => (before.setpointItem n).command := by
    rw [drivers]
    refine List.map_congr_left fun n mem => ?_
    rcases items n with item | ⟨old, _⟩
    · rw [item]
    · exact absurd (mem_driversOf.mp mem).2 (away _ (.inl old))
  unfold localLayer
  rw [commands, drivers, fallbacks]

theorem reach_formLayer_any (h : Hub) (c : Fin 23) : Reach (fun _ => true) h (h.formLayer c) :=
  reach_formLayer (C := fun _ => true) rfl h

/-- A channel that takes its local layer has it, and the others keep their input. -/
theorem formLayer_input (h : Hub) (c k : Fin 23) :
    ((h.formLayer c).chan k).input = if k = c then h.localLayer c else (h.chan k).input := by
  unfold formLayer passInput
  dsimp only
  split
  · next same =>
    split
    · next here => rw [here, ← same]
    · rfl
  · rw [form_input, chan_modChan]
    by_cases here : k = c
    · simp [here]
    · rw [if_neg (Ne.symm here), if_neg here]

theorem formLayer_pendingEff (h : Hub) (c k : Fin 23) (run : h.mode = .run) :
    ((h.formLayer c).chan k).pendingEff = (h.chan k).pendingEff := by
  unfold formLayer passInput
  dsimp only
  split
  · rfl
  · have still : (h.modChan c fun x => { x with input := h.localLayer c }).mode = .run := run
    rw [form_pendingEff _ _ _ still, chan_modChan]
    split
    · next same => subst same; rfl
    · rfl

theorem formLayer_formed (h : Hub) (c : Fin 23) (formed : ∀ k, h.Formed k) (k : Fin 23) : (h.formLayer c).Formed k := by
  unfold formLayer passInput
  dsimp only
  split
  · exact formed k
  · refine formed_after_form (fun k apart => ?_) _ k
    refine (formed k).alike ?_ rfl rfl
    rw [chan_modChan, if_neg (Ne.symm apart)]
    exact .refl _

/-- The channels of a list take their local layers one after another. -/
theorem formLayers (xs : List (Fin 23)) : ∀ h : Hub, (∀ k, h.Formed k) →
    (∀ k, (xs.foldl formLayer h).Formed k) ∧ Reach (fun _ => true) h (xs.foldl formLayer h) ∧
      (∀ k, ((xs.foldl formLayer h).chan k).input = if k ∈ xs then h.localLayer k else (h.chan k).input) ∧
      (h.mode = .run → ∀ k, ((xs.foldl formLayer h).chan k).pendingEff = (h.chan k).pendingEff) := by
  induction xs with
  | nil => exact fun h formed => ⟨formed, .refl _ h, fun k => by simp, fun _ _ => rfl⟩
  | cons c xs ih =>
    intro h formed
    obtain ⟨formed', reach, input, pending⟩ := ih (h.formLayer c) (formLayer_formed h c formed)
    refine ⟨formed', (reach_formLayer_any h c).trans reach, fun k => ?_, fun run k => ?_⟩
    · rw [List.foldl_cons, input, localLayer_of_reach (reach_formLayer_any h c), formLayer_input]
      by_cases later : k ∈ xs
      · simp [later]
      · by_cases here : k = c
        · simp [here]
        · simp [later, here]
    · rw [List.foldl_cons, pending ((reach_formLayer_any h c).mode.trans run), formLayer_pendingEff h c k run]

/-- What was written into setpoints is settled: `h` stood before, `m` is what the event wrote. -/
theorem arbitrated_settleSetpoints {m : Hub} {also : List (Fin 21)} (holds : h.Arbitrated)
    (channels : ∀ k, m.chan k = h.chan k) (mode : m.mode = h.mode) (rates : ∀ k, m.refRateOf k = h.refRateOf k)
    (items : ∀ n, m.setpointItem n = h.setpointItem n ∨
      (h.setpointItem n).target ∈ also ∧ (m.setpointItem n).target ∈ also)
    (fallbacks : m.work.fallbacks = h.work.fallbacks) : (m.settleSetpoints h also).Arbitrated := by
  obtain ⟨formed, reach, input, pending⟩ := formLayers (channelsTouched h m also) m fun k =>
    (holds.1.formed k).alike (by rw [channels]; exact .refl _) mode (rates k)
  have settled : ((channelsTouched h m also).foldl formLayer m).Arbitrated := by
    refine ⟨⟨formed, fun run k => ?_⟩, fun started k => ?_⟩
    · rw [reach.mode] at run
      rw [pending run, channels]
      exact holds.1.nothingWaits (mode ▸ run) k
    · rw [reach.mode] at started
      rw [input, localLayer_of_reach reach]
      split
      · rfl
      · next untouched =>
        rw [channels, localLayer_untouched items fallbacks untouched]
        exact holds.2 (mode ▸ started) k
  unfold settleSetpoints
  dsimp only
  split
  · exact (plain_giveAll ..).arbitrationAlike.keeps settled
  · exact settled

end
end Hub
end Sys2Proof.Machine
end

section
/-! The arbitration, move by move (R10 to R16, R40). -/

namespace Sys2Proof.Machine
namespace Hub

section
variable {h t : Hub}

theorem arbitrated_foldl {α : Type} {f : Hub → α → Hub} (one : ∀ h a, h.Arbitrated → (f h a).Arbitrated) (xs : List α)
    (holds : h.Arbitrated) : (xs.foldl f h).Arbitrated :=
  List.foldlRecOn (motive := Arbitrated) xs f holds fun t so a _ => one t a so

/-! ## Claims -/

/-- Ports alone have changed. -/
theorem arbitrationAlike_modPort (p : Port) (f : PortUnit → PortUnit) (h : Hub) : ArbitrationAlike h (h.modPort p f) :=
  arbitrationAlike_of_channels (fun _ => .refl _) rfl rfl rfl

theorem arbitrationAlike_setTenancy (p : Port) (x : Tenancy) (h : Hub) : ArbitrationAlike h (h.setTenancy p x) :=
  arbitrationAlike_modPort ..

theorem arbitrationAlike_clearPort (p : Port) (mask : BitVec 14) (h : Hub) : ArbitrationAlike h (h.clearPort p mask) :=
  arbitrationAlike_modPort ..

theorem ArbitrationAlike.trans {v : Hub} (a : ArbitrationAlike h t) (b : ArbitrationAlike t v) : ArbitrationAlike h v where
  chan c := ⟨by rw [(b.chan c).rest, (a.chan c).rest], (b.chan c).head.trans (a.chan c).head⟩
  mode := b.mode.trans a.mode
  rate c := (b.rate c).trans (a.rate c)
  layer c := (b.layer c).trans (a.layer c)

theorem arbitrationAlike_attachPort (p : Port) (h : Hub) : ArbitrationAlike h (h.attachPort p) :=
  (arbitrationAlike_setTenancy p _ h).trans (arbitrationAlike_clearPort ..)

theorem arbitrationAlike_resolve (c : Fin 23) (o : HandoverOutcome) (q d : Port) (h : Hub) :
    ArbitrationAlike h (h.resolve c o q d) := by
  have reach := reach_resolve (only_self c) o q d h
  refine arbitrationAlike_of_channels (fun k => ?_) reach.mode reach.work reach.setpoints
  rw [chan_resolve]
  split
  · next same => subst same; exact .of_handover rfl
  · exact .refl _

theorem arbitrationAlike_beginHandover (p w : Port) (c : Fin 23) (h : Hub) :
    ArbitrationAlike h (h.beginHandover p w c) := by
  have asked (m : Hub) : ArbitrationAlike m (m.giveAsked w c) := by
    unfold giveAsked
    exact (plain_giveFlag w .handoverAsked m).arbitrationAlike.trans (arbitrationAlike_modPort ..)
  refine ArbitrationAlike.trans ?_ (asked _)
  refine arbitrationAlike_of_channels (fun k => ?_) rfl rfl rfl
  rw [chan_modChan]
  split
  · next same => subst same; exact .of_handover rfl
  · exact .refl _

theorem chan_adoptClaims (p : Port) (h : Hub) (c : Fin 23) :
    (h.adoptClaims p).chan c = { h.chan c with
      claims := (h.chan c).claims.map fun y => if y.port = p then { y with state := .live } else y } := by
  simp [adoptClaims, chan]

theorem arbitrationAlike_adoptClaims (p : Port) (h : Hub) : ArbitrationAlike h (h.adoptClaims p) := by
  refine arbitrationAlike_of_channels (fun c => ?_) rfl rfl rfl
  rw [chan_adoptClaims]
  refine ⟨rfl, ?_⟩
  dsimp only
  cases (h.chan c).claims with
  | nil => rfl
  | cons y ys =>
    simp only [List.map_cons, List.head?_cons, Option.map_some]
    split <;> rfl

theorem arbitrated_removeClaims (p : Port) (holds : h.Arbitrated) : (h.removeClaims p).Arbitrated :=
  arbitrated_foldl (f := removeClaim p) (fun h c => arbitrated_editClaims c p .removed _ h) _ holds

theorem arbitrated_lapseClaims (p : Port) (holds : h.Arbitrated) : (h.lapseClaims p).Arbitrated := by
  refine arbitrated_foldl (f := lapseClaim p) (fun h c stands => ?_) _ holds
  unfold lapseClaim
  split
  · exact stands
  · split
    · exact arbitrated_editClaims _ _ _ _ _ stands
    · exact arbitrated_editClaims _ _ _ _ _ stands

theorem changedAt_settleEdits (c : Fin 23) : ∀ (gone : List Claim) (h : Hub),
    ChangedAt c h (gone.foldl (fun x y => x.settleEdit c y.port .removed) h)
  | [], h => .refl c h
  | y :: gone, h => (changedAt_settleEdit c y.port .removed h).trans (changedAt_settleEdits c gone _)

theorem arbitrated_clearClaims (c : Fin 23) (limit : Nat) (holds : h.Arbitrated) : (h.clearClaims c limit).Arbitrated := by
  unfold clearClaims
  split
  · exact holds
  · have removed : ChangedAt c h (h.modChan c fun x => { x with claims := x.claims.filter fun y => !clearable limit y }) :=
      changedAt_modChan rfl rfl
    exact (removed.trans (changedAt_settleEdits c _ _)).thenForm .edit holds

theorem arbitrated_concludeHandover (grants : Bool) (c : Fin 23) (o : HandoverOutcome) (q d : Port)
    (holds : h.Arbitrated) : (h.concludeHandover grants c o q d).Arbitrated := by
  refine (arbitrationAlike_resolve c o q d _).keeps ?_
  split
  · have ordered : ChangedAt c h (h.reorder c q d) := changedAt_modChan rfl rfl
    exact ordered.thenForm .edit holds
  · exact holds

theorem arbitrated_claimMove (edit : ClaimMove h t) (holds : h.Arbitrated) : t.Arbitrated := by
  have tenancy (p : Port) (x : Tenancy) : (h.setTenancy p x).Arbitrated := (arbitrationAlike_setTenancy p x h).keeps holds
  cases edit with
  | attach p => exact (arbitrationAlike_attachPort p h).keeps holds
  | adopt p => exact (arbitrationAlike_attachPort p _).keeps ((arbitrationAlike_adoptClaims p h).keeps holds)
  | leave p => exact (arbitrationAlike_clearPort p 0 _).keeps (arbitrated_removeClaims p (tenancy p .detached))
  | lapse p => exact arbitrated_lapseClaims p (tenancy p .lapsed)
  | remove p c => exact arbitrated_editClaims _ _ _ _ _ holds
  | place p c => exact arbitrated_editClaims _ _ _ _ _ holds
  | replace p c => exact arbitrated_editClaims _ _ _ _ _ holds
  | clear c limit => exact arbitrated_clearClaims c limit holds
  | ask p c own w => exact (arbitrationAlike_beginHandover p w.port c h).keeps holds
  | atOnce grants c o p own w => exact arbitrated_concludeHandover grants c o p w.port holds
  | conclude grants c o w => exact arbitrated_concludeHandover grants c o w.requester w.holder holds

/-! ## The configuration -/

/-- Working copies may change but for the reference rates, the fallbacks and the setpoints. -/
theorem arbitrationAlike_modWork {f : Blocks → Blocks} (fallbacks : (f h.work).fallbacks = h.work.fallbacks)
    (setpoints : (f h.work).setpoints = h.work.setpoints)
    (rates : ∀ u : Fin 2, (f h.work).steppers[u].refRate = h.work.steppers[u].refRate) :
    ArbitrationAlike h (h.modWork f) where
  chan _ := .refl _
  mode := rfl
  rate c := by
    unfold refRateOf stepperItem
    split
    · exact rates _
    all_goals rfl
  layer c := localLayer_congr (fun n => by unfold setpointItem; rw [modWork_work, setpoints]) (fun _ => rfl)
    (by rw [modWork_work, fallbacks])

theorem arbitrated_fallback (c : Fin 23) (x : Fallback) (holds : h.Arbitrated) :
    (formLayer (h.setFallback c x) c).Arbitrated := by
  have formed (k : Fin 23) : (h.setFallback c x).Formed k := (holds.1.formed k).alike (.refl _) rfl rfl
  have reach := reach_formLayer_any (h.setFallback c x) c
  have layer (k : Fin 23) (apart : k ≠ c) : (h.setFallback c x).localLayer k = h.localLayer k := by
    refine localLayer_congr (fun _ => rfl) (fun _ => rfl) ?_
    have away : c.val ≠ k.val := fun e => apart (Fin.ext e.symm)
    simp [setFallback, modWork, away]
  refine ⟨⟨formLayer_formed _ c formed, fun run k => ?_⟩, fun started k => ?_⟩
  · have run : h.mode = .run := reach.mode.symm.trans run
    rw [formLayer_pendingEff _ c k (show (h.setFallback c x).mode = .run from run)]
    exact holds.1.nothingWaits run k
  · have started : h.mode ≠ .startup := reach.mode ▸ started
    rw [formLayer_input, localLayer_of_reach reach]
    split
    · next same => rw [same]
    · next apart =>
      rw [layer k apart]
      exact holds.2 started k

theorem arbitrated_rate (u : Fin 2) (x : Nat) (holds : h.Arbitrated) :
    (form (stepperChannel u) .rateWrite (h.modStepperItem u fun i => { i with refRate := x })).Arbitrated := by
  have rate (k : Fin 23) (apart : k ≠ stepperChannel u) :
      (h.modStepperItem u fun i => { i with refRate := x }).refRateOf k = h.refRateOf k := by
    unfold refRateOf
    rcases outputOf_cases k with ⟨r, out, rfl⟩ | ⟨l, out, rfl⟩ | ⟨out, rfl⟩ | ⟨v, out, rfl⟩ <;> rw [out]
    have other : u ≠ v := fun e => apart (by rw [e])
    dsimp only
    rw [stepperItem_modStepperItem, if_neg other]
  have layer (k : Fin 23) : (h.modStepperItem u fun i => { i with refRate := x }).localLayer k = h.localLayer k :=
    localLayer_congr (fun _ => rfl) (fun _ => rfl) rfl
  have mode : (form (stepperChannel u) .rateWrite (h.modStepperItem u fun i => { i with refRate := x })).mode = h.mode :=
    form_mode ..
  refine ⟨⟨formed_after_form (fun k apart => ?_) _, fun run k => ?_⟩, fun started k => ?_⟩
  · exact (holds.1.formed k).alike (.refl _) rfl (rate k apart)
  · have run : h.mode = .run := mode.symm.trans run
    have still : (h.modStepperItem u fun i => { i with refRate := x }).mode = .run := run
    rw [form_pendingEff _ _ _ still]
    exact holds.1.nothingWaits run k
  · have started : h.mode ≠ .startup := mode ▸ started
    rw [form_input, form_localLayer, layer]
    exact holds.2 started k

theorem setpointItem_modSetpointItem (n k : Fin 16) (x : SetpointItem) (h : Hub) :
    (h.modSetpointItem n fun _ => x).setpointItem k = if n = k then x else h.setpointItem k := by
  by_cases same : n = k
  · subst same
    simp [modSetpointItem, setpointItem, modWork]
  · have apart : n.val ≠ k.val := fun e => same (Fin.ext e)
    simp [modSetpointItem, setpointItem, modWork, same, apart]

theorem arbitrated_setpoint (n : Fin 16) (x : SetpointItem) (holds : h.Arbitrated) :
    ((h.modSetpointItem n fun _ => x).setpointChanged n h).Arbitrated := by
  refine arbitrated_settleSetpoints holds (fun _ => rfl) rfl (fun _ => rfl) (fun k => ?_) rfl
  rw [setSetpoint_setpointItem]
  by_cases same : n = k
  · subst same
    exact .inr ⟨List.mem_cons_self, List.mem_cons_of_mem _ List.mem_cons_self⟩
  · exact .inl (by rw [setpointItem_modSetpointItem, if_neg same])

/-! ## The changes of mode -/

/-- From RUN nothing waits, and the channels stand as before in a mode that hands nothing over. -/
theorem arbitrated_halt {mode : HubMode} (holds : h.Arbitrated) (run : h.mode = .run) (halt : mode ≠ .run) :
    ({ h with mode := mode } : Hub).Arbitrated := by
  refine ⟨⟨fun c => ⟨(holds.1.formed c).winner, (holds.1.formed c).effective, ?_⟩, fun back => absurd back halt⟩,
    fun _ c => holds.2 (by simp [run]) c⟩
  have taken := (holds.1.formed c).passed
  have waits := holds.1.nothingWaits run c
  unfold EnginePassed at taken ⊢
  rw [if_pos run] at taken
  rw [if_neg halt]
  exact waits.trans (if_pos taken).symm

/-- Between two modes other than RUN the channels stand as they stood; after STARTUP with their local layers taken. -/
theorem arbitrated_switch {mode : HubMode} (stands : h.ArbitrationStands) (layers : ∀ c, (h.chan c).input = h.localLayer c)
    (before : h.mode ≠ .run) (after : mode ≠ .run) : ({ h with mode := mode } : Hub).Arbitrated := by
  refine ⟨⟨fun c => ⟨(stands.formed c).winner, (stands.formed c).effective, ?_⟩, fun back => absurd back after⟩,
    fun _ => layers⟩
  have passed := (stands.formed c).passed
  unfold EnginePassed at passed ⊢
  rw [if_neg before] at passed
  rw [if_neg after]
  exact passed

theorem arbitrated_checkHeld (holds : h.Arbitrated) : h.checkHeld.Arbitrated := by
  unfold checkHeld
  split
  · next rest =>
    have holding : h.mode = .holding := by simp only [Bool.and_eq_true, beq_iff_eq] at rest; exact rest.1
    exact (plain_giveAll ..).arbitrationAlike.keeps
      (arbitrated_switch holds.1 (holds.2 (by simp [holding])) (by simp [holding]) (by simp))
  · exact holds

theorem arbitrated_enterHolding (holds : h.Arbitrated) (run : h.mode = .run) : h.enterHolding.Arbitrated := by
  have frozen (m : Hub) : ArbitrationAlike m m.freezeRelays := arbitrationAlike_of_channels (fun _ => .refl _) rfl rfl rfl
  have halted := (frozen _).keeps (arbitrated_halt (mode := .holding) holds run (by simp))
  exact arbitrated_checkHeld ((((sounderOnly_freezeSounder _).arbitrationAlike.trans
    (stepperOnly_drainUnit 0 _).arbitrationAlike).trans (stepperOnly_drainUnit 1 _).arbitrationAlike).keeps halted)

/-- What the entry into RUN hands to a channel's engine (R15, R168). -/
def handedOver (everyChannel : Bool) (x : Channel) : Channel :=
  { x with
    pendingEff := none
    taken := if everyChannel then some x.eff else (x.pendingEff.map some).getD x.taken }

theorem chan_handOverAs (c k : Fin 23) (change : Bool) (pair : Pair) (h : Hub) :
    (h.handOverAs c change pair).chan k = if c = k then { h.chan c with taken := some pair } else h.chan k := by
  rw [chan_of_channels (handOverAs_channels c change pair h), chan_modChan]

theorem handedOver_idle {x : Channel} (idle : x.pendingEff = none) : handedOver false x = x := by
  cases x
  simp_all [handedOver]

theorem chan_handWaiting (everyChannel : Bool) (c k : Fin 23) (h : Hub) :
    (h.handWaiting everyChannel c).chan k = if c = k then handedOver everyChannel (h.chan c) else h.chan k := by
  unfold handWaiting
  cases everyChannel with
  | true =>
    rw [if_pos rfl, chan_modChan, chan_handOverAs, chan_handOverAs, if_pos rfl]
    split <;> rfl
  | false =>
    rw [if_neg (by simp)]
    split
    · next pair waits =>
      rw [chan_modChan, handOver, chan_handOverAs, chan_handOverAs, if_pos rfl]
      split
      · simp [handedOver, waits]
      · rfl
    · next idle =>
      split
      · next same => rw [← same, handedOver_idle idle]
      · rfl

theorem chan_handWaitings (everyChannel : Bool) (k : Fin 23) : ∀ (xs : List (Fin 23)) (h : Hub), xs.Nodup →
    (xs.foldl (handWaiting everyChannel) h).chan k =
      if k ∈ xs then handedOver everyChannel (h.chan k) else h.chan k
  | [], _, _ => by simp
  | c :: xs, h, nodup => by
    obtain ⟨fresh, nodup⟩ := List.nodup_cons.mp nodup
    rw [List.foldl_cons, chan_handWaitings everyChannel k xs _ nodup, chan_handWaiting]
    by_cases same : c = k
    · subst same
      simp [fresh]
    · simp [same, Ne.symm same]

theorem reach_handWaiting (everyChannel : Bool) (h : Hub) (c : Fin 23) :
    Reach (fun _ => true) h (h.handWaiting everyChannel c) := by
  unfold handWaiting
  split
  · exact (reach_handOverAs rfl true _ h).trans (reach_modChan rfl _ _)
  · split
    · exact (reach_handOverAs rfl _ _ h).trans (reach_modChan rfl _ _)
    · exact .refl _ h

theorem reach_handWaitings (everyChannel : Bool) (xs : List (Fin 23)) (h : Hub) :
    Reach (fun _ => true) h (xs.foldl (handWaiting everyChannel) h) :=
  List.foldlRecOn (motive := Reach (fun _ => true) h) xs _ (.refl _ h) fun t so c _ =>
    so.trans (reach_handWaiting everyChannel t c)

theorem arbitrationAlike_thaw (changed : Fin 2 → Bool) (h : Hub) : ArbitrationAlike h (h.thaw changed) := by
  have running : ArbitrationAlike h { h with relayCond := .running } :=
    arbitrationAlike_of_channels (fun _ => .refl _) rfl rfl rfl
  exact (running.trans (relaySide_thawRelays h).arbitrationAlike).trans
    (((sounderOnly_thawSounder _).arbitrationAlike.trans (stepperOnly_thawUnit 0 _ _).arbitrationAlike).trans
      (stepperOnly_thawUnit 1 _ _).arbitrationAlike)

/-- The entry into RUN hands every engine what waits for it, so that it has taken the effective command. -/
theorem arbitrated_enterRun (stands : h.ArbitrationStands) (layers : ∀ c, (h.chan c).input = h.localLayer c)
    (halted : h.mode ≠ .run) : h.enterRun.Arbitrated := by
  have reach := reach_handWaitings h.starting (List.finRange 23) { h with mode := .run }
  have chan (k : Fin 23) : ((List.finRange 23).foldl (handWaiting h.starting) { h with mode := .run }).chan k =
      handedOver h.starting (h.chan k) := by
    rw [chan_handWaitings _ _ _ _ (List.nodup_finRange 23), if_pos (List.mem_finRange k)]
    rfl
  have handed : ((List.finRange 23).foldl (handWaiting h.starting) { h with mode := .run }).Arbitrated := by
    refine ⟨⟨fun c => ?_, fun _ c => by rw [chan]; rfl⟩, fun _ c => ?_⟩
    · have formed := stands.formed c
      refine ⟨?_, ?_, ?_⟩
      · rw [winnerPort, chan]
        exact formed.winner
      · unfold EffectiveStands sourceOf
        rw [chan, refRateOf_of_work reach.work c]
        exact formed.effective
      · have passed := formed.passed
        unfold EnginePassed at passed ⊢
        rw [if_neg halted] at passed
        rw [if_pos reach.mode, chan]
        unfold handedOver
        dsimp only
        split
        · rfl
        · rw [passed]
          split
          · next taken => simpa using taken
          · rfl
    · rw [chan, localLayer_of_reach reach]
      exact layers c
  unfold enterRun
  dsimp only
  split
  · exact ((arbitrationAlike_thaw _ _).trans ((stepperOnly_autoReference 0 _).arbitrationAlike.trans
      (stepperOnly_autoReference 1 _).arbitrationAlike)).keeps handed
  · exact (arbitrationAlike_thaw _ _).keeps handed

/-! ## Resets and the load -/

/-- In STARTUP nothing is asked of the local input. -/
theorem arbitrated_of_startup (startup : h.mode = .startup) (formed : ∀ c, h.Formed c) : h.Arbitrated :=
  ⟨⟨formed, fun run => by simp [startup] at run⟩, fun started => absurd startup started⟩

/-- A channel as R33 leaves it is formed: its fallback is effective and waits for the load. -/
theorem formed_of_afterReset {before : Hub} {c : Fin 23} (startup : h.mode = .startup)
    (chan : h.chan c = before.channelAfterReset c) (rate : h.refRateOf c = before.refRateOf c) : h.Formed c := by
  refine ⟨?_, ⟨?_, ?_⟩, ?_⟩
  · rw [winnerPort, chan]
    rfl
  · rw [sourceOf, chan]
    rfl
  · rw [chan, rate]
    unfold channelAfterReset
    dsimp only
    cases factoryFallback c <;> simp
  · unfold EnginePassed
    rw [if_neg (by simp [startup]), chan]
    rfl

theorem work_stoppedForReset (cause : ResetCause) (h : Hub) : (h.stoppedForReset cause).work = h.work := by
  have abandoned : h.abandonWrite.work = h.work := by
    unfold abandonWrite
    split <;> rfl
  exact abandoned

theorem refRateOf_hubReset (cause : ResetCause) (h : Hub) (c : Fin 23) :
    (h.hubReset cause).refRateOf c = (h.stoppedForReset cause).refRateOf c := by
  refine refRateOf_of_work ?_ c
  rw [work_stoppedForReset, (hubReset_copies cause h).1]

theorem arbitrated_hubReset (cause : ResetCause) (h : Hub) : (h.hubReset cause).Arbitrated :=
  have startup : (h.hubReset cause).mode = .startup := rfl
  arbitrated_of_startup startup fun c =>
    formed_of_afterReset startup (chan_hubReset cause h c) (refRateOf_hubReset cause h c)

/-- The channels of a list take the local layer of the loaded configuration one after another. -/
theorem passLoadeds (xs : List (Fin 23)) : ∀ h : Hub, xs.Nodup → h.mode = .startup →
    Reach (fun _ => true) h (xs.foldl passLoaded h) ∧
      (∀ k, k ∈ xs → (xs.foldl passLoaded h).Formed k ∧ ((xs.foldl passLoaded h).chan k).input = h.localLayer k) ∧
      ∀ k, k ∉ xs → (xs.foldl passLoaded h).chan k = h.chan k := by
  induction xs with
  | nil => exact fun h _ _ => ⟨.refl _ h, fun k mem => by simp at mem, fun _ _ => rfl⟩
  | cons c xs ih =>
    intro h nodup startup
    obtain ⟨fresh, nodup⟩ := List.nodup_cons.mp nodup
    have one : Reach (fun _ => true) h (h.passLoaded c) := reach_passInput rfl _ _ h
    obtain ⟨reach, inside, outside⟩ := ih (h.passLoaded c) nodup (one.mode.trans startup)
    have own : (h.passLoaded c).Formed c ∧ ((h.passLoaded c).chan c).input = h.localLayer c :=
      ⟨formed_form c .load _, by rw [passLoaded, passInput, form_input, chan_modChan, if_pos rfl]⟩
    refine ⟨one.trans reach, fun k mem => ?_, fun k apart => ?_⟩
    · by_cases same : k = c
      · subst same
        have kept := outside k fresh
        refine ⟨own.1.alike ?_ reach.mode (refRateOf_of_work reach.work k), ?_⟩
        · rw [List.foldl_cons, kept]
          exact .refl _
        · rw [List.foldl_cons, kept]
          exact own.2
      · obtain ⟨formed, input⟩ := inside k ((List.mem_cons.mp mem).resolve_left same)
        exact ⟨formed, input.trans (localLayer_of_reach one k)⟩
    · simp only [List.mem_cons, not_or] at apart
      rw [List.foldl_cons, outside k apart.2, passLoaded, passInput, chan_form, if_neg (Ne.symm apart.1), chan_modChan,
        if_neg (Ne.symm apart.1)]

/-- The decision that ends the load (R34), on the hub the load leaves. -/
theorem arbitrated_decided (formed : ∀ c, h.Formed c) (layers : ∀ c, (h.chan c).input = h.localLayer c)
    (startup : h.mode = .startup) :
    (if h.hardFault then { h with mode := .faultHold } else h.enterRun).Arbitrated := by
  have stands := (arbitrated_of_startup startup formed).1
  split
  · exact arbitrated_switch stands layers (by simp [startup]) (by simp)
  · exact arbitrated_enterRun stands layers (by simp [startup])

/-- All channels take the local layer of the loaded configuration. -/
def passAll (h : Hub) : Hub := (List.finRange 23).foldl passLoaded h

theorem arbitrated_passAll (startup : h.mode = .startup) :
    h.passAll.mode = .startup ∧ ∀ c, h.passAll.Formed c ∧ (h.passAll.chan c).input = h.passAll.localLayer c := by
  obtain ⟨reach, inside, _⟩ := passLoadeds (List.finRange 23) h (List.nodup_finRange 23) startup
  unfold passAll
  refine ⟨reach.mode.trans startup, fun c => ?_⟩
  obtain ⟨formed, input⟩ := inside c (List.mem_finRange c)
  exact ⟨formed, input.trans (localLayer_of_reach reach c).symm⟩

theorem ArbitrationAlike.layered {c : Fin 23} (a : ArbitrationAlike h t) (input : (h.chan c).input = h.localLayer c) :
    (t.chan c).input = t.localLayer c := by
  rw [(a.chan c).rest, a.layer]
  exact input

/-- The lamps' first showing. -/
def litOnce (h : Hub) : Hub := showLamps { h with flash := some 0 }

theorem arbitrationAlike_litOnce (h : Hub) : ArbitrationAlike h h.litOnce :=
  arbitrationAlike_of_channels (fun _ => .refl _) rfl rfl rfl

/-- The hub at the decision that ends the load. -/
def afterLoad (storeAnswers : Bool) (h : Hub) : Hub :=
  (((h.loadResults storeAnswers).readRelayRuns.checkReference 0).checkReference 1).passAll.litOnce

theorem endLoad_eq (storeAnswers : Bool) (h : Hub) :
    h.endLoad storeAnswers =
      if (h.afterLoad storeAnswers).hardFault then { h.afterLoad storeAnswers with mode := .faultHold }
      else (h.afterLoad storeAnswers).enterRun := rfl

theorem arbitrated_endLoad (storeAnswers : Bool) (startup : h.mode = .startup) : (h.endLoad storeAnswers).Arbitrated := by
  have before : (((h.loadResults storeAnswers).readRelayRuns.checkReference 0).checkReference 1).mode = .startup := by
    rw [(stepperOnly_checkReference 1 _).mode, (stepperOnly_checkReference 0 _).mode]
    exact (loadResults_steppers storeAnswers h).2.trans startup
  obtain ⟨mode, passed⟩ := arbitrated_passAll before
  have lit : ArbitrationAlike _ (h.afterLoad storeAnswers) := arbitrationAlike_litOnce _
  rw [endLoad_eq]
  exact arbitrated_decided (fun c => (passed c).1.alike (lit.chan c) lit.mode (lit.rate c))
    (fun c => lit.layered (passed c).2) (lit.mode.trans mode)

theorem arbitrationAlike_countDown (h : Hub) : ArbitrationAlike h h.countDown where
  chan c := by
    rw [chan_countDown]
    exact .of_handover rfl
  mode := rfl
  rate _ := rfl
  layer c := localLayer_congr (fun _ => rfl) (fun n => by simp [driving, setpoint, countDown]) rfl

theorem arbitrated_move (h t : Hub) (holds : h.Arbitrated) (move : Move h t) : t.Arbitrated := by
  cases move with
  | plain same => exact same.arbitrationAlike.keeps holds
  | claims edit => exact arbitrated_claimMove edit holds
  | form c => exact (ChangedAt.refl c h).thenForm .edit holds
  | settle wrote =>
    exact arbitrated_settleSetpoints holds (chan_of_channels wrote.channels) wrote.mode (refRateOf_of_work wrote.work)
      (fun n => .inl (by rw [setpointItem, wrote.work]; rfl)) (by rw [wrote.work])
  | tune f tuned =>
    exact (arbitrationAlike_modWork tuned.fallbacks tuned.setpoints fun u => (tuned.steppers u).2).keeps holds
  | fallback c x => exact arbitrated_fallback c x holds
  | soundMotion x =>
    have written : ArbitrationAlike h (refreshMute (h.modWork fun w => { w with soundMotion := x })) :=
      ⟨fun _ => .refl _, rfl, fun _ => rfl, fun c => localLayer_congr (fun _ => rfl) (fun _ => rfl) rfl⟩
    exact written.keeps holds
  | travel u x =>
    have written : ArbitrationAlike h (h.modStepperItem u fun i => { i with travel := x }) :=
      arbitrationAlike_modWork rfl rfl fun v => by
        exact getElem_set_field h.work.steppers u v _ (·.refRate) rfl
    exact written.keeps holds
  | rate u x => exact arbitrated_rate u x holds
  | members g v =>
    have written : ArbitrationAlike h (h.writeMembers g (v.setWidth 12)) := by
      have item : ArbitrationAlike h (h.modGroupItem g fun i => { i with members := v.setWidth 12 }) :=
        arbitrationAlike_modWork rfl rfl fun _ => rfl
      unfold writeMembers
      dsimp only
      split
      · exact { item with chan := fun _ => .refl _ }
      · exact { item with chan := fun _ => .refl _ }
    exact written.keeps holds
  | setpoint n x => exact arbitrated_setpoint n x holds
  | store b =>
    have stored : ArbitrationAlike h { h with stored := Blocks.copyBlock b h.work h.stored } :=
      arbitrationAlike_of_channels (fun _ => .refl _) rfl rfl rfl
    exact stored.keeps holds
  | hold run => exact arbitrated_enterHolding holds run
  | held => exact arbitrated_checkHeld holds
  | run halted =>
    exact arbitrated_enterRun holds.1
      (holds.2 (by rcases halted with mode | mode | mode <;> simp [mode]))
      (halted.elim (fun mode => by simp [mode]) Halted.not_run)
  | reset cause => exact arbitrated_hubReset cause h
  | load storeAnswers startup => exact arbitrated_endLoad storeAnswers startup
  | append c => exact (sounderOnly_appendChime c h).arbitrationAlike.keeps holds
  | retrigger loudness length => exact (sounderOnly_retrigger loudness length h).arbitrationAlike.keeps holds
  | withdraw p => exact (sounderOnly_withdrawChimes p h).arbitrationAlike.keeps holds
  | playingEnds => exact (sounderOnly_playingEnds h).arbitrationAlike.keeps holds
  | gapEnds => exact (sounderOnly_gapEnds h).arbitrationAlike.keeps holds
  | flash =>
    have shown : ArbitrationAlike h h.flashBoundaryPasses := by
      unfold flashBoundaryPasses
      split <;> exact arbitrationAlike_of_channels (fun _ => .refl _) rfl rfl rfl
    exact shown.keeps holds
  | runExpires r => exact (relaySide_relayRunExpires r h).arbitrationAlike.keeps holds
  | deadExpires g => exact (relaySide_deadTimerExpires g h).arbitrationAlike.keeps holds
  | reference u => exact (stepperOnly_takeReference u h).arbitrationAlike.keeps holds
  | stepCompletes u => exact (stepperOnly_stepCompletes u h).arbitrationAlike.keeps holds
  | referencingStepCompletes u => exact (stepperOnly_referencingStepCompletes u h).arbitrationAlike.keeps holds
  | pauseEnds u => exact (stepperOnly_pauseEnds u h).arbitrationAlike.keeps holds
  | released u => exact (stepperOnly_unitReleased u h).arbitrationAlike.keeps holds
  | pass => exact (arbitrationAlike_countDown h).keeps holds

end
end Hub

/-- Settles O58: move by move. -/
theorem stepsKeepArbitration : Obligations.StepsKeepArbitration := Hub.keptByStep_of_moves Hub.arbitrated_move

end Sys2Proof.Machine
end

section
/-! The invariants of the part, right after the power-on reset. -/

namespace Sys2Proof.Machine
namespace Hub

theorem chan_reset (c : Fin 23) : Hub.reset.chan c = Channel.atPowerOn c := Vector.getElem_ofFn ..

theorem claims_reset (c : Fin 23) : (Hub.reset.chan c).claims = [] := by rw [chan_reset]; rfl

theorem port_reset (p : Port) : Hub.reset.port p = PortUnit.fresh := by cases p <;> rfl

theorem relay_reset (r : Fin 12) : Hub.reset.relay r = ⟨.off, none, false, .fromReset⟩ := Vector.getElem_replicate ..

theorem stepper_reset (u : Fin 2) : Hub.reset.stepper u = ⟨.unreferenced, .idle, 0, none, 0, false, .stopped, false, 0⟩ :=
  Vector.getElem_replicate ..

theorem poolStands_reset : Hub.reset.PoolStands where
  lists c := by constructor <;> simp [claims_reset]
  handovers c := by
    have none : (Hub.reset.chan c).handover.pending = none := by rw [chan_reset]; rfl
    exact ⟨by simp [none], fun p => by rw [port_reset, none]; simp [PortUnit.fresh]⟩
  size := by decide +kernel
  quotas := by
    intro p
    cases p <;> decide +kernel
  emptyBeforeRun := fun _ => claims_reset

theorem interlockStands_reset : Hub.reset.InterlockStands where
  oneOn _ q _ _ _ on := by simp [relay_reset] at on
  apart := groupsApart_factory
  storedApart := groupsApart_factory
  running := by decide
  offInStartup _ r := by rw [relay_reset]

theorem relaysStand_reset : Hub.reset.RelaysStand where
  outputs r := by simp [relay_reset]
  frozen _ r := by simp [relay_reset]

theorem sightAndSoundStand_reset : Hub.reset.SightAndSoundStand where
  lamps l := by
    have dark : Hub.reset.lamp l = .dark := Vector.getElem_replicate ..
    rw [dark, chan_reset]
    rfl
  mute := by
    rw [muteValue, stepper_reset, stepper_reset]
    rfl

theorem arbitrated_reset : Hub.reset.Arbitrated :=
  arbitrated_of_startup rfl fun c => by
    refine ⟨?_, ⟨?_, ?_⟩, ?_⟩
    · rw [winnerPort, chan_reset]
      rfl
    · rw [sourceOf, chan_reset]
      rfl
    · rw [chan_reset]
      unfold Channel.atPowerOn
      unfold factoryFallback
      cases kindOf c <;> simp
    · unfold EnginePassed
      rw [if_neg (by simp [Hub.reset]), chan_reset]
      rfl

theorem motionStands_reset (u : Fin 2) : Hub.reset.MotionStands u :=
  motionStands_of_stopped (by rw [stepper_reset]) (by rw [stepper_reset])
    (fun kept => by simp [stepper_reset] at kept) (by simp [Hub.reset])

end Hub

/-- Settles O60: nothing is claimed, everything is OFF, and every channel rests on its fallback. -/
theorem invariantsHoldAtReset : Obligations.InvariantsHoldAtReset :=
  ⟨Hub.poolStands_reset, Hub.interlockStands_reset, Hub.relaysStand_reset, ⟨Nat.zero_le _, iff_of_true rfl rfl⟩,
    Hub.sightAndSoundStand_reset, Hub.arbitrated_reset.1, Hub.arbitrated_reset.2, Hub.motionStands_reset⟩

end Sys2Proof.Machine
end

section
/-! A step on an empty queue: which events of the unit are due, and what the count-down leaves where none is (log 2,
log 3). -/

namespace Sys2Proof.Machine
namespace Hub

variable {h : Hub}

theorem leaseLowDue_iff {p : Port} : h.leaseLowDue p = true ↔
    ∃ run, (h.port p).tenancy = .attached run ∧ run.mark = .pending ∧ 2 * run.left ≤ run.duration := by
  unfold leaseLowDue
  split <;> next tenancy => simp [tenancy]

theorem lapseDue_iff {p : Port} : h.lapseDue p = true ↔ ∃ run, (h.port p).tenancy = .attached run ∧ run.left = 0 := by
  unfold lapseDue
  split <;> next tenancy => simp [tenancy]

theorem handoverDue_iff {c : Fin 23} :
    h.handoverDue c = true ↔ ∃ w, (h.chan c).handover.pending = some w ∧ w.left = 0 := by
  simp [handoverDue, Option.any_eq_true]

theorem minTimeDue_iff {r : Fin 12} :
    h.minTimeDue r = true ↔ ((h.relay r).mark = .minOn 0 ∨ (h.relay r).mark = .minOff 0) := by
  simp [minTimeDue]

theorem deadDue_iff {g : Fin 4} : h.deadDue g = true ↔ ∃ cut, h.deadTimer g = .running 0 cut := by
  unfold deadDue
  split <;> next timer => simp [timer]

theorem decayDue_iff : h.decayDue = true ↔ (h.sounder.tone = .sounding ∧ h.sounder.decay = some 0) := by
  simp [decayDue]

theorem stepDue_iff {u : Fin 2} : h.stepDue u = true ↔ ∃ d, (h.stepper u).engine = .moving d 0 := by
  unfold stepDue
  split <;> next engine => simp [engine]

theorem flashDue_iff : h.flash.any atBoundary = true ↔ ∃ n, h.flash = some n ∧ (n + 1) % Config.ms 125 = 0 := by
  simp [Option.any_eq_true, atBoundary, Config.flashBoundary]

/-- Every event that may be due has its place in the order of the unit. -/
theorem mem_unitEvents {i : Instr} (due : h.due i = true) (other : i ≠ .flashClockLitHalfChange) : i ∈ h.unitEvents := by
  have ports (p : Port) : p ∈ Port.all := by cases p <;> simp [Port.all]
  unfold unitEvents
  refine List.mem_append_left _ ?_
  unfold dueOrder
  cases i with
  | flashClockLitHalfChange => exact absurd rfl other
  | leaseLow | lapse | handoverTimerExpiry | minTimeExpiry | deadTimerExpiry | decayTimerExpiry | chimeEnd | gapEnd
  | freshnessExpiry | delayTimerExpiry | stepCompletion | referencingStepCompletion | reversalPauseEnd => simp [ports]
  | _ => simp [Hub.due] at due

/-! ## What the count-down leaves -/

theorem port_countDown (h : Hub) (p : Port) :
    h.countDown.port p = { h.port p with tenancy := tickTenancy (h.port p).tenancy } := by
  simp [countDown, port]

theorem relay_countDown (h : Hub) (r : Fin 12) :
    h.countDown.relay r = { h.relay r with mark := tickMark (h.relay r).mark } := by
  simp [countDown, relay]

theorem deadTimer_countDown (h : Hub) (g : Fin 4) : h.countDown.deadTimer g = tickDead (h.deadTimer g) := by
  simp [countDown, deadTimer]

theorem slot_countDown (h : Hub) (k : Fin 8) :
    h.countDown.slot k = { h.slot k with timer := (h.slot k).timer.map (· - 1), cut := false } := by
  simp [countDown, slot, tickTimer]

theorem setpoint_countDown (h : Hub) (n : Fin 16) :
    h.countDown.setpoint n = { h.setpoint n with timer := (h.setpoint n).timer.map (· - 1), cut := false } := by
  simp [countDown, setpoint, tickTimer]

theorem port_countDown_unattached {p : Port} (out : h.attached p = false) : h.countDown.port p = h.port p := by
  have still : tickTenancy (h.port p).tenancy = (h.port p).tenancy := by
    unfold attached at out
    cases tenancy : (h.port p).tenancy <;> simp_all [tickTenancy]
  rw [port_countDown, still]

/-- Off its boundaries the flash clock gains one unit. -/
theorem flash_countDown (off : h.flash.any atBoundary = false) : h.countDown.flash = h.flash.map (· + 1) := by
  rw [show h.countDown.flash = h.flash.map tickFlash from rfl]
  cases clock : h.flash with
  | none => rfl
  | some n =>
    rw [clock] at off
    simp only [Option.any_some] at off
    simp [tickFlash, off]

/-- At a boundary the flash clock waits there, and its event is due. -/
theorem flashDue_countDown (boundary : h.flash.any atBoundary = true) :
    .flashClockLitHalfChange ∈ h.unitEvents ∧ h.countDown.due .flashClockLitHalfChange = true := by
  refine ⟨List.mem_append_right _ (by simp [boundary]), ?_⟩
  rw [show h.countDown.due .flashClockLitHalfChange = (h.flash.map tickFlash).any atBoundary from rfl]
  cases clock : h.flash with
  | none => simp [clock] at boundary
  | some n =>
    rw [clock, Option.any_some] at boundary
    simp [tickFlash, boundary]

end Hub

theorem step_empty {s : State} (nothing : s.pending = []) :
    step s = runDue s.hub.unitEvents { s with hub := s.hub.countDown } := by
  simp only [step, nothing, passUnit]

/-- Settles O3: the first event due is taken, and without one the count-down is the step. -/
theorem quietStepCountsTimersDown : Obligations.QuietStepCountsTimersDown := by
  refine ⟨fun s t i pre post nothing events before due taken => ?_, fun t => ⟨rfl, fun i rest => ⟨fun out => ?_,
    fun u due taken => runDue_take due taken⟩⟩, fun h => rfl, fun h => ?_, fun s nothing quiet => ?_⟩
  · rw [step_empty nothing, events, runDue_skip pre _ _ before, runDue_take due taken]
  · rw [runDue, if_neg (by simp [out])]
  · exact ⟨fun _ => Hub.leaseLowDue_iff, fun _ => Hub.lapseDue_iff, fun _ => Hub.handoverDue_iff,
      fun _ => Hub.minTimeDue_iff, fun _ => Hub.deadDue_iff, Hub.decayDue_iff, by simp [Hub.due], by simp [Hub.due],
      by simp [Hub.due], by simp [Hub.due], fun _ => Hub.stepDue_iff, by simp [Hub.due], by simp [Hub.due],
      fun _ => Hub.mem_unitEvents, Hub.flashDue_iff⟩
  · refine ⟨s.hub.countDown, by rw [step_empty nothing, runDue_none _ _ quiet], fun p run live => ?_,
      fun p => Hub.port_countDown_unattached, Hub.chan_countDown s.hub, Hub.relay_countDown s.hub,
      Hub.deadTimer_countDown s.hub, Hub.flash_countDown ?_, rfl, Hub.stepper_countDown s.hub,
      Hub.slot_countDown s.hub, Hub.setpoint_countDown s.hub, ?_, rfl⟩
    · rw [Hub.port_countDown, live]
      rfl
    · refine Bool.eq_false_iff.mpr fun boundary => ?_
      obtain ⟨listed, due⟩ := Hub.flashDue_countDown boundary
      exact Bool.false_ne_true ((quiet _ listed).symm.trans due)
    · simp only [Hub.countDown]
      split <;> simp_all

end Sys2Proof.Machine
end

section
/-! Frames and the serial lines (R181 to R184, R192): every frame is read back as its command, and what the transactions of
SPI and I2C bring and shift out. -/

namespace Sys2Proof.Machine

/-! ## Frames -/

/-- A frame laid out as bytes is read back as its command. -/
theorem commandOfFrame_encodeFrame {i : Instr} {p : Port} {bytes : List Byte} (fits : i.wf = true)
    (laid : encodeFrame i = some (p, bytes)) : commandOfFrame p bytes = i := by
  by_cases bad : ∃ q frame, i = .badFrame q frame
  · obtain ⟨q, frame, rfl⟩ := bad
    obtain ⟨rfl, rfl⟩ : q = p ∧ frame = bytes := by simpa [encodeFrame] using laid
    have broken : openFrame frame = none := by simpa [Instr.wf, badFrameFits] using fits
    rw [commandOfFrame, broken]
  · have asked : encodeFrame i = (requestBody i).map fun x => (x.1, frameOf x.2.1 x.2.2) := by
      cases i with
      | badFrame q frame => exact absurd ⟨q, frame, rfl⟩ bad
      | _ => rfl
    rw [asked, Option.map_eq_some_iff] at laid
    obtain ⟨⟨q, code, body⟩, body_of, laid⟩ := laid
    obtain ⟨rfl, rfl⟩ : q = p ∧ frameOf code body = bytes := by simpa using laid
    by_cases unknown : ∃ c b, i = .badRequest q c b
    · obtain ⟨c, b, rfl⟩ := unknown
      obtain ⟨rfl, rfl⟩ : c = code ∧ b = body := by simpa [requestBody] using body_of
      obtain ⟨short, none⟩ : b.length ≤ maxRequestBody ∧ requestOf q c b = none := by
        simpa [Instr.wf, badRequestFits] using fits
      rw [commandOfFrame, openFrame_frameOf c b short]
      simp [none]
    · obtain ⟨request, short⟩ := requestOf_requestBody i q code body body_of fun c b e => unknown ⟨c, b, e⟩
      rw [commandOfFrame, openFrame_frameOf code body short]
      simp [request]

/-- A frame of more than 15 bytes fails the check. -/
theorem openFrame_long {bytes : List Byte} (long : 15 < bytes.length) : openFrame bytes = none := by
  unfold openFrame
  split
  · next code len rest =>
    refine if_neg fun ⟨short, exact, _⟩ => ?_
    simp only [maxRequestBody] at short
    simp only [List.length_cons] at long
    omega
  · rfl

theorem responseFrame_silent {h : Hub} {p : Port} (silent : h.takesFrames p = false ∨ (h.port p).resp = none) :
    responseFrame h p = [0x00, 0x00, 0xD7] := by
  have none_frame : frameOf 0x00 [] = [0x00, 0x00, 0xD7] := by decide +kernel
  unfold responseFrame
  rcases silent with low | empty
  · rw [if_neg (by simp [low])]
    exact none_frame
  · rw [empty]
    split <;> exact none_frame

theorem responseFrame_answer {h : Hub} {p : Port} {r : Response} (heard : h.takesFrames p = true)
    (answer : (h.port p).resp = some r) : responseFrame h p = frameOf r.result.code r.body := by
  simp [responseFrame, heard, answer]

/-! ## The receive buffer -/

namespace Hub

/-- The bytes of a request frame come in one after another. -/
def receiveAll (p : Port) (bytes : List Byte) (h : Hub) : Hub := bytes.foldl (fun x b => x.receive p b) h

theorem openLink_receiveAll (p : Port) (x : Link) (bytes : List Byte) :
    ∀ h : Hub, (h.receiveAll p bytes).openLink p x = h.openLink p x := by
  induction bytes with
  | nil => exact fun _ => rfl
  | cons b bytes ih => exact fun h => (ih (h.receive p b)).trans (openLink_receive ..)

theorem receive_short (p : Port) (b : Byte) {h : Hub} (short : (h.port p).rx.length ≤ 15) :
    ((h.receive p b).port p).rx.length ≤ 15 := by
  by_cases room : (h.port p).rx.length < Config.frameSize
  · rw [port_receive_room p b h room]
    simp only [Config.frameSize] at room
    rw [List.length_append]
    exact room
  · rw [port_receive_full p b h (by omega)]
    exact short

/-- Bytes that the buffer has room for are kept in their order. -/
theorem port_receiveAll (p : Port) (bytes : List Byte) :
    ∀ h : Hub, (h.port p).rx.length + bytes.length ≤ 15 →
      (h.receiveAll p bytes).port p = { h.port p with rx := (h.port p).rx ++ bytes } := by
  induction bytes with
  | nil => intro h _; simp [receiveAll]
  | cons b bytes ih =>
    intro h short
    simp only [List.length_cons] at short
    have one := port_receive_room p b h (by simp only [Config.frameSize]; omega)
    refine (ih (h.receive p b) (by rw [one]; simp; omega)).trans ?_
    rw [one]
    simp

/-- Bytes past the buffer leave 15 in it and one beyond. -/
theorem port_receiveAll_full (p : Port) (bytes : List Byte) :
    ∀ h : Hub, (h.port p).rx.length ≤ 15 → 15 < (h.port p).rx.length + bytes.length →
      ((h.receiveAll p bytes).port p).rx.length = 15 ∧
        ∃ b, ((h.receiveAll p bytes).port p).link = .request (some b) := by
  induction bytes with
  | nil => intro h short long; simp at long; omega
  | cons b bytes ih =>
    intro h short long
    simp only [List.length_cons] at long
    by_cases room : (h.port p).rx.length < 15
    · have one := port_receive_room p b h room
      exact ih (h.receive p b) (by rw [one]; simp; omega) (by rw [one]; simp; omega)
    · have one := port_receive_full p b h (by simp only [Config.frameSize]; omega)
      cases bytes with
      | nil =>
        rw [show h.receiveAll p [b] = h.receive p b from rfl, one]
        exact ⟨by dsimp only; omega, b, rfl⟩
      | cons c bytes => exact ih (h.receive p b) (by rw [one]; exact short) (by rw [one]; simp; omega)

theorem link_receive {p : Port} {h : Hub} {beyond : Option Byte} (b : Byte) (request : (h.port p).link = .request beyond) :
    ∃ more, ((h.receive p b).port p).link = .request more := by
  by_cases room : (h.port p).rx.length < Config.frameSize
  · exact ⟨beyond, by rw [port_receive_room p b h room]; exact request⟩
  · exact ⟨some b, by rw [port_receive_full p b h (by omega)]⟩

/-- The frame that has come in by the end of its transaction. -/
theorem arrival_request {h : Hub} {p : Port} {beyond : Option Byte} (request : (h.port p).link = .request beyond) :
    h.arrival p =
      if (h.port p).rx = [] then none else some (commandOfFrame p ((h.port p).rx ++ beyond.toList)) := by
  unfold arrival
  rw [request]
  simp

theorem arrival_none {h : Hub} {p : Port} (other : ∀ beyond, (h.port p).link ≠ .request beyond) : h.arrival p = none := by
  unfold arrival
  split
  · next beyond request => exact absurd request (other beyond)
  all_goals rfl

/-- The frame of a transaction that the buffer has room for. -/
theorem arrival_receiveAll {h : Hub} {p : Port} {bytes : List Byte} (request : (h.port p).link = .request none)
    (empty : (h.port p).rx = []) (short : bytes.length ≤ 15) :
    (h.receiveAll p bytes).arrival p = if bytes.isEmpty then none else some (commandOfFrame p bytes) := by
  have all := port_receiveAll p bytes h (by simpa [empty] using short)
  rw [arrival_request (beyond := none) (by rw [all]; exact request), all, empty]
  cases bytes <;> simp

/-- A frame too long is a BAD_FRAME. -/
theorem arrival_receiveAll_long {h : Hub} {p : Port} {bytes : List Byte} (empty : (h.port p).rx = [])
    (long : 15 < bytes.length) :
    ∃ bad, openFrame bad = none ∧ (h.receiveAll p bytes).arrival p = some (.badFrame p bad) := by
  obtain ⟨full, b, link⟩ := port_receiveAll_full p bytes h (by simp [empty]) (by simpa [empty] using long)
  have broken : openFrame (((h.receiveAll p bytes).port p).rx ++ [b]) = none := openFrame_long (by simp [full])
  refine ⟨_, broken, ?_⟩
  rw [arrival_request link, if_neg (by intro nil; simp [nil] at full)]
  simp [commandOfFrame, broken]

end Hub

namespace State

variable {s : State} {p : Port}

theorem steps_succ {t : State} (n : Nat) (next : step s = .next t) : s.steps (n + 1) = t.steps n := by
  rw [steps, next]

/-- What the end of a transaction brings. -/
theorem endTransaction_eq (p : Port) (s : State) :
    s.endTransaction p =
      (s.hub.arrival p).elim { s with hub := s.hub.openLink p .idle } { s with hub := s.hub.openLink p .idle }.arrive := by
  cases arrived : s.hub.arrival p with
  | none => exact endTransaction_none arrived
  | some i => exact endTransaction_some arrived

/-! ## SPI -/

theorem spiBytes_of_still {bytes : List Byte} (still : ∀ c, s.spiShift p c = (s, 0xFF)) :
    s.spiBytes p bytes = (s, List.replicate bytes.length 0xFF) := by
  induction bytes with
  | nil => rfl
  | cons c rest ih =>
    simp only [spiBytes, still, ih, List.length_cons, List.replicate_succ]

theorem spiShift_ignored (link : (s.hub.port p).link = .ignored) (b : Byte) : s.spiShift p b = (s, 0xFF) := by
  simp [spiShift, Hub.shifted, Hub.byteOut, link]

theorem spiShift_dropped {n : Nat} (link : (s.hub.port p).link = .dropped n) (b : Byte) : s.spiShift p b = (s, 0xFF) := by
  simp [spiShift, Hub.shifted, Hub.byteOut, link]

theorem spiBytes_request (bytes : List Byte) :
    ∀ (s : State) (beyond : Option Byte), (s.hub.port p).link = .request beyond →
      s.spiBytes p bytes = ({ s with hub := s.hub.receiveAll p bytes }, List.replicate bytes.length 0xFF) := by
  induction bytes with
  | nil => exact fun _ _ _ => rfl
  | cons b rest ih =>
    intro s beyond link
    obtain ⟨more, next⟩ := Hub.link_receive b link
    have one : s.spiShift p b = ({ s with hub := s.hub.receive p b }, 0xFF) := by
      simp [spiShift, Hub.shifted, Hub.byteOut, link]
    simp only [spiBytes, one, ih { s with hub := s.hub.receive p b } more next, List.length_cons, List.replicate_succ]
    rfl

/-- A read shifts the rest of the response frame out, then FFh. -/
theorem spiBytes_reading (bytes : List Byte) :
    ∀ (s : State) (left : List Byte), (s.hub.port p).link = .reading left →
      (s.spiBytes p bytes).2 = (List.range bytes.length).map (fun n => left[n]?.getD 0xFF) ∧
        ∃ rest, ((s.spiBytes p bytes).1.hub.port p).link = .reading rest := by
  induction bytes with
  | nil => exact fun s left link => ⟨rfl, left, link⟩
  | cons b bytes ih =>
    intro s left link
    have one : s.spiShift p b = ({ s with hub := s.hub.setLink p (.reading left.tail) }, left.head?.getD 0xFF) := by
      simp [spiShift, Hub.shifted, Hub.byteOut, link]
    obtain ⟨out, rest, ends⟩ := ih { s with hub := s.hub.setLink p (.reading left.tail) } left.tail (by simp)
    simp only [spiBytes, one]
    refine ⟨?_, rest, ends⟩
    rw [out, List.length_cons, List.range_succ_eq_map, List.map_cons, List.map_map]
    cases left <;> simp [Function.comp_def]

/-- CSn_N released after the bytes of a transaction. -/
theorem spiTransaction_eq (p : Port) (first : Byte) (rest : List Byte) (s : State) :
    s.spiTransaction p (first :: rest) =
      (let begun : State := { s with hub := s.hub.openLink p (s.hub.selectedBy p first) }
       ((begun.spiBytes p rest).1.endTransaction p, 0xFF :: (begun.spiBytes p rest).2)) := by
  have selected : (s.spiSelect p).spiShift p first =
      ({ s with hub := s.hub.openLink p (s.hub.selectedBy p first) }, 0xFF) := by
    have frame : responseFrame (s.hub.openLink p .selected) p = responseFrame s.hub p := Hub.responseFrame_openLink ..
    simp [spiShift, spiSelect, Hub.shifted, Hub.byteOut, Hub.selectedBy, frame]
    exact Hub.modPort_modPort ..
  simp only [spiTransaction, spiBytes, selected, spiRelease]

theorem endTransaction_spiBytes (x : Link) (bytes : List Byte) :
    (({ s with hub := s.hub.openLink p x } : State).spiBytes p bytes).1.endTransaction p =
      ((({ s with hub := s.hub.openLink p x } : State).spiBytes p bytes).1.hub.arrival p).elim
        { s with hub := s.hub.openLink p .idle } { s with hub := s.hub.openLink p .idle }.arrive := by
  obtain ⟨pending, hub⟩ := spiBytes_hub p .idle bytes { s with hub := s.hub.openLink p x }
  rw [endTransaction_eq, hub, pending]
  simp

/-- An SPI transaction that begins with 01h brings the frame after it (R181). -/
theorem spiTransaction_request (p : Port) (rest : List Byte) (s : State) :
    s.spiTransaction p (0x01 :: rest) =
      ((((s.hub.openLink p (.request none)).receiveAll p rest).arrival p).elim
        { s with hub := s.hub.openLink p .idle } { s with hub := s.hub.openLink p .idle }.arrive,
      List.replicate (rest.length + 1) 0xFF) := by
  have bytes := spiBytes_request (p := p) rest { s with hub := s.hub.openLink p (.request none) } none (by simp)
  rw [spiTransaction_eq, show s.hub.selectedBy p 0x01 = .request none from rfl]
  dsimp only
  rw [endTransaction_spiBytes, bytes]
  rfl

/-- One that begins with 02h shifts the response frame out (R181). -/
theorem spiTransaction_read (p : Port) (rest : List Byte) (s : State) :
    s.spiTransaction p (0x02 :: rest) =
      ({ s with hub := s.hub.openLink p .idle }, 0xFF :: (List.range rest.length).map (readByte s.hub p)) := by
  obtain ⟨out, left, ends⟩ := spiBytes_reading (p := p) rest
    { s with hub := s.hub.openLink p (.reading (responseFrame s.hub p)) } (responseFrame s.hub p) (by simp)
  rw [spiTransaction_eq, show s.hub.selectedBy p 0x02 = .reading (responseFrame s.hub p) from rfl]
  dsimp only
  rw [endTransaction_spiBytes, Hub.arrival_none (by simp [ends]), out]
  rfl

/-- One that begins with another byte brings nothing (R181). -/
theorem spiTransaction_other (p : Port) {first : Byte} (rest : List Byte) (s : State) (request : first ≠ 0x01)
    (read : first ≠ 0x02) :
    s.spiTransaction p (first :: rest) =
      ({ s with hub := s.hub.openLink p .idle }, List.replicate (rest.length + 1) 0xFF) := by
  have selected : s.hub.selectedBy p first = .ignored := by
    rw [Hub.selectedBy, if_neg request, if_neg read]
  rw [spiTransaction_eq, selected]
  dsimp only
  have bytes := spiBytes_of_still (bytes := rest)
    (spiShift_ignored (s := { s with hub := s.hub.openLink p .ignored }) (p := p) (by simp))
  rw [endTransaction_spiBytes, bytes, Hub.arrival_none (by simp)]
  rfl

theorem commandOfSpi_request (p : Port) (rest : List Byte) :
    commandOfSpi p (0x01 :: rest) = if rest.isEmpty then none else some (commandOfFrame p rest) := rfl

theorem commandOfSpi_other {p : Port} {first : Byte} {rest : List Byte} (request : first ≠ 0x01) :
    commandOfSpi p (first :: rest) = none := by
  unfold commandOfSpi
  split
  · next heq => exact absurd (List.cons.inj heq).1 request
  · rfl

/-! ## I2C -/

theorem i2cBytes_request (bytes : List Byte) :
    ∀ (s : State) (beyond : Option Byte), (s.hub.port .p2).link = .request beyond →
      s.i2cBytes bytes = ({ s with hub := s.hub.receiveAll .p2 bytes },
        (List.range bytes.length).map fun n => decide ((s.hub.port .p2).rx.length + n < 15)) := by
  induction bytes with
  | nil => exact fun _ _ _ => rfl
  | cons b rest ih =>
    intro s beyond link
    obtain ⟨more, next⟩ := Hub.link_receive b link
    have one : s.i2cWrite b = ({ s with hub := s.hub.receive .p2 b }, decide ((s.hub.port .p2).rx.length < 15)) := by
      simp only [i2cWrite, link]
      rfl
    simp only [i2cBytes, one, ih { s with hub := s.hub.receive .p2 b } more next]
    refine congrArg (Prod.mk _) ?_
    rw [List.length_cons, List.range_succ_eq_map, List.map_cons, List.map_map]
    refine congrArg (List.cons _) (List.map_congr_left fun n _ => decide_eq_decide.mpr ?_)
    by_cases room : (s.hub.port .p2).rx.length < 15
    · rw [Hub.port_receive_room .p2 b s.hub room, List.length_append, List.length_singleton]
      omega
    · rw [Hub.port_receive_full .p2 b s.hub (by simp only [Config.frameSize]; omega)]
      dsimp only
      omega

/-- A discarded frame's bytes are acknowledged as far as the buffer would have had room, and nothing is taken. -/
theorem i2cBytes_dropped (bytes : List Byte) :
    ∀ (s : State) (n : Nat), (s.hub.port .p2).link = .dropped n →
      (s.i2cBytes bytes).2 = (List.range bytes.length).map (fun k => decide (k < n)) ∧
        (s.i2cBytes bytes).1.i2cStop = { hub := s.hub.openLink .p2 .idle, pending := s.pending } := by
  induction bytes with
  | nil => exact fun s n link => ⟨rfl, endTransaction_none (Hub.arrival_dropped .p2 s.hub link)⟩
  | cons b rest ih =>
    intro s n link
    have one : s.i2cWrite b = ({ s with hub := s.hub.setLink .p2 (.dropped (n - 1)) }, decide (0 < n)) := by
      simp [i2cWrite, link]
    obtain ⟨acks, stop⟩ := ih { s with hub := s.hub.setLink .p2 (.dropped (n - 1)) } (n - 1) (by simp)
    simp only [i2cBytes, one]
    refine ⟨?_, by rw [stop]; simp⟩
    rw [acks, List.length_cons, List.range_succ_eq_map, List.map_cons, List.map_map]
    exact congrArg (List.cons _) (List.map_congr_left fun k _ => decide_eq_decide.mpr (by omega))

theorem i2cAddress_unstarted {address : BitVec 7} {read : Bool} (link : (s.hub.port .p2).link ≠ .selected) :
    s.i2cAddress address read = (s, false) := by
  unfold i2cAddress
  split
  · next selected => exact absurd selected link
  all_goals rfl

theorem i2cAddress_other {address : BitVec 7} {read : Bool} (link : (s.hub.port .p2).link = .selected)
    (other : address ≠ s.hub.i2cAddr) :
    s.i2cAddress address read = ({ s with hub := s.hub.openLink .p2 .idle }, false) := by
  unfold i2cAddress
  rw [link]
  exact if_neg other

/-- The part's own address after a START (R182). -/
theorem i2cAddress_started (read : Bool) (s : State) :
    ({ s with hub := s.hub.openLink .p2 .selected } : State).i2cAddress s.hub.i2cAddr read =
      ({ s with hub := s.hub.openLink .p2 (if read then .reading (responseFrame s.hub .p2) else .request none) },
        true) := by
  have own := i2cAddress_own (s := { s with hub := s.hub.openLink .p2 .selected }) read (by simp)
  have address : (s.hub.openLink .p2 .selected).i2cAddr = s.hub.i2cAddr := rfl
  simpa [address] using own

/-- The START and the address of a part that is idle (R182). -/
theorem i2cStart_address (read : Bool) (idle : (s.hub.port .p2).link = .idle) :
    s.i2cStart.i2cAddress s.hub.i2cAddr read =
      ({ s with hub := s.hub.openLink .p2 (if read then .reading (responseFrame s.hub .p2) else .request none) }, true) := by
  have started : s.i2cStart = { s with hub := s.hub.openLink .p2 .selected } := by
    rw [i2cStart, endTransaction_none (Hub.arrival_none (by simp [idle]))]
    simp
  rw [started, i2cAddress_started]

/-- A repeated START ends a write, and a read after it takes the response to what the write brought (R182). -/
theorem i2cStart_restart (s : State) :
    s.i2cStart.i2cAddress s.i2cStop.hub.i2cAddr true =
      ({ s.i2cStop with hub := s.i2cStop.hub.openLink .p2 (.reading (responseFrame s.i2cStop.hub .p2)) }, true) :=
  i2cAddress_started true s.i2cStop

/-- A write of a part that is idle, from its START on: the first 15 bytes are acknowledged, and the STOP brings the
frame (R182). -/
theorem i2cWrite_acks (bytes : List Byte) (s : State) :
    (({ s with hub := s.hub.openLink .p2 (.request none) } : State).i2cBytes bytes) =
      ({ s with hub := (s.hub.openLink .p2 (.request none)).receiveAll .p2 bytes },
        (List.range bytes.length).map fun n => decide (n < 15)) := by
  rw [i2cBytes_request bytes _ none (by simp)]
  simp

theorem i2cStop_receiveAll (bytes : List Byte) (s : State) :
    ({ s with hub := (s.hub.openLink .p2 (.request none)).receiveAll .p2 bytes } : State).i2cStop =
      (((s.hub.openLink .p2 (.request none)).receiveAll .p2 bytes).arrival .p2).elim
        { s with hub := s.hub.openLink .p2 .idle } { s with hub := s.hub.openLink .p2 .idle }.arrive := by
  rw [i2cStop, endTransaction_eq, Hub.openLink_receiveAll]
  simp

end State

/-- Settles O8: the frames, the responses and the transactions of SPI and I2C, each by its rule above. -/
theorem framesAreReadBackAsTheirCommands : Obligations.FramesAreReadBackAsTheirCommands := by
  refine ⟨fun i p bytes => commandOfFrame_encodeFrame, fun p h => ⟨responseFrame_silent, fun r => responseFrame_answer⟩,
    fun s => ⟨rfl, fun n t => State.steps_succ n, fun i => rfl, fun i t => State.arrive_alone⟩, ?spi,
    fun p b s link => State.spiShift_ignored link b, ?broken, ?dropped, fun p b h => Hub.receive_short p b, ?i2c⟩
  case spi =>
    intro p first rest s
    dsimp only
    by_cases request : first = 0x01
    · subst request
      rw [State.spiTransaction_request]
      refine ⟨fun _ => rfl, fun read => absurd read (by decide), fun short => ?_, fun _ long => ?_,
        fun other => absurd rfl other⟩
      · rw [Hub.arrival_receiveAll (by simp) (by simp) short, State.commandOfSpi_request]
      · obtain ⟨bad, broken, arrives⟩ :=
          Hub.arrival_receiveAll_long (h := s.hub.openLink p (.request none)) (p := p) (by simp) long
        exact ⟨bad, broken, by rw [arrives]; rfl⟩
    · have nothing : commandOfSpi p (first :: rest) = none := State.commandOfSpi_other request
      by_cases read : first = 0x02
      · subst read
        rw [State.spiTransaction_read, nothing]
        exact ⟨fun other => absurd rfl other, fun _ => rfl, fun _ => rfl, fun first => absurd first (by decide),
          fun _ => rfl⟩
      · rw [State.spiTransaction_other p rest s request read, nothing]
        exact ⟨fun _ => rfl, fun is => absurd is read, fun _ => rfl, fun is => absurd is request, fun _ => rfl⟩
  case broken =>
    refine fun t => ⟨fun still => ?_, fun left link => ?_, fun beyond link => ?_, fun n link => ?_⟩
    · rcases still with link | link | link <;> simp [PortUnit.brokenOff, link]
    all_goals simp [PortUnit.brokenOff, link, Config.frameSize]
  case dropped =>
    refine fun n s => ⟨fun p link => ⟨State.spiShift_dropped link,
      State.endTransaction_none (Hub.arrival_dropped p s.hub link)⟩, fun link bytes => ?_⟩
    obtain ⟨acks, stop⟩ := State.i2cBytes_dropped bytes s n link
    exact ⟨acks, stop, by simp [State.i2cRead, link]⟩
  case i2c =>
    intro s
    dsimp only
    refine ⟨State.endTransaction_eq .p2 s, rfl, fun _ _ => State.i2cAddress_other, fun read => State.i2cAddress_own read,
      fun _ _ => State.i2cAddress_unstarted, fun _ => Hub.arrival_request, Hub.arrival_none, fun idle bytes => ?_,
      State.i2cStart_address true, fun left link => by simp [State.i2cRead, Hub.byteOut, link]⟩
    rw [State.i2cStart_address false idle]
    simp only [Bool.false_eq_true, if_false, State.i2cWrite_acks]
    have arrives (short : bytes.length ≤ 15) :=
      Hub.arrival_receiveAll (h := s.hub.openLink .p2 (.request none)) (p := .p2) (bytes := bytes) (by simp) (by simp) short
    have stops (short : bytes.length ≤ 15) :
        ({ s with hub := (s.hub.openLink .p2 (.request none)).receiveAll .p2 bytes } : State).i2cStop =
          (commandOfI2c bytes).elim { s with hub := s.hub.openLink .p2 .idle }
            { s with hub := s.hub.openLink .p2 .idle }.arrive := by
      rw [State.i2cStop_receiveAll, arrives short]
      rfl
    refine ⟨trivial, trivial, stops, fun short i frame => ?_, fun long => ?_⟩
    · have taken := stops short
      rw [frame, Option.elim_some] at taken
      rw [← taken, State.i2cStart_restart]
      simp
    · obtain ⟨bad, broken, arrives⟩ :=
        Hub.arrival_receiveAll_long (h := s.hub.openLink .p2 (.request none)) (p := .p2) (by simp) long
      exact ⟨bad, broken, by rw [State.i2cStop_receiveAll, arrives]; rfl⟩

end Sys2Proof.Machine
end

section
/-! What an edit of one channel's claim list leaves (R40, R86 to R88): the list, the handover's settlement, the forming; and
what a sequence of edits on several channels leaves of each. -/

namespace Sys2Proof.Machine.Hub

section
variable {c : Fin 23} {p : Port} {kind : EditKind} {edit : List Claim → List Claim} {h m t : Hub}
variable {outcome : PendingHandover → Option HandoverOutcome} {C : Fin 23 → Bool}

/-! ## The settlement of a handover -/

/-- The outcome an edit of the claim of port `p` gives the handover pending there (R87, R88). -/
def editOutcome (h : Hub) (p : Port) (c : Fin 23) (kind : EditKind) (w : PendingHandover) : Option HandoverOutcome :=
  match kind with
  | .removed => if p = w.holder then some .vacated else if p = w.requester then some .cancelled else none
  | .orphaned => if p = w.holder then some (h.defaultOutcome c) else if p = w.requester then some .cancelled else none
  | .levelChanged => if p = w.holder ∨ p = w.requester then some .cancelled else none
  | .valueChanged => none
  | .placed => none

/-- The settlement grants the handover: the holder's claim is ORPHANED, and the channel's default is a grant. -/
def editGrants (h : Hub) (p : Port) (c : Fin 23) (kind : EditKind) (w : PendingHandover) : Bool :=
  kind == .orphaned && p == w.holder && h.defaultGrants c

/-- A settlement resolves a handover pending, after the reorder where it is granted, or does nothing. -/
theorem settleEdit_eq (c : Fin 23) (p : Port) (kind : EditKind) (h : Hub) :
    h.settleEdit c p kind =
      match (h.chan c).handover.pending with
      | none => h
      | some w =>
        match h.editOutcome p c kind w with
        | none => h
        | some o =>
          (if h.editGrants p c kind w then h.reorder c w.requester w.holder else h).resolve c o w.requester w.holder := by
  unfold settleEdit
  cases (h.chan c).handover.pending with
  | none => rfl
  | some w =>
    dsimp only
    by_cases holder : p = w.holder
    · cases kind <;> simp [holder, editOutcome, editGrants, settleByDefault]
    · by_cases requester : p = w.requester
      · cases kind <;> simp [requester ▸ holder, requester, editOutcome, editGrants]
      · cases kind <;> simp [holder, requester, editOutcome]

/-- From `h` to `m` nothing moved but the list and the handover of channel `c`, and ports. -/
structure Relisted (c : Fin 23) (h m : Hub) : Prop where
  rest : m = { h with ports := m.ports, channels := m.channels }
  chan : m.chan c = { h.chan c with claims := (m.chan c).claims, handover := (m.chan c).handover }
  reach : Reach (only c) h m

theorem Relisted.refl (c : Fin 23) (h : Hub) : Relisted c h h := ⟨rfl, rfl, .refl _ h⟩

theorem Relisted.trans {v : Hub} (a : Relisted c h m) (b : Relisted c m v) : Relisted c h v where
  rest := by rw [b.rest, a.rest]
  chan := by rw [b.chan, a.chan]
  reach := a.reach.trans b.reach

theorem relisted_modChan {f : Channel → Channel}
    (only : f (h.chan c) = { h.chan c with claims := (f (h.chan c)).claims, handover := (f (h.chan c)).handover }) :
    Relisted c h (h.modChan c f) := by
  refine ⟨rfl, ?_, reach_modChan (only_self c) f h⟩
  rw [chan_modChan, if_pos rfl]
  exact only

theorem relisted_resolve (c : Fin 23) (o : HandoverOutcome) (q d : Port) (h : Hub) : Relisted c h (h.resolve c o q d) where
  rest := by
    unfold resolve giveFlagOn
    split <;> rfl
  chan := by rw [chan_resolve, if_pos rfl]
  reach := reach_resolve (only_self c) o q d h

theorem relisted_settleEdit (c : Fin 23) (p : Port) (kind : EditKind) (h : Hub) : Relisted c h (h.settleEdit c p kind) := by
  rw [settleEdit_eq]
  split
  · exact .refl c h
  · split
    · exact .refl c h
    · refine Relisted.trans ?_ (relisted_resolve ..)
      split
      · exact relisted_modChan rfl
      · exact .refl c h

/-- The list after a settlement: the granted handover's reorder, or as it was. -/
theorem claims_settleEdit (c : Fin 23) (p : Port) (kind : EditKind) (h : Hub) :
    ((h.settleEdit c p kind).chan c).claims =
      match (h.chan c).handover.pending with
      | none => (h.chan c).claims
      | some w =>
        if h.editGrants p c kind w then grantReorder w.requester w.holder (h.chan c).claims else (h.chan c).claims := by
  rw [settleEdit_eq]
  cases (h.chan c).handover.pending with
  | none => rfl
  | some w =>
    dsimp only
    cases settled : h.editOutcome p c kind w with
    | none =>
      have denied : h.editGrants p c kind w = false := by
        refine Bool.eq_false_iff.mpr fun grants => ?_
        simp only [editGrants, Bool.and_eq_true, beq_iff_eq] at grants
        obtain ⟨⟨rfl, rfl⟩, _⟩ := grants
        simp [editOutcome] at settled
      simp [denied]
    | some o =>
      dsimp only
      rw [chan_resolve, if_pos rfl]
      split
      · rw [reorder, chan_modChan, if_pos rfl]
      · rfl

theorem handoverSettled_settleEdit (c : Fin 23) (p : Port) (kind : EditKind) (h : Hub) :
    HandoverSettled c (h.editOutcome p c kind) h (h.settleEdit c p kind) := by
  rw [settleEdit_eq]
  unfold HandoverSettled
  cases (h.chan c).handover.pending with
  | none => rfl
  | some w =>
    dsimp only
    cases h.editOutcome p c kind w with
    | none => rfl
    | some o => exact resolve_settles ..

/-- The settlement is judged on the handover record alone. -/
theorem HandoverSettled.before (settled : HandoverSettled c outcome h t)
    (same : (m.chan c).handover = (h.chan c).handover) : HandoverSettled c outcome m t := by
  unfold HandoverSettled at settled ⊢
  rw [same]
  exact settled

/-- A settlement stands while the record and the channel's place in the asked sets do. -/
theorem HandoverSettled.after (settled : HandoverSettled c outcome h m) (record : (t.chan c).handover = (m.chan c).handover)
    (asked : ∀ q, (t.port q).asked.getLsbD c.val = (m.port q).asked.getLsbD c.val) (reach : Reach C m t) :
    HandoverSettled c outcome h t := by
  unfold HandoverSettled at settled ⊢
  cases pending : (h.chan c).handover.pending with
  | none => simp only [pending] at settled ⊢; exact record.trans settled
  | some w =>
    simp only [pending] at settled ⊢
    cases given : outcome w with
    | none => simp only [given] at settled ⊢; exact record.trans settled
    | some o =>
      simp only [given] at settled ⊢
      obtain ⟨done, dropped, told⟩ := settled
      refine ⟨record.trans done, (asked _).trans dropped, fun live => ?_⟩
      obtain ⟨flag, change⟩ := told ((reach.attached _).symm.trans live)
      exact ⟨reach.flagsGain _ _ flag, reach.changeGains _ _ change⟩

/-! ## The forming after it -/

/-- A forming after an edit of the list takes the stepper's stay as it stood before (R49). -/
theorem stayTaken_form (edited : Relisted c h m) : StayTaken c h (m.form c .edit) := by
  have input : (m.chan c).input = (h.chan c).input := by rw [edited.chan]
  have eff : (m.chan c).eff = (h.chan c).eff := by rw [edited.chan]
  have formed : (m.form c .edit).chan c = m.formedChannel c .edit := by rw [chan_form, if_pos rfl]
  refine ⟨fun u own rests away => ?_, fun claimed => ?_⟩
  · subst own
    have before : m.RestsOnStay (stepperChannel u) := by
      unfold RestsOnStay at rests ⊢
      rw [formed] at rests
      exact rests
    have same : m.stayOf u = h.stayOf u := by
      rw [edited.rest]
      rfl
    rw [(stayFormed_form u .edit m).taken before (by rw [eff]; exact away) (by simp), same]
  · rw [formed] at claimed ⊢
    exact stayAfter_absent .edit fun rests => claimed rests.1

/-- What an edit of a channel's list leaves: the list, its handover settled, the channel formed. -/
structure Edited (c : Fin 23) (outcome : PendingHandover → Option HandoverOutcome) (list : List Claim) (h t : Hub) :
    Prop where
  claims : (t.chan c).claims = list
  settled : HandoverSettled c outcome h t
  input : (t.chan c).input = (h.chan c).input
  formed : t.Formed c
  stay : StayTaken c h t
  reach : Reach (only c) h t

theorem asked_form (cause : FormCause) (q : Port) : ((h.form c cause).port q).asked = (h.port q).asked :=
  (tells_form c cause h).asked q

theorem editOutcome_modChan {f : Channel → Channel} : (h.modChan c f).editOutcome p c kind = h.editOutcome p c kind := rfl

theorem edited_editClaims (c : Fin 23) (p : Port) (kind : EditKind) (edit : List Claim → List Claim) (h : Hub) :
    Edited c (h.editOutcome p c kind)
      (match (h.chan c).handover.pending with
       | none => edit (h.chan c).claims
       | some w =>
         if h.editGrants p c kind w then grantReorder w.requester w.holder (edit (h.chan c).claims)
         else edit (h.chan c).claims)
      h (h.editClaims c p kind edit) := by
  have listed : (h.modChan c fun x => { x with claims := edit x.claims }).chan c =
      { h.chan c with claims := edit (h.chan c).claims } := by rw [chan_modChan, if_pos rfl]
  have edited : Relisted c h (h.modChan c fun x => { x with claims := edit x.claims }) := relisted_modChan rfl
  have settles := handoverSettled_settleEdit c p kind (h.modChan c fun x => { x with claims := edit x.claims })
  have relisted := edited.trans (relisted_settleEdit c p kind _)
  have formed (x : Hub) : ((x.form c .edit).chan c) = x.formedChannel c .edit := by rw [chan_form, if_pos rfl]
  unfold editClaims
  refine ⟨?_, ?_, ?_, formed_form .., stayTaken_form relisted, relisted.reach.trans (reach_form (only_self c) .edit _)⟩
  · rw [formed, formedChannel_claims, claims_settleEdit, listed]
    rfl
  · refine ((settles.before ?_).after ?_ (fun q => by rw [asked_form]) (reach_form (C := only c) (only_self c) .edit _))
    · rw [listed]
    · rw [formed]
      rfl
  · rw [form_input, relisted.chan]

theorem editGrants_of_ne (other : kind ≠ .orphaned) (w : PendingHandover) : h.editGrants p c kind w = false := by
  simp [editGrants, other]

/-- An edit other than the orphaning of a claim leaves the list it makes. -/
theorem edited_of_ne (c : Fin 23) (p : Port) (edit : List Claim → List Claim) (h : Hub) (other : kind ≠ .orphaned) :
    Edited c (h.editOutcome p c kind) (edit (h.chan c).claims) h (h.editClaims c p kind edit) := by
  have edited := edited_editClaims c p kind edit h
  have plain : (match (h.chan c).handover.pending with
      | none => edit (h.chan c).claims
      | some w =>
        if h.editGrants p c kind w then grantReorder w.requester w.holder (edit (h.chan c).claims)
        else edit (h.chan c).claims) = edit (h.chan c).claims := by
    split
    · rfl
    · rw [if_neg (by simp [editGrants_of_ne other])]
  exact { edited with claims := edited.claims.trans plain }

/-! ## Frames of an edit -/

theorem stayOf_congr {u : Fin 2} (stepper : m.stepper u = h.stepper u) (work : m.work = h.work) : m.stayOf u = h.stayOf u := by
  unfold stayOf
  rw [stepper, work]

/-- The stay is judged on the channel and its stepper. -/
theorem StayTaken.before (stay : StayTaken c h t) (chan : (m.chan c).eff = (h.chan c).eff)
    (stepper : ∀ u, c = stepperChannel u → m.stepper u = h.stepper u) (work : m.work = h.work) : StayTaken c m t :=
  ⟨fun u own rests away => by
    rw [stay.emptied u own rests (by rw [← chan]; exact away), stayOf_congr (stepper u own) work], stay.claimed⟩

theorem StayTaken.after (stay : StayTaken c h m) (same : t.chan c = m.chan c) : StayTaken c h t := by
  refine ⟨fun u own rests away => ?_, fun claimed => ?_⟩
  · rw [same]
    exact stay.emptied u own (by unfold RestsOnStay at rests ⊢; rwa [same] at rests) away
  · rw [same] at claimed ⊢
    exact stay.claimed claimed

theorem Formed.after (formed : m.Formed c) (same : t.chan c = m.chan c) (reach : Reach C m t) : t.Formed c :=
  formed.alike (by rw [same]; exact .refl _) reach.mode (refRateOf_of_work reach.work c)

/-! ## Edits of several channels -/

/-- The channels other than one. -/
def others (c k : Fin 23) : Bool := k != c

theorem others_self (c : Fin 23) : others c c = false := by simp [others]

/-- An element of a list without repetitions stands neither before nor after itself. -/
theorem not_mem_around {α : Type} {x : α} {pre post : List α} (nodup : (pre ++ x :: post).Nodup) : x ∉ pre ∧ x ∉ post := by
  rw [List.nodup_append, List.nodup_cons] at nodup
  obtain ⟨_, ⟨after, _⟩, apart⟩ := nodup
  exact ⟨fun own => apart x own x List.mem_cons_self rfl, after⟩

/-- In a sequence of edits on different channels each has its own moment; before and after it the channel is left alone. -/
theorem foldl_moment {f : Hub → Fin 23 → Hub} (one : ∀ h k, Reach (only k) h (f h k)) {xs : List (Fin 23)}
    (nodup : xs.Nodup) (mem : c ∈ xs) (h : Hub) :
    ∃ m, Reach (others c) h m ∧ Reach (others c) (f m c) (xs.foldl f h) := by
  have elsewhere (ys : List (Fin 23)) (apart : c ∉ ys) (x : Hub) : Reach (others c) x (ys.foldl f x) :=
    List.foldlRecOn (motive := Reach (others c) x) ys f (.refl _ x) fun t so k mem =>
      so.trans ((one t k).mono fun j own => by
        have same : j = k := by simpa [only] using own
        subst same
        exact bne_iff_ne.mpr fun same => apart (same ▸ mem))
  obtain ⟨pre, post, rfl⟩ := List.append_of_mem mem
  obtain ⟨before, after⟩ := not_mem_around nodup
  refine ⟨pre.foldl f h, elsewhere pre before h, ?_⟩
  rw [List.foldl_append, List.foldl_cons]
  exact elsewhere post after _

/-- What an edit leaves stands while only the other channels are reached. -/
theorem Edited.inMoment {list : List Claim} {before after : Hub} (edited : Edited c outcome list m t)
    (since : Reach (others c) before m) (till : Reach (others c) t after) :
    (after.chan c).claims = list ∧ HandoverSettled c outcome before after ∧ after.Formed c ∧ StayTaken c before after := by
  have first := since.channels c (others_self c)
  have last := till.channels c (others_self c)
  have steppers (u : Fin 2) (own : c = stepperChannel u) : before.stepper u = m.stepper u :=
    (since.steppers u (by rw [← own]; exact others_self c)).symm
  exact ⟨by rw [last]; exact edited.claims,
    (edited.settled.before (by rw [first])).after (by rw [last]) (fun q => till.asked q c (others_self c)) till,
    edited.formed.after last till,
    (edited.stay.before (by rw [first]) steppers since.work.symm).after last⟩

end
end Sys2Proof.Machine.Hub
end

section
/-! A port gives up its claims: RELEASE, RELEASE_ALL, DETACH and the reset of a port (R31, R32, R60, R70). -/

namespace Sys2Proof.Machine
namespace Hub

variable {c : Fin 23} {p : Port} {h m t : Hub} {outcome : PendingHandover → Option HandoverOutcome} {C : Fin 23 → Bool}

/-! ## One claim -/

theorem editOutcome_removed (holds : h.holdsClaim p c = true) (m : Hub) :
    m.editOutcome p c .removed = h.removalOutcome p c := by
  funext w
  simp [editOutcome, removalOutcome, holds]

theorem edited_removeClaim (holds : h.holdsClaim p c = true) (m : Hub) :
    Edited c (h.removalOutcome p c) (withoutPort p (m.chan c).claims) m (m.removeClaim p c) := by
  have edited := edited_of_ne (kind := .removed) c p (withoutPort p) m (by simp)
  rw [editOutcome_removed holds] at edited
  exact edited

theorem withoutPort_of_absent {claims : List Claim} (absent : (claimOf p claims).isSome = false) :
    withoutPort p claims = claims := by
  rw [Option.isSome_eq_false_iff, Option.isNone_iff_eq_none, claimOf, List.find?_eq_none] at absent
  exact List.filter_eq_self.mpr fun x mem => by simpa using absent x mem

theorem removalOutcome_congr (same : (m.chan c).claims = (h.chan c).claims) :
    m.removalOutcome p c = h.removalOutcome p c := by
  funext w
  unfold removalOutcome holdsClaim
  rw [same]

theorem HandoverSettled.of_kept (kept : (t.chan c).handover = (h.chan c).handover) (none : ∀ w, outcome w = none) :
    HandoverSettled c outcome h t := by
  unfold HandoverSettled
  split
  · exact kept
  · rw [none]
    exact kept

/-! ## Every claim of a port -/

/-- Port `p` has given up its claims from `h` to `t`: its handovers are settled, and its channels formed. -/
structure GaveUp (p : Port) (h t : Hub) : Prop where
  claims : ∀ c, (t.chan c).claims = withoutPort p (h.chan c).claims
  settled : ∀ c, HandoverSettled c (h.removalOutcome p c) h t
  formed : ∀ c, h.holdsClaim p c = true → t.Formed c ∧ StayTaken c h t

theorem channelsOf_nodup (h : Hub) (p : Port) : (h.channelsOf p).Nodup := (List.nodup_finRange 23).filter _

theorem mem_channelsOf : c ∈ h.channelsOf p ↔ h.holdsClaim p c = true := by simp [channelsOf]

theorem reach_removeClaim (p : Port) (h : Hub) (k : Fin 23) : Reach (only k) h (h.removeClaim p k) :=
  reach_editClaims (only_self k) ..

theorem gaveUp_removeClaims (p : Port) (h : Hub) : GaveUp p h (h.removeClaims p) := by
  have held {c : Fin 23} (holds : h.holdsClaim p c = true) :
      ((h.removeClaims p).chan c).claims = withoutPort p (h.chan c).claims ∧
        HandoverSettled c (h.removalOutcome p c) h (h.removeClaims p) ∧ (h.removeClaims p).Formed c ∧
          StayTaken c h (h.removeClaims p) := by
    obtain ⟨m, since, till⟩ :=
      foldl_moment (f := removeClaim p) (reach_removeClaim p) (channelsOf_nodup h p) (mem_channelsOf.mpr holds) h
    have edited := edited_removeClaim holds m
    rw [since.channels c (others_self c)] at edited
    exact edited.inMoment since till
  have reach := reach_removeClaims p h
  have spared {c : Fin 23} (out : h.holdsClaim p c = false) : (h.removeClaims p).chan c = h.chan c :=
    reach.channels c out
  refine ⟨fun c => ?_, fun c => ?_, fun c holds => (held holds).2.2⟩
  · cases holds : h.holdsClaim p c with
    | true => exact (held holds).1
    | false => rw [spared holds, withoutPort_of_absent holds]
  · cases holds : h.holdsClaim p c with
    | true => exact (held holds).2.1
    | false => exact .of_kept (by rw [spared holds]) fun w => by simp [removalOutcome, holds]

theorem GaveUp.before (gone : GaveUp p h t) (chan : ∀ c, m.chan c = h.chan c) (stepper : ∀ u, m.stepper u = h.stepper u)
    (work : m.work = h.work) : GaveUp p m t := by
  have holds (c : Fin 23) : m.holdsClaim p c = h.holdsClaim p c := by rw [holdsClaim, chan]; rfl
  refine ⟨fun c => by rw [chan]; exact gone.claims c, fun c => ?_, fun c held => ?_⟩
  · rw [removalOutcome_congr (h := h) (by rw [chan])]
    exact (gone.settled c).before (by rw [chan])
  · obtain ⟨formed, stay⟩ := gone.formed c (by rw [← holds]; exact held)
    exact ⟨formed, stay.before (by rw [chan]) (fun u _ => stepper u) work⟩

/-- The port that gave its claims up may lose its record: it is asked nothing, and not ATTACHED. -/
theorem GaveUp.modPort {f : PortUnit → PortUnit} (gone : GaveUp p h t) (asked : (f (t.port p)).asked = 0)
    (detached : (f (t.port p)).tenancy = .detached) : GaveUp p h (t.modPort p f) := by
  refine ⟨gone.claims, fun c => ?_, fun c holds => ?_⟩
  · have settled := gone.settled c
    unfold HandoverSettled at settled ⊢
    cases pending : (h.chan c).handover.pending with
    | none =>
      simp only [pending] at settled
      exact settled
    | some w =>
      simp only [pending] at settled ⊢
      cases given : h.removalOutcome p c w with
      | none =>
        simp only [given] at settled
        exact settled
      | some o =>
        simp only [given] at settled ⊢
        obtain ⟨record, dropped, told⟩ := settled
        refine ⟨record, ?_, fun live => ?_⟩
        · rw [port_modPort]
          split
          · rw [asked]
            exact BitVec.getLsbD_zero
          · exact dropped
        · by_cases own : p = w.requester
          · rw [attached, port_modPort, if_pos own, detached] at live
            cases live
          · unfold attached hasFlag hasChange at *
            rw [port_modPort, if_neg own] at live ⊢
            exact told live
  · obtain ⟨formed, stay⟩ := gone.formed c holds
    exact ⟨formed.alike (.refl _) rfl rfl, stay.after rfl⟩

/-- What is reached beyond the port itself. -/
theorem Reach.portSet (a : Reach C h t) (p : Port) (x : PortUnit) :
    Reach C (h.modPort p fun _ => x) (t.modPort p fun _ => x) := by
  have own (y : Hub) : (y.modPort p fun _ => x).port p = x := by rw [port_modPort, if_pos rfl]
  have other (y : Hub) {q : Port} (apart : p ≠ q) : (y.modPort p fun _ => x).port q = y.port q := by
    rw [port_modPort, if_neg apart]
  refine
    { rest := by rw [a.rest]; rfl
      ports := fun q => ?_
      unattached := fun q out => ?_
      flagsGain := fun q n => ?_
      changeGains := fun q n => ?_
      changeFrom := fun q c given => ?_
      asked := fun q c out => ?_
      channels := a.channels
      relays := a.relays
      dead := a.dead
      lamps := a.lamps
      sounder := a.sounder
      steppers := a.steppers
      mute := a.mute }
  all_goals rcases Decidable.em (p = q) with rfl | apart
  · rw [own, own]
  · rw [other h apart, other t apart]
    exact a.ports q
  · rw [own, own]
    exact ⟨rfl, rfl⟩
  · unfold Hub.attached at out
    rw [other h apart] at out
    rw [other h apart, other t apart]
    exact a.unattached q out
  · rw [own, own]
    exact id
  · rw [other h apart, other t apart]
    exact a.flagsGain q n
  · rw [own, own]
    exact id
  · rw [other h apart, other t apart]
    exact a.changeGains q n
  · rw [own] at given ⊢
    exact .inl given
  · rw [other t apart] at given
    rw [other h apart]
    exact a.changeFrom q c given
  · rw [own, own]
  · rw [other h apart, other t apart]
    exact a.asked q c out

/-- A port that leaves: its claims are given up, and it is reached beyond its own record as they were. -/
theorem gaveUp_leave (p : Port) (h : Hub) {f : PortUnit → PortUnit} (asked : ∀ x, (f x).asked = 0)
    (detached : ∀ x, x.tenancy = .detached → (f x).tenancy = .detached) :
    GaveUp p h (((h.setTenancy p .detached).removeClaims p).modPort p f) ∧
      Reach (h.heldBy p)
        (h.modPort p fun _ => (((h.setTenancy p .detached).removeClaims p).modPort p f).port p)
        (((h.setTenancy p .detached).removeClaims p).modPort p f) := by
  have gone := (gaveUp_removeClaims p (h.setTenancy p .detached)).before (m := h) (fun _ => rfl) (fun _ => rfl) rfl
  have tenancy : (((h.setTenancy p .detached).removeClaims p).port p).tenancy = .detached := by
    rw [(spares_removeClaims p _).tenancy p, port_setTenancy_same]
  refine ⟨gone.modPort (asked _) (detached _ tenancy), ?_⟩
  have reach := (reach_removeClaims p (h.setTenancy p .detached)).portSet p
    (f (((h.setTenancy p .detached).removeClaims p).port p))
  have constant (m : Hub) : (m.modPort p fun _ => f (m.port p)) = m.modPort p f := rfl
  rw [constant, setTenancy, modPort_modPort] at reach
  rw [port_modPort, if_pos rfl]
  exact reach

/-- What the removal leaves of the port's own record. -/
theorem port_removed (p : Port) (h : Hub) :
    ((h.setTenancy p .detached).removeClaims p).port p =
      { h.port p with
        tenancy := .detached
        flags := (((h.setTenancy p .detached).removeClaims p).port p).flags
        change := (((h.setTenancy p .detached).removeClaims p).port p).change
        asked := (((h.setTenancy p .detached).removeClaims p).port p).asked } := by
  have kept := (reach_removeClaims p (h.setTenancy p .detached)).ports p
  have before : (h.setTenancy p .detached).port p = { h.port p with tenancy := .detached } := by
    rw [setTenancy, port_modPort, if_pos rfl]
  rw [before] at kept
  exact kept

/-- The record of a port that restarts its lease, but for its tenancy and its flags. -/
theorem port_restartLease_rest (p : Port) (h : Hub) :
    (restartLease p h).port p =
      { h.port p with tenancy := ((restartLease p h).port p).tenancy, flags := ((restartLease p h).port p).flags } := by
  cases live : h.attached p with
  | true => rw [restartLease_attached live, port_modPort, if_pos rfl]
  | false => rw [restartLease_other live]

theorem modPort_restartLease (p : Port) (x : PortUnit) (h : Hub) :
    ((restartLease p h).modPort p fun _ => x) = h.modPort p fun _ => x := by
  cases live : h.attached p with
  | true => rw [restartLease_attached live, modPort_modPort]
  | false => rw [restartLease_other live]

theorem heldBy_restartLease (p q : Port) (h : Hub) : (restartLease p h).heldBy q = h.heldBy q := by
  funext c
  exact restartLease_holdsClaim ..

end Hub

/-- Settles O11: the port leaves, with its lease restarted before. -/
theorem detachGivesUpEverything : Obligations.DetachGivesUpEverything := by
  intro p s heard started tenant
  have decided : exec (.detach p) s = onRequest p (Hub.decideDetach p) s := rfl
  have taken : (Hub.restartLease p s.hub).decideDetach p =
      (((Hub.restartLease p s.hub).setTenancy p .detached).removeClaims p).modPort p fun x =>
        { x with flags := 0, change := 0, asked := 0, mask := 0, resp := some ⟨.ok, [byteOf (s.hub.holding p)]⟩ } := by
    have tenant' : ((Hub.restartLease p s.hub).port p).tenancy ≠ .detached := by
      cases live : s.hub.attached p with
      | true => rw [Hub.restartLease_tenancy live]; simp
      | false => rw [Hub.restartLease_other live]; exact tenant
    unfold Hub.decideDetach
    rw [Hub.refuseFirst_pass _ _ _ _ (by simp [started, tenant']), Hub.restartLease_holding, Hub.respond, Hub.leave,
      Hub.clearPort, Hub.modPort_modPort]
  obtain ⟨gone, reach⟩ := Hub.gaveUp_leave p (Hub.restartLease p s.hub)
    (f := fun x => { x with
      flags := 0, change := 0, asked := 0, mask := 0, resp := some ⟨.ok, [byteOf (s.hub.holding p)]⟩ })
    (fun _ => rfl) fun _ detached => detached
  have own := gone.before (m := s.hub) (by simp) (by simp) (by simp)
  refine ⟨_, by rw [decided, onRequest_heard p _ s heard, taken], ?_, own.claims, own.settled, own.formed, ?_⟩
  · rw [Hub.port_modPort, if_pos rfl, Hub.port_removed, Hub.port_restartLease_rest]
  · rw [Hub.heldBy_restartLease, Hub.modPort_restartLease] at reach
    exact reach

/-- Settles O12: the port leaves, and its record takes the reset values. -/
theorem portResetClearsThePort : Obligations.PortResetClearsThePort := by
  intro p s
  have decided : exec (.portReset p) s = onEvent (fun h => if (h.port p).resetLow then h else h.resetPort p) s := rfl
  refine ⟨fun low => ?_, fun high => ?_, rfl⟩
  · rw [decided]
    exact onEvent_still (if_pos low)
  · have taken : s.hub.resetPort p = ((s.hub.setTenancy p .detached).removeClaims p).modPort p fun x => { x with
        flags := 0, change := 0, asked := 0, mask := 0, rx := [], resp := none, resetLow := true, link := x.brokenOff } := by
      rw [Hub.resetPort, Hub.leave, Hub.clearPort, Hub.modPort_modPort]
      rfl
    obtain ⟨gone, reach⟩ := Hub.gaveUp_leave p s.hub
      (f := fun x => { x with
        flags := 0, change := 0, asked := 0, mask := 0, rx := [], resp := none, resetLow := true, link := x.brokenOff })
      (fun _ => rfl) fun _ detached => detached
    refine ⟨_, ?_, ?_, gone.claims, gone.settled, gone.formed, reach⟩
    · rw [decided]
      exact onEvent_of_eq ((if_neg (by simp [high])).trans taken)
    · rw [Hub.port_modPort, if_pos rfl, Hub.port_removed]
      rfl

/-! ## RELEASE and RELEASE_ALL -/

section
variable {i : Instr} {p : Port} {s : State} {ch : Byte}

/-- The refusals that follow a failing condition are not reached. -/
theorem RefusedInOrder.append {conditions : List (Prop × Result)} (refused : RefusedInOrder i p s conditions)
    (fails : ∃ x ∈ conditions, x.1) (more : List (Prop × Result)) : RefusedInOrder i p s (conditions ++ more) := by
  induction conditions with
  | nil => obtain ⟨x, mem, _⟩ := fails; cases mem
  | cons x rest ih =>
    obtain ⟨first, later⟩ := refused
    refine ⟨first, fun passes => ih (later passes) ?_⟩
    obtain ⟨y, mem, holds⟩ := fails
    rcases List.mem_cons.mp mem with rfl | mem
    · exact absurd holds passes
    · exact ⟨y, mem, holds⟩

/-- The conditions of a request of the claim pool that names a channel: those after BAD_CHANNEL may take the channel for
named. -/
theorem refusedInOrder_onChannel {more : List (Prop × Result)}
    (first : RefusedInOrder i p s [(s.hub.mode = .faultHold, .startupFault), (22 < ch.toNat, .badChannel)])
    (rest : ∀ c, channelNo ch = some c →
      RefusedInOrder i p s ((s.hub.mode = .faultHold, .startupFault) :: (22 < ch.toNat, .badChannel) :: more)) :
    RefusedInOrder i p s ((s.hub.mode = .faultHold, .startupFault) :: (22 < ch.toNat, .badChannel) :: more) := by
  cases named : channelNo ch with
  | none =>
    have wide := (channelNo_isNone ch).mp (by rw [named]; rfl)
    exact first.append ⟨_, List.mem_cons_of_mem _ (List.mem_singleton.mpr rfl), wide⟩ more
  | some c => exact rest c named

/-- The refusals of a request whose conditions stand for all of its own checks. -/
theorem refusedInOrder_all {checks : Hub → List (Bool × Result)} {taken : Hub → Hub} {conditions : List (Prop × Result)}
    (asks : s.hub.MayAsk p)
    (decided : exec i s = onRequest p (fun h => h.refuseFirst p (h.standing p ++ checks h) (taken h)) s)
    (same : ChecksFor (checks (Hub.restartLease p s.hub)) conditions) : RefusedInOrder i p s conditions :=
  refusedInOrder_asked (more := fun _ => []) asks (by simpa only [List.append_nil] using decided) same

theorem channelNo_narrow {c : Fin 23} (named : channelNo ch = some c) : ¬ 22 < ch.toNat := fun wide => by
  have none := (channelNo_isNone ch).mpr wide
  rw [named] at none
  cases none

end

theorem exec_release (p : Port) (ch : Byte) (s : State) :
    exec (.release p ch) s = onRequest p (fun h => h.refuseFirst p
      (h.standing p ++ [(h.inFaultHold, .startupFault), ((channelNo ch).isNone, .badChannel),
        (h.lacksClaim p ch, .noClaim)])
      (h.onChannel ch fun c x => (x.removeClaim p c).respond p .ok [])) s := rfl

theorem exec_releaseAll (p : Port) (s : State) :
    exec (.releaseAll p) s = onRequest p (fun h => h.refuseFirst p
      (h.standing p ++ [(h.inFaultHold, .startupFault)])
      ((h.removeClaims p).respond p .ok [byteOf (h.holding p)])) s := rfl

theorem Hub.inFaultHold_restartLease (p : Port) (h : Hub) : (Hub.restartLease p h).inFaultHold = h.inFaultHold := by
  simp [Hub.inFaultHold]

theorem Hub.inFaultHold_iff {h : Hub} : h.inFaultHold = true ↔ h.mode = .faultHold := by simp [Hub.inFaultHold]

theorem Hub.lacksClaim_named {p : Port} {ch : Byte} {c : Fin 23} {h : Hub} (named : channelNo ch = some c) :
    h.lacksClaim p ch = !h.holdsClaim p c := by
  rw [Hub.lacksClaim, named]

theorem Hub.onChannel_named {ch : Byte} {c : Fin 23} (named : channelNo ch = some c) (f : Fin 23 → Hub → Hub) (h : Hub) :
    h.onChannel ch f = f c h := by
  rw [Hub.onChannel, named]

/-- The edits of a request, judged on the part at its arrival. -/
theorem Hub.Edited.atArrival {c : Fin 23} {p : Port} {outcome : PendingHandover → Option HandoverOutcome}
    {list : List Claim} {h t : Hub} (edited : Hub.Edited c outcome list (Hub.restartLease p h) t) :
    (t.chan c).claims = list ∧ Hub.HandoverSettled c outcome h t ∧ (t.chan c).input = (h.chan c).input ∧
      t.Formed c ∧ Hub.StayTaken c h t ∧ Hub.Reach (Hub.only c) (Hub.restartLease p h) t :=
  ⟨edited.claims, edited.settled.before (by simp), by rw [edited.input]; simp, edited.formed,
    edited.stay.before (by simp) (by simp) (by simp), edited.reach⟩

theorem releases_refused (p : Port) (ch : Byte) (s : State) (asks : s.hub.MayAsk p) :
    RefusedInOrder (.release p ch) p s
      [(s.hub.mode = .faultHold, .startupFault), (22 < ch.toNat, .badChannel),
        (∀ c, channelNo ch = some c → s.hub.holdsClaim p c = false, .noClaim)] := by
  refine refusedInOrder_onChannel ?_ fun c named => ?_
  · refine refusedInOrder_asked (checks := fun h => [(h.inFaultHold, .startupFault), ((channelNo ch).isNone, .badChannel)])
      (more := fun h => [(h.lacksClaim p ch, .noClaim)]) asks (exec_release p ch s) ?_
    simpa [Hub.inFaultHold_iff] using channelNo_isNone ch
  · refine refusedInOrder_all asks (exec_release p ch s) ?_
    simpa [Hub.inFaultHold_iff, Hub.lacksClaim_named named, named] using channelNo_narrow named

/-- Settles O19: the removals of the claims, and the checks before them. -/
theorem releasesRemoveThePortsClaims : Obligations.ReleasesRemoveThePortsClaims := by
  refine ⟨fun p ch c s asks open_ named holds => ?_, fun p s asks open_ => ?_, fun p ch s asks =>
    ⟨releases_refused p ch s asks, ?_⟩⟩
  · have edited := Hub.edited_removeClaim (h := s.hub) holds (Hub.restartLease p s.hub)
    rw [Hub.restartLease_chan] at edited
    obtain ⟨claims, settled, _, formed, stay, reach⟩ := edited.atArrival
    refine ⟨_, ?_, claims, settled, formed, stay, reach⟩
    rw [exec_taken asks (exec_release p ch s)
      (by simp [Hub.inFaultHold, open_, named, Hub.lacksClaim_named named, holds]), Hub.onChannel_named named]
  · have gone := Hub.gaveUp_removeClaims p (Hub.restartLease p s.hub)
    have own := gone.before (m := s.hub) (by simp) (by simp) (by simp)
    refine ⟨_, ?_, own.claims, own.settled, own.formed, ?_⟩
    · rw [exec_taken asks (exec_releaseAll p s) (by simp [Hub.inFaultHold, open_]), Hub.restartLease_holding]
    · have reach := Hub.reach_removeClaims p (Hub.restartLease p s.hub)
      rwa [Hub.heldBy_restartLease] at reach
  · exact refusedInOrder_all asks (exec_releaseAll p s) (by simp [Hub.inFaultHold_iff])

end Sys2Proof.Machine
end

section
/-! The lapse of a port (R63, R64, R88). -/

namespace Sys2Proof.Machine
namespace Hub

variable {c : Fin 23} {p : Port} {h m t : Hub}

/-- What a lapse leaves of a list before a handover is granted: the port's DROP claims gone, its KEEP claims ORPHANED. -/
def lapsedClaims (p : Port) (claims : List Claim) : List Claim :=
  (claims.filter fun x => !(x.port == p && x.policy == .drop)).map fun x =>
    if x.port = p then { x with state := .orphaned } else x

theorem lapsedClaims_of_absent {claims : List Claim} (absent : claimOf p claims = none) : lapsedClaims p claims = claims := by
  rw [claimOf, List.find?_eq_none] at absent
  have apart : ∀ x ∈ claims, x.port ≠ p := fun x mem => by simpa using absent x mem
  unfold lapsedClaims
  rw [List.filter_eq_self.mpr fun x mem => by simp [apart x mem], List.map_congr_left fun x mem => if_neg (apart x mem),
    List.map_id']

/-- A port's one claim on a list decides for each of its claims there. -/
theorem eq_of_claimOf {claims : List Claim} {x y : Claim} (nodup : (claims.map (·.port)).Nodup)
    (own : claimOf p claims = some x) (mem : y ∈ claims) (port : y.port = p) : y = x := by
  have found := claimOf_of_mem nodup mem
  rw [port, own] at found
  exact (Option.some.inj found).symm

theorem lapsedClaims_of_drop {claims : List Claim} {x : Claim} (nodup : (claims.map (·.port)).Nodup)
    (own : claimOf p claims = some x) (drop : x.policy = .drop) : lapsedClaims p claims = withoutPort p claims := by
  have same : (claims.filter fun y => !(y.port == p && y.policy == .drop)) = withoutPort p claims := by
    refine List.filter_congr fun y mem => ?_
    by_cases port : y.port = p
    · obtain rfl := eq_of_claimOf nodup own mem port
      simp [port, drop]
    · simp [bne, beq_eq_false_iff_ne.mpr port]
  unfold lapsedClaims
  rw [same]
  refine (List.map_congr_left fun y mem => if_neg ?_).trans (List.map_id' _)
  simpa [withoutPort] using (List.mem_filter.mp mem).2

theorem lapsedClaims_of_keep {claims : List Claim} {x : Claim} (nodup : (claims.map (·.port)).Nodup)
    (own : claimOf p claims = some x) (keep : x.policy = .keep) :
    lapsedClaims p claims = claims.map fun y => if y.port = p then { y with state := .orphaned } else y := by
  unfold lapsedClaims
  rw [List.filter_eq_self.mpr fun y mem => ?_]
  by_cases port : y.port = p
  · simp [eq_of_claimOf nodup own mem port, keep]
  · simp [port]

/-- The list a lapse leaves, a handover granted among its effects. -/
def claimsAfterLapse (h : Hub) (p : Port) (c : Fin 23) : List Claim :=
  match (h.chan c).handover.pending with
  | none => lapsedClaims p (h.chan c).claims
  | some w =>
    if w.holder = p ∧ h.defaultGrants c = true ∧
        (claimOf p (h.chan c).claims).any (fun x => x.policy == .keep) = true then
      grantReorder w.requester w.holder (lapsedClaims p (h.chan c).claims)
    else lapsedClaims p (h.chan c).claims

theorem claimsAfterLapse_of_not_keep
    (other : (claimOf p (h.chan c).claims).any (fun x => x.policy == .keep) = false) :
    h.claimsAfterLapse p c = lapsedClaims p (h.chan c).claims := by
  unfold claimsAfterLapse
  split
  · rfl
  · exact if_neg fun ⟨_, _, keep⟩ => by simp [other] at keep

theorem edited_lapseClaim {x : Claim} (nodup : ((h.chan c).claims.map (·.port)).Nodup)
    (own : claimOf p (h.chan c).claims = some x) (chan : m.chan c = h.chan c) (work : m.work = h.work) :
    Edited c (h.lapseOutcome p c) (h.claimsAfterLapse p c) m (m.lapseClaim p c) := by
  have grants : m.defaultGrants c = h.defaultGrants c := by rw [defaultGrants, work]; rfl
  unfold lapseClaim
  rw [chan, own]
  dsimp only
  cases policy : x.policy with
  | drop =>
    have edited := edited_of_ne (kind := .removed) c p (withoutPort p) m (by simp)
    have outcome : m.editOutcome p c .removed = h.lapseOutcome p c := by
      funext w
      simp [editOutcome, lapseOutcome, own, policy]
    rw [chan, outcome] at edited
    rw [claimsAfterLapse_of_not_keep (by simp [own, policy]), lapsedClaims_of_drop nodup own policy]
    exact edited
  | keep =>
    have edited := edited_editClaims c p .orphaned
      (fun xs => xs.map fun y => if y.port = p then { y with state := .orphaned } else y) m
    have outcome : m.editOutcome p c .orphaned = h.lapseOutcome p c := by
      funext w
      simp only [editOutcome, lapseOutcome, own, policy, defaultOutcome, grants]
      rfl
    have list : h.claimsAfterLapse p c =
        match (h.chan c).handover.pending with
        | none => (h.chan c).claims.map fun y => if y.port = p then { y with state := .orphaned } else y
        | some w =>
          if m.editGrants p c .orphaned w then
            grantReorder w.requester w.holder
              ((h.chan c).claims.map fun y => if y.port = p then { y with state := .orphaned } else y)
          else (h.chan c).claims.map fun y => if y.port = p then { y with state := .orphaned } else y := by
      unfold claimsAfterLapse
      rw [lapsedClaims_of_keep nodup own policy]
      cases (h.chan c).handover.pending with
      | none => rfl
      | some w => simp [editGrants, own, policy, grants, eq_comm (a := p)]
    rw [list]
    rw [chan, outcome] at edited
    exact edited

theorem reach_lapseClaim (p : Port) (h : Hub) (k : Fin 23) : Reach (only k) h (h.lapseClaim p k) := by
  unfold lapseClaim
  split
  · exact .refl _ h
  · split
    · exact reach_editClaims (only_self k) ..
    · exact reach_editClaims (only_self k) ..

/-- What a lapse leaves of a channel on which the port holds a claim. -/
theorem lapseClaims_held {x : Claim} (nodup : ((h.chan c).claims.map (·.port)).Nodup)
    (own : claimOf p (h.chan c).claims = some x) :
    ((h.lapseClaims p).chan c).claims = h.claimsAfterLapse p c ∧
      HandoverSettled c (h.lapseOutcome p c) h (h.lapseClaims p) ∧ (h.lapseClaims p).Formed c ∧
        StayTaken c h (h.lapseClaims p) := by
  have holds : h.holdsClaim p c = true := by simp [holdsClaim, own]
  obtain ⟨m, since, till⟩ :=
    foldl_moment (f := lapseClaim p) (reach_lapseClaim p) (channelsOf_nodup h p) (mem_channelsOf.mpr holds) h
  exact (edited_lapseClaim nodup own (since.channels c (others_self c)) since.work).inMoment since till

/-- What it leaves of another. -/
theorem lapseClaims_out (out : h.holdsClaim p c = false) :
    ((h.lapseClaims p).chan c).claims = h.claimsAfterLapse p c ∧
      HandoverSettled c (h.lapseOutcome p c) h (h.lapseClaims p) := by
  have none : claimOf p (h.chan c).claims = none := by simpa [holdsClaim] using out
  have spared : (h.lapseClaims p).chan c = h.chan c := (reach_lapseClaims p h).channels c out
  refine ⟨?_, .of_kept (by rw [spared]) fun w => by simp [lapseOutcome, none]⟩
  rw [spared, claimsAfterLapse_of_not_keep (by simp [none]), lapsedClaims_of_absent none]

/-- A port that lapses keeps its record but for the tenancy and its asked set. -/
theorem port_lapsed (p : Port) (h : Hub) :
    ((h.setTenancy p .lapsed).lapseClaims p).port p =
      { h.port p with
        tenancy := .lapsed, asked := (((h.setTenancy p .lapsed).lapseClaims p).port p).asked } := by
  have reach := reach_lapseClaims p (h.setTenancy p .lapsed)
  have before : (h.setTenancy p .lapsed).port p = { h.port p with tenancy := .lapsed } := by
    rw [setTenancy, port_modPort, if_pos rfl]
  have out : (h.setTenancy p .lapsed).attached p = false := by rw [Hub.attached, before]
  obtain ⟨flags, change⟩ := reach.unattached p out
  have kept := reach.ports p
  rw [flags, change, before] at kept
  exact kept

theorem lapsePort_still (out : h.attached p = false) : h.lapsePort p = h := by
  unfold lapsePort
  unfold Hub.attached at out
  cases tenancy : (h.port p).tenancy <;> simp_all

theorem not_lapsed_of_tenancy {x : Tenancy} (tenancy : (h.port p).tenancy = x) (other : x ≠ .lapsed) :
    h.isLapsed p = false := by
  simp [isLapsed, tenancy, other]

/-- A DETACH leaves no port LAPSED: it is DETACHED, or ATTACHED with its lease restarted. -/
theorem decideDetach_not_lapsed (live : h.attached p = true) : ((restartLease p h).decideDetach p).isLapsed p = false := by
  unfold decideDetach
  rcases refuseFirst_cases p _ (restartLease p h) _ with ⟨x, _, _, refused⟩ | taken
  · rw [refused]
    refine not_lapsed_of_tenancy (x := .attached { h.newLease p with cut := true }) ?_ (by simp)
    rw [port_respond, if_pos rfl]
    exact restartLease_tenancy live
  · rw [taken]
    refine not_lapsed_of_tenancy (x := .detached) ?_ (by simp)
    rw [port_respond, if_pos rfl]
    exact (port_leave p _).1

theorem decideResetHub_not_lapsed (live : h.attached p = true) :
    ((restartLease p h).decideResetHub p).isLapsed p = false := by
  unfold decideResetHub
  rcases refuseFirst_cases p _ (restartLease p h) _ with ⟨x, _, _, refused⟩ | taken
  · rw [refused]
    refine not_lapsed_of_tenancy (x := .attached { h.newLease p with cut := true }) ?_ (by simp)
    rw [port_respond, if_pos rfl]
    exact restartLease_tenancy live
  · rw [taken]
    exact not_lapsed_of_tenancy (x := .detached) (by rw [port_resetHub]; rfl) (by simp)

end Hub

/-- A request that ends the tenancy of its port leaves it DETACHED, not LAPSED. -/
theorem exec_not_lapsed {i : Instr} {p : Port} {s : State} {t : Hub} (ends : i = .detach p ∨ i = .resetHub p)
    (heard : s.hub.takesFrames p = true) (live : s.hub.attached p = true) (taken : exec i s = .next { s with hub := t }) :
    t.isLapsed p = false := by
  rcases ends with rfl | rfl
  · obtain rfl : (Hub.restartLease p s.hub).decideDetach p = t := by
      have same := (onRequest_heard p (Hub.decideDetach p) s heard).symm.trans taken
      simpa using same
    exact Hub.decideDetach_not_lapsed live
  · obtain rfl : (Hub.restartLease p s.hub).decideResetHub p = t := by
      have same := (onRequest_heard p (Hub.decideResetHub p) s heard).symm.trans taken
      simpa using same
    exact Hub.decideResetHub_not_lapsed live

/-- Settles O14: a whole run lapses; a run cut short by a request does not, whatever the request. -/
theorem lapseDropsOrOrphansTheClaims : Obligations.LapseDropsOrOrphansTheClaims := by
  refine fun p s => ⟨fun out => onEvent_still (Hub.lapsePort_still out),
    fun run live cut => onEvent_of_eq (Hub.lapsePort_cut live cut), fun i code body t laid heard live taken => ?_,
    fun run live whole nodup => ?_⟩
  · obtain ⟨u, same, restarted⟩ := exec_restarts_lease laid heard live
    obtain rfl : { s with hub := u } = t := by rw [taken] at same; exact (Host.Outcome.next.inj same).symm
    rcases restarted.run with runs | ⟨out, ends⟩
    · refine ⟨_, onEvent_of_eq (Hub.lapsePort_cut runs rfl), ?_, ?_, rfl⟩
      · simp [Hub.attached, Hub.port_modPort, runs]
      · simp [Hub.isLapsed, Hub.port_modPort]
    · exact ⟨_, onEvent_still (Hub.lapsePort_still out), rfl, exec_not_lapsed ends heard live taken, rfl⟩
  · have before (c : Fin 23) : (s.hub.setTenancy p .lapsed).chan c = s.hub.chan c := rfl
    refine ⟨_, onEvent_of_eq (Hub.lapsePort_whole live whole), Hub.port_lapsed p s.hub, fun c holds => ?_, fun c => ?_,
      fun c => ?_, Hub.reach_lapseClaims p (s.hub.setTenancy p .lapsed)⟩
    · obtain ⟨x, own⟩ := Option.isSome_iff_exists.mp holds
      obtain ⟨_, _, formed, stay⟩ := Hub.lapseClaims_held (h := s.hub.setTenancy p .lapsed) (nodup c) own
      exact ⟨formed, stay.before rfl (fun _ _ => rfl) rfl⟩
    · cases holds : s.hub.holdsClaim p c with
      | true =>
        obtain ⟨x, own⟩ := Option.isSome_iff_exists.mp holds
        exact (Hub.lapseClaims_held (h := s.hub.setTenancy p .lapsed) (nodup c) own).1
      | false => exact (Hub.lapseClaims_out (h := s.hub.setTenancy p .lapsed) holds).1
    · cases holds : s.hub.holdsClaim p c with
      | true =>
        obtain ⟨x, own⟩ := Option.isSome_iff_exists.mp holds
        exact (Hub.lapseClaims_held (h := s.hub.setTenancy p .lapsed) (nodup c) own).2.1
      | false => exact (Hub.lapseClaims_out (h := s.hub.setTenancy p .lapsed) holds).2

end Sys2Proof.Machine
end

section
/-! ATTACH (R57, R58, R66). -/

namespace Sys2Proof.Machine
namespace Hub

variable {p : Port} {h : Hub}

/-- The change set that names the channels of a list besides those it held. -/
def changesOn (cs : List (Fin 23)) (start : BitVec 23) : BitVec 23 := cs.foldl (fun x c => x ||| channelBit c) start

theorem changesOn_bit (cs : List (Fin 23)) (k : Fin 23) :
    ∀ start : BitVec 23, (changesOn cs start).getLsbD k.val = (start.getLsbD k.val || decide (k ∈ cs)) := by
  induction cs with
  | nil => intro start; simp [changesOn]
  | cons c cs ih =>
    intro start
    have own : (channelBit c).getLsbD k.val = decide (k = c) := by
      simp [channelBit, Fin.ext_iff]
    rw [changesOn, List.foldl_cons]
    refine (ih _).trans ?_
    rw [BitVec.getLsbD_or, own]
    by_cases same : k = c <;> simp [same]

theorem changesOn_eq_zero (cs : List (Fin 23)) : changesOn cs 0 = 0 ↔ cs = [] := by
  refine ⟨fun zero => List.eq_nil_iff_forall_not_mem.mpr fun k mem => ?_, fun nil => by rw [nil]; rfl⟩
  have bit := changesOn_bit cs k 0
  rw [zero] at bit
  simp [mem] at bit

theorem modPort_self {f : PortUnit → PortUnit} (same : f (h.port p) = h.port p) : h.modPort p f = h := by
  unfold modPort
  rw [same]
  simp [port]

/-- A flag given on every channel of a list. -/
theorem giveFlagOn_foldl (f : Flag) (cs : List (Fin 23)) :
    ∀ h : Hub, h.attached p = true →
      cs.foldl (fun x c => x.giveFlagOn p f c) h =
        h.modPort p fun t => { t with
          flags := t.flags ||| (if cs = [] then 0 else f.word), change := changesOn cs t.change } := by
  induction cs with
  | nil =>
    intro h live
    exact (modPort_self (by simp [changesOn])).symm
  | cons c cs ih =>
    intro h live
    have one : h.giveFlagOn p f c =
        h.modPort p fun t => { t with flags := t.flags ||| f.word, change := t.change ||| channelBit c } := by
      rw [giveFlagOn, if_pos live]
    rw [List.foldl_cons, one, ih _ (by rw [attached_modPort]; exact live; rfl), modPort_modPort]
    congr 1
    funext t
    by_cases nil : cs = []
    · simp [nil, changesOn]
    · simp [nil, changesOn, BitVec.or_assoc]

/-- FAULT while the fault set is not empty, on an ATTACHED port. -/
theorem giveFault_eq (live : h.attached p = true) :
    h.giveFault p = h.modPort p fun t => { t with flags := t.flags ||| (if h.faults = 0 then 0 else 0x800) } := by
  unfold giveFault
  split
  · exact (modPort_self (by simp)).symm
  · next some =>
    rw [giveFlag, if_pos live]
    rfl

theorem attachPort_eq (p : Port) (h : Hub) :
    h.attachPort p = h.modPort p fun t => { t with
      tenancy := .attached (h.newLease p), flags := 0, change := 0, asked := 0, mask := 0x3FFF } := by
  rw [attachPort, clearPort, setTenancy, modPort_modPort]
  rfl

theorem attached_attachPort (p : Port) (h : Hub) : (h.attachPort p).attached p = true := by
  simp [attachPort_eq, Hub.attached, port_modPort]

theorem attachFresh_eq (p : Port) (h : Hub) :
    ((h.attachPort p).giveFault p).respond p .ok [0] = h.modPort p fun t => { t with
      tenancy := .attached (h.newLease p), flags := if h.faults = 0 then 0 else 0x800
      change := 0, asked := 0, mask := 0x3FFF, resp := some ⟨.ok, [0]⟩ } := by
  rw [giveFault_eq (attached_attachPort p h), attachPort_eq, respond, modPort_modPort, modPort_modPort]
  congr 1
  funext t
  simp
  rfl

/-- The record of a LAPSED port that attaches: WON where adopted claims win, FAULT while the fault set is not empty. -/
def reattachedPort (p : Port) (h : Hub) (t : PortUnit) : PortUnit :=
  { t with
    tenancy := .attached (h.newLease p)
    flags := (if h.orphanWins p = [] then 0 else 1) ||| (if h.faults = 0 then 0 else 0x800)
    change := changesOn (h.orphanWins p) 0, asked := 0, mask := 0x3FFF
    resp := some ⟨.ok, [byteOf ((List.finRange 23).filter (h.hasOrphan p)).length]⟩ }

theorem reattach_eq (p : Port) (h : Hub) : h.reattach p = (h.adoptClaims p).modPort p (h.reattachedPort p) := by
  have live := attached_attachPort p (h.adoptClaims p)
  unfold reattach
  dsimp only
  rw [giveFlagOn_foldl .won _ _ live, giveFault_eq (by rw [attached_modPort]; exact live; rfl), attachPort_eq, respond,
    modPort_modPort, modPort_modPort, modPort_modPort]
  congr 1
  funext t
  simp [reattachedPort]
  exact ⟨rfl, rfl⟩

theorem decideAttach_detached (started : h.mode ≠ .startup) (tenancy : (h.port p).tenancy = .detached) :
    h.decideAttach p = ((h.attachPort p).giveFault p).respond p .ok [0] := by
  unfold decideAttach
  rw [refuseFirst_pass _ _ _ _ (by simp [started]), tenancy]

theorem decideAttach_lapsed (started : h.mode ≠ .startup) (tenancy : (h.port p).tenancy = .lapsed) :
    h.decideAttach p = h.reattach p := by
  unfold decideAttach
  rw [refuseFirst_pass _ _ _ _ (by simp [started]), tenancy]

end Hub

/-- Settles O10: a port without a lease attaches afresh or adopts; one with a lease has it restarted. -/
theorem attachBeginsRenewsOrAdopts : Obligations.AttachBeginsRenewsOrAdopts := by
  have decided (p : Port) (s : State) : exec (.attach p) s = onRequest p (Hub.decideAttach p) s := rfl
  refine ⟨fun p s heard started => ⟨fun tenancy => ?_, fun live => ?_⟩, fun p s heard started tenancy => ?_⟩
  · have out : s.hub.attached p = false := by rw [Hub.attached, tenancy]
    rw [decided, onRequest_heard p _ s heard, Hub.restartLease_other out, Hub.decideAttach_detached started tenancy,
      Hub.attachFresh_eq]
    rfl
  · rw [decided, onRequest_heard p _ s heard, Hub.decideAttach_attached (by simpa using live), if_neg (by simpa using started)]
  · have out : s.hub.attached p = false := by rw [Hub.attached, tenancy]
    have taken : exec (.attach p) s = .next { s with hub := s.hub.reattach p } := by
      rw [decided, onRequest_heard p _ s heard, Hub.restartLease_other out, Hub.decideAttach_lapsed started tenancy]
    rw [Hub.reattach_eq] at taken
    refine ⟨_, taken, rfl, fun q apart => ?_, ?_⟩
    · rw [Hub.port_modPort, if_neg (Ne.symm apart)]
      rfl
    · have own : ((s.hub.adoptClaims p).modPort p (s.hub.reattachedPort p)).port p =
          s.hub.reattachedPort p (s.hub.port p) := by
        rw [Hub.port_modPort, if_pos rfl]
        rfl
      rw [own]
      refine ⟨rfl, rfl, rfl, rfl, rfl, rfl, rfl, fun c => ?_, ?_, fun c => ?_⟩
      · rw [Hub.hasChange, own, Hub.reattachedPort, Hub.changesOn_bit, Bool.eq_iff_iff]
        simp [Hub.orphanWins]
      · simp only [Hub.reattachedPort, Hub.changesOn_eq_zero]
      · rw [Hub.modPort_chan, Hub.chan_adoptClaims]

end Sys2Proof.Machine
end

section
/-! CLAIM and CLEAR_ORPHANS (R26 to R30, R74). -/

namespace Sys2Proof.Machine

/-! ## Lists of claims -/

theorem insertClaim_perm (x : Claim) (claims : List Claim) : (insertClaim x claims).Perm (x :: claims) := by
  induction claims with
  | nil => exact .refl _
  | cons y ys ih =>
    rw [insertClaim]
    split
    · exact (ih.cons y).trans (.swap x y ys)
    · exact .refl _

/-- A port's one claim and the rest of the list. -/
theorem perm_cons_withoutPort {claims : List Claim} {p : Port} {x : Claim} (nodup : (claims.map (·.port)).Nodup)
    (own : claimOf p claims = some x) : claims.Perm (x :: withoutPort p claims) := by
  induction claims with
  | nil => cases own
  | cons y ys ih =>
    obtain ⟨fresh, nodup⟩ := List.nodup_cons.mp nodup
    by_cases port : y.port = p
    · rw [claimOf, List.find?_cons_of_pos (by simp [port])] at own
      obtain rfl := Option.some.inj own
      have rest : withoutPort p ys = ys :=
        Hub.withoutPort_of_absent (by
          rw [Option.isSome_eq_false_iff, Option.isNone_iff_eq_none, claimOf, List.find?_eq_none]
          exact fun z mem => by
            simpa using fun same : z.port = p => fresh (List.mem_map.mpr ⟨z, mem, same.trans port.symm⟩))
      rw [withoutPort, List.filter_cons_of_neg (by simp [port])]
      exact List.Perm.cons _ (.of_eq rest.symm)
    · rw [claimOf, List.find?_cons_of_neg (by simpa using port)] at own
      rw [withoutPort, List.filter_cons_of_pos (by simpa using port)]
      exact ((ih nodup own).cons y).trans (.swap x y _)

/-- Two counts over the channels that differ on one channel only. -/
theorem sum_channels_of_one {f g : Fin 23 → Nat} (c : Fin 23) (same : ∀ k, k ≠ c → f k = g k) :
    ((List.finRange 23).map f).sum + g c = ((List.finRange 23).map g).sum + f c := by
  obtain ⟨pre, post, split⟩ := List.append_of_mem (List.mem_finRange c)
  have nodup := List.nodup_finRange 23
  rw [split] at nodup ⊢
  obtain ⟨before, after⟩ := Hub.not_mem_around nodup
  have first : pre.map f = pre.map g := List.map_congr_left fun k mem => same k fun own => before (own ▸ mem)
  have last : post.map f = post.map g := List.map_congr_left fun k mem => same k fun own => after (own ▸ mem)
  simp only [List.map_append, List.map_cons, List.sum_append, List.sum_cons, first, last]
  omega

namespace Hub

variable {c : Fin 23} {p : Port} {h m t : Hub} {outcome : PendingHandover → Option HandoverOutcome} {C : Fin 23 → Bool}

theorem poolCount_of_reach (reach : Reach (only c) h t) :
    t.poolCount + (h.chan c).claims.length = h.poolCount + (t.chan c).claims.length :=
  sum_channels_of_one (f := fun k => (t.chan k).claims.length) (g := fun k => (h.chan k).claims.length) c
    fun k apart => by rw [reach.channels k (only_of_ne apart)]

theorem holding_of_reach (reach : Reach (only c) h t) (p : Port) :
    t.holding p + ((h.chan c).claims.filter fun x => x.port == p).length =
      h.holding p + ((t.chan c).claims.filter fun x => x.port == p).length := by
  have same (k : Fin 23) (apart : k ≠ c) : ((t.chan k).claims.filter fun x => x.port == p).length =
      ((h.chan k).claims.filter fun x => x.port == p).length := by rw [reach.channels k (only_of_ne apart)]
  have counted := sum_channels_of_one c same
  unfold holding
  exact counted

/-! ## What CLAIM is checked for -/

theorem HandoverSettled.kept (settled : HandoverSettled c outcome h t) (none : ∀ w, outcome w = none) :
    (t.chan c).handover = (h.chan c).handover := by
  unfold HandoverSettled at settled
  split at settled
  · exact settled
  · rw [none] at settled
    exact settled

/-- The checks of CLAIM after the port's standing. -/
def ownClaimChecks (p : Port) (ch lv : Byte) (v : BitVec 24) (pol : Byte) (h : Hub) : List (Bool × Result) :=
  [(h.inFaultHold, .startupFault), ((channelNo ch).isNone, .badChannel),
    (decide (lv.toNat < 1 ∨ 7 < lv.toNat), .badLevel),
    (decide (5 < lv.toNat) && !(h.portItem p).protectedGrant, .levelDenied),
    (((channelNo ch).bind fun c => commandFor h.work c v).isNone, .badValue), ((policyOf pol).isNone, .badValue)]

/-- CLAIM once it has passed its checks: a claim is replaced or placed. -/
def claimTaken (p : Port) (ch lv : Byte) (v : BitVec 24) (pol : Byte) (h : Hub) : Hub :=
  match h.claimAsked ch v pol with
  | some (c, x, policy) =>
    match claimOf p (h.chan c).claims with
    | some old => h.replaceClaim p c lv.toNat x policy old
    | none => h.placeClaim p c lv.toNat x policy
  | none => h

theorem claimTaken_of {ch lv : Byte} {v : BitVec 24} {pol : Byte} {value : Command} {policy : Policy}
    (named : channelNo ch = some c) (fits : commandFor h.work c v = some value) (kept : policyOf pol = some policy) :
    h.claimTaken p ch lv v pol =
      match claimOf p (h.chan c).claims with
      | some old => h.replaceClaim p c lv.toNat value policy old
      | none => h.placeClaim p c lv.toNat value policy := by
  simp [claimTaken, claimAsked, named, fits, kept]

end Hub

section
variable {p : Port} {ch lv : Byte} {v : BitVec 24} {pol : Byte} {c : Fin 23} {s : State}

theorem exec_claim (p : Port) (ch lv : Byte) (v : BitVec 24) (pol : Byte) (s : State) :
    exec (.claim p ch lv v pol) s = onRequest p (fun h => h.refuseFirst p
      (h.standing p ++ h.ownClaimChecks p ch lv v pol) (h.claimTaken p ch lv v pol)) s := rfl

/-- A CLAIM that passes its checks replaces the port's claim or places one. -/
theorem exec_claim_taken {value : Command} {policy : Policy} (asks : s.hub.MayAsk p) (open_ : s.hub.mode ≠ .faultHold)
    (named : channelNo ch = some c) (low : 1 ≤ lv.toNat) (high : lv.toNat ≤ 7)
    (may : 5 < lv.toNat → (s.hub.portItem p).protectedGrant = true) (fits : commandFor s.hub.work c v = some value)
    (kept : policyOf pol = some policy) :
    exec (.claim p ch lv v pol) s = .next { s with
      hub := match claimOf p (s.hub.chan c).claims with
      | some old => (Hub.restartLease p s.hub).replaceClaim p c lv.toNat value policy old
      | none => (Hub.restartLease p s.hub).placeClaim p c lv.toNat value policy } := by
  have allowed : (decide (5 < lv.toNat) && !(s.hub.portItem p).protectedGrant) = false := by
    by_cases above : 5 < lv.toNat <;> simp [above, may]
  rw [exec_taken asks (exec_claim p ch lv v pol s)]
  · rw [Hub.claimTaken_of named (by simpa using fits) kept]
    simp
  · simp only [Hub.ownClaimChecks, Hub.inFaultHold_restartLease, Hub.restartLease_portItem, Hub.restartLease_work, named,
      Option.bind_some, fits, kept, allowed]
    simp [Hub.inFaultHold, open_]
    omega

theorem claim_refused (asks : s.hub.MayAsk p) :
    RefusedInOrder (.claim p ch lv v pol) p s
      [(s.hub.mode = .faultHold, .startupFault), (22 < ch.toNat, .badChannel),
        (lv.toNat < 1 ∨ 7 < lv.toNat, .badLevel),
        (5 < lv.toNat ∧ (s.hub.portItem p).protectedGrant = false, .levelDenied),
        (((channelNo ch).bind fun c => commandFor s.hub.work c v).isNone = true, .badValue),
        ((policyOf pol).isNone = true, .badValue)] := by
  refine refusedInOrder_all asks (exec_claim p ch lv v pol s) ?_
  simp only [Hub.ownClaimChecks, checksFor_cons, checksFor_nil, and_true, Hub.inFaultHold_restartLease,
    Hub.inFaultHold_iff, channelNo_isNone, Hub.restartLease_portItem, Hub.restartLease_work, decide_eq_true_eq,
    Bool.and_eq_true, Bool.not_eq_true']

/-- Settles O16: the checks of the request, then those of the placement. -/
theorem claimIsCheckedInOrder : Obligations.ClaimIsCheckedInOrder := by
  intro p ch lv v pol s asks
  obtain ⟨fault, rest⟩ := claim_refused (ch := ch) (lv := lv) (v := v) (pol := pol) asks
  dsimp only
  split
  · next closed => exact fault closed
  next open_ =>
  obtain ⟨badChannel, rest⟩ := rest open_
  split
  · next wide => exact badChannel wide
  next narrow =>
  obtain ⟨badLevel, rest⟩ := rest narrow
  split
  · next level => exact badLevel level
  next level =>
  obtain ⟨denied, rest⟩ := rest level
  split
  · next may => exact denied may
  next may =>
  obtain ⟨badValue, rest⟩ := rest may
  split
  · trivial
  next c named =>
  split
  · next unfit =>
    by_cases value : ((channelNo ch).bind fun c => commandFor s.hub.work c v).isNone = true
    · exact badValue value
    · refine (rest value).1 ?_
      rw [named, Option.bind_some, Option.isNone_iff_eq_none] at value
      simpa [value] using unfit
  next fits =>
  obtain ⟨⟨value, fits⟩, ⟨policy, kept⟩⟩ :
      (∃ x, commandFor s.hub.work c v = some x) ∧ ∃ x, policyOf pol = some x := by
    simpa [Option.ne_none_iff_exists', not_or] using fits
  split
  · trivial
  next free =>
  have none : claimOf p (s.hub.chan c).claims = none := by simpa using free
  have taken := exec_claim_taken (lv := lv) (pol := pol) asks open_ named (by omega) (by omega)
    (fun above => Bool.of_not_eq_false fun none => may ⟨above, none⟩) fits kept
  rw [none] at taken
  dsimp only at taken
  unfold Hub.placeClaim at taken
  simp only [Hub.refuseFirst_cons, Hub.refuseFirst_nil, Hub.restartLease_portItem, Hub.restartLease_holding,
    Hub.restartLease_poolCount, decide_eq_true_eq] at taken
  split
  · next quota => rwa [if_pos quota] at taken
  next quota =>
  rw [if_neg quota] at taken
  generalize s.hub.poolCount = held at taken ⊢
  split
  · next full =>
    rw [show Config.poolSize = 48 from rfl, if_pos full] at taken
    exact taken
  · trivial

end

end Sys2Proof.Machine
end

section
/-! A claim is placed or replaced (R26 to R30), and orphans are cleared (R74). -/

namespace Sys2Proof.Machine
namespace Hub

variable {c : Fin 23} {p : Port} {h m t : Hub} {outcome : PendingHandover → Option HandoverOutcome} {C : Fin 23 → Bool}

/-! ## Placing -/

theorem edited_place (c : Fin 23) (p : Port) (x : Claim) (h : Hub) :
    Edited c (fun _ => none) (insertClaim x (h.chan c).claims) h (h.editClaims c p .placed (insertClaim x)) :=
  edited_of_ne (kind := .placed) c p (insertClaim x) h (by simp)

theorem withoutOwn {claims : List Claim} (free : claimOf p claims = none) : (claims.filter fun x => x.port == p) = [] := by
  rw [claimOf, List.find?_eq_none] at free
  exact List.filter_eq_nil_iff.mpr free

/-- A claim placed is one more in the pool and one more of its port. -/
theorem counts_place {x : Claim} (free : claimOf x.port (h.chan c).claims = none)
    (claims : (t.chan c).claims = insertClaim x (h.chan c).claims) (reach : Reach (only c) h t) :
    t.holding x.port = h.holding x.port + 1 ∧ t.poolCount = h.poolCount + 1 := by
  have perm := insertClaim_perm x (h.chan c).claims
  have own : ((t.chan c).claims.filter fun y => y.port == x.port).length = 1 := by
    rw [claims, (perm.filter _).length_eq, List.filter_cons_of_pos (by simp), withoutOwn free]
    rfl
  have length : (t.chan c).claims.length = (h.chan c).claims.length + 1 := by
    rw [claims, perm.length_eq]
    rfl
  have held := holding_of_reach reach x.port
  have pool := poolCount_of_reach reach
  rw [own, withoutOwn free, List.length_nil] at held
  rw [length] at pool
  omega

/-! ## Replacing -/

theorem drive_renewIfEqual (p : Port) (c : Fin 23) (old new : Command) (h before : Hub) :
    Drive (only c) h (h.renewIfEqual p c old new before) := by
  unfold renewIfEqual renewSound
  dsimp only
  split
  · next renews =>
    simp only [Bool.and_eq_true, decide_eq_true_eq] at renews
    obtain ⟨⟨⟨sound, _⟩, _⟩, _⟩ := renews
    split
    · exact drive_sounderRenewed (by rw [sound]; exact only_self _) h
    · exact .refl _ h
  · exact .refl _ h

theorem asked_renewIfEqual (p q : Port) (c : Fin 23) (old new : Command) (h before : Hub) :
    ((h.renewIfEqual p c old new before).port q).asked = (h.port q).asked := by
  unfold renewIfEqual renewSound
  dsimp only
  split
  · split
    · exact (tells_sounderRenewed h).asked q
    · rfl
  · rfl

/-- An edit stands while the engines are driven. -/
theorem Edited.driven {list : List Claim} (edited : Edited c outcome list h m) (drive : Drive (only c) m t)
    (asked : ∀ q, (t.port q).asked = (m.port q).asked) : Edited c outcome list h t := by
  have same := chan_of_channels drive.same c
  exact ⟨by rw [same]; exact edited.claims, edited.settled.after (by rw [same]) (fun q => by rw [asked]) drive.toReach,
    by rw [same]; exact edited.input, edited.formed.after same drive.toReach, edited.stay.after same,
    edited.reach.trans drive.toReach⟩

/-- A forming alone is an edit that leaves the list. -/
theorem edited_form (c : Fin 23) (h : Hub) : Edited c (fun _ => none) (h.chan c).claims h (h.form c .edit) where
  claims := by rw [chan_form, if_pos rfl]; rfl
  settled := .of_kept (by rw [chan_form, if_pos rfl]; rfl) fun _ => rfl
  input := form_input ..
  formed := formed_form ..
  stay := stayTaken_form (.refl c h)
  reach := reach_form (only_self c) .edit h

/-- The list with a port's claim replaced (R28, R29). -/
def replacedClaims (p : Port) (level : Nat) (value : Command) (policy : Policy) (old : Claim) (claims : List Claim) :
    List Claim :=
  if old.level = level then
    claims.map fun x => if x.port = p then { old with value := value, policy := policy } else x
  else insertClaim { old with level := level, value := value, policy := policy } (withoutPort p claims)

theorem replaceEdit_eq {claims : List Claim} {old : Claim} {level : Nat} {value : Command} {policy : Policy}
    (own : claimOf p claims = some old) :
    replaceEdit p level value policy claims = replacedClaims p level value policy old claims := by
  unfold replaceEdit replacedClaims
  rw [own]
  dsimp only
  split
  · next level => rw [← level]
  · rfl

theorem replacedClaims_self {claims : List Claim} {old : Claim} (nodup : (claims.map (·.port)).Nodup)
    (own : claimOf p claims = some old) : replacedClaims p old.level old.value old.policy old claims = claims := by
  unfold replacedClaims
  rw [if_pos rfl]
  refine (List.map_congr_left fun x mem => ?_).trans (List.map_id' _)
  split
  · next port => exact (eq_of_claimOf nodup own mem port).symm
  · rfl

theorem replacedClaims_length {claims : List Claim} {old : Claim} {level : Nat} {value : Command} {policy : Policy}
    (nodup : (claims.map (·.port)).Nodup) (own : claimOf p claims = some old) :
    (replacedClaims p level value policy old claims).length = claims.length := by
  unfold replacedClaims
  split
  · exact List.length_map _
  · rw [(insertClaim_perm ..).length_eq, (perm_cons_withoutPort nodup own).length_eq]
    rfl

/-- A replacement at another level cancels a handover of the port; one at its own level leaves it (R87). -/
def replaceOutcome (p : Port) (level : Nat) (old : Claim) (w : PendingHandover) : Option HandoverOutcome :=
  if old.level ≠ level ∧ (p = w.holder ∨ p = w.requester) then some .cancelled else none

/-- The edit a replacement makes, before the renewal of a tone. -/
theorem edited_replace {old : Claim} {level : Nat} {value : Command} {policy : Policy}
    (nodup : ((h.chan c).claims.map (·.port)).Nodup) (own : claimOf p (h.chan c).claims = some old) :
    Edited c (replaceOutcome p level old) (replacedClaims p level value policy old (h.chan c).claims) h
      (if old.level ≠ level then h.editClaims c p .levelChanged (replaceEdit p level value policy)
        else if old.value = value ∧ old.policy = policy then h.form c .edit
        else h.editClaims c p .valueChanged (replaceEdit p level value policy)) := by
  by_cases same : old.level = level
  · have quiet : replaceOutcome p level old = fun _ => none := by
      funext w
      simp [replaceOutcome, same]
    rw [quiet, if_neg (by simpa using same)]
    split
    · next equal =>
      obtain ⟨rfl, rfl⟩ := equal
      rw [← same, replacedClaims_self nodup own]
      exact edited_form c h
    · have edited := edited_of_ne (kind := .valueChanged) c p (replaceEdit p level value policy) h (by simp)
      rw [replaceEdit_eq own] at edited
      exact edited
  · have edited := edited_of_ne (kind := .levelChanged) c p (replaceEdit p level value policy) h (by simp)
    have outcome : h.editOutcome p c .levelChanged = replaceOutcome p level old := by
      funext w
      simp [editOutcome, replaceOutcome, same]
    rw [replaceEdit_eq own, outcome] at edited
    rw [if_pos same]
    exact edited

/-- A CLAIM that replaces. -/
theorem replaceClaim_edits {old : Claim} {level : Nat} {value : Command} {policy : Policy}
    (nodup : ((h.chan c).claims.map (·.port)).Nodup) (own : claimOf p (h.chan c).claims = some old) :
    ∃ t, h.replaceClaim p c level value policy old = t.respondPlace p c .replaced ∧
      Edited c (replaceOutcome p level old) (replacedClaims p level value policy old (h.chan c).claims) h t :=
  ⟨_, rfl, (edited_replace nodup own).driven (drive_renewIfEqual p c old.value value _ h)
    fun q => asked_renewIfEqual p q c old.value value _ h⟩

/-! ## Clearing orphans -/

/-- Removals reported of claims that are in no handover settle nothing. -/
theorem settleRemoved_still (gone : List Claim) {w : PendingHandover} (pending : (h.chan c).handover.pending = some w)
    (apart : ∀ x ∈ gone, x.port ≠ w.holder ∧ x.port ≠ w.requester) :
    gone.foldl (fun x y => x.settleEdit c y.port .removed) h = h := by
  induction gone with
  | nil => rfl
  | cons x gone ih =>
    obtain ⟨holder, requester⟩ := apart x List.mem_cons_self
    have still : h.settleEdit c x.port .removed = h := by
      rw [settleEdit_eq, pending]
      simp [editOutcome, holder, requester]
    rw [List.foldl_cons, still]
    exact ih fun y mem => apart y (List.mem_cons_of_mem _ mem)

theorem settleRemoved_none (gone : List Claim) (none : (h.chan c).handover.pending = none) :
    gone.foldl (fun x y => x.settleEdit c y.port .removed) h = h := by
  induction gone with
  | nil => rfl
  | cons x gone ih =>
    have still : h.settleEdit c x.port .removed = h := by rw [settleEdit_eq, none]
    rw [List.foldl_cons, still]
    exact ih

theorem settleRemoved_relists (c : Fin 23) (gone : List Claim) (h : Hub) :
    Relisted c h (gone.foldl (fun x y => x.settleEdit c y.port .removed) h) ∧
      ((gone.foldl (fun x y => x.settleEdit c y.port .removed) h).chan c).claims = (h.chan c).claims :=
  List.foldlRecOn (motive := fun m => Relisted c h m ∧ (m.chan c).claims = (h.chan c).claims) gone _
    ⟨.refl c h, rfl⟩ fun m so x _ =>
      ⟨so.1.trans (relisted_settleEdit c x.port .removed m), (settleEdit_claims c x.port .removed m (by simp)).trans so.2⟩

/-- The channel without the claims that are cleared, before it is formed. -/
def uncleared (c : Fin 23) (limit : Nat) (h : Hub) : Hub :=
  h.modChan c fun x => { x with claims := x.claims.filter fun y => !clearable limit y }

theorem chan_uncleared (c : Fin 23) (limit : Nat) (h : Hub) :
    (h.uncleared c limit).chan c =
      { h.chan c with claims := (h.chan c).claims.filter fun y => !clearable limit y } := by
  rw [uncleared, chan_modChan, if_pos rfl]

theorem clearClaims_eq (c : Fin 23) (limit : Nat) (h : Hub) :
    h.clearClaims c limit =
      if (h.chan c).claims.filter (clearable limit) = [] then h
      else form c .edit (((h.chan c).claims.filter (clearable limit)).foldl
        (fun x y => x.settleEdit c y.port .removed) (h.uncleared c limit)) := by
  unfold clearClaims
  simp only [List.isEmpty_iff]
  rfl

/-- What CLEAR_ORPHANS leaves where it removes claims. -/
theorem clearClaims_some {limit : Nat} (some : (h.chan c).claims.filter (clearable limit) ≠ []) :
    ((h.clearClaims c limit).chan c).claims = (h.chan c).claims.filter (fun y => !clearable limit y) ∧
      (h.clearClaims c limit).Formed c ∧ StayTaken c h (h.clearClaims c limit) ∧
        Reach (only c) h (h.clearClaims c limit) := by
  obtain ⟨relisted, claims⟩ := settleRemoved_relists c ((h.chan c).claims.filter (clearable limit)) (h.uncleared c limit)
  have edited : Relisted c h (h.uncleared c limit) := relisted_modChan rfl
  rw [chan_uncleared] at claims
  rw [clearClaims_eq, if_neg some]
  refine ⟨?_, formed_form .., stayTaken_form (edited.trans relisted),
    (edited.trans relisted).reach.trans (reach_form (only_self c) .edit _)⟩
  rw [chan_form, if_pos rfl, formedChannel_claims]
  exact claims

/-- Where none of the claims cleared is part of a handover, the channel is formed without them. -/
theorem clearClaims_still {limit : Nat}
    (apart : ∀ w, (h.chan c).handover.pending = some w → ∀ x ∈ (h.chan c).claims.filter (clearable limit),
      x.port ≠ w.holder ∧ x.port ≠ w.requester) :
    h.clearClaims c limit =
      if (h.chan c).claims.filter (clearable limit) = [] then h else form c .edit (h.uncleared c limit) := by
  have record : ((h.uncleared c limit).chan c).handover = (h.chan c).handover := by rw [chan_uncleared]
  have still : ((h.chan c).claims.filter (clearable limit)).foldl (fun x y => x.settleEdit c y.port .removed)
      (h.uncleared c limit) = h.uncleared c limit := by
    cases pending : (h.chan c).handover.pending with
    | none => exact settleRemoved_none _ (by rw [record, pending])
    | some w => exact settleRemoved_still _ (by rw [record, pending]) (apart w pending)
  rw [clearClaims_eq, still]

/-- A handover that none of the claims cleared is part of stays. -/
theorem clearClaims_handover {limit : Nat}
    (apart : ∀ w, (h.chan c).handover.pending = some w → ∀ x ∈ (h.chan c).claims.filter (clearable limit),
      x.port ≠ w.holder ∧ x.port ≠ w.requester) :
    ((h.clearClaims c limit).chan c).handover = (h.chan c).handover := by
  rw [clearClaims_still apart]
  split
  · rfl
  · rw [chan_form, if_pos rfl, formedChannel, chan_uncleared]

end Hub

/-- Settles O17: the edit of the placement, and the counts it moves. -/
theorem claimIsPlaced : Obligations.ClaimIsPlaced := by
  intro p ch lv v pol c value policy s asks open_ named low high may fits kept free quota room
  have taken := exec_claim_taken (pol := pol) asks open_ named low high may fits kept
  rw [free] at taken
  have edited := Hub.edited_place c p ⟨p, lv.toNat, value, policy, .live⟩ (Hub.restartLease p s.hub)
  rw [Hub.restartLease_chan] at edited
  have counts := Hub.counts_place (x := ⟨p, lv.toNat, value, policy, .live⟩) (by rw [Hub.restartLease_chan]; exact free)
    (by rw [Hub.restartLease_chan]; exact edited.claims) edited.reach
  rw [Hub.restartLease_holding, Hub.restartLease_poolCount] at counts
  obtain ⟨claims, settled, input, formed, stay, reach⟩ := edited.atArrival
  refine ⟨_, ?_, claims, settled.kept fun _ => rfl, input, counts.1, counts.2, formed, stay, reach⟩
  rw [taken]
  dsimp only
  unfold Hub.placeClaim
  rw [Hub.refuseFirst_pass _ _ _ _ (by simp [Config.poolSize, quota, room])]
  rfl

/-- Settles O18: the edit of the replacement. -/
theorem claimIsReplaced : Obligations.ClaimIsReplaced := by
  intro p ch lv v pol c value policy old s asks open_ named low high may fits kept own nodup
  have taken := exec_claim_taken (pol := pol) asks open_ named low high may fits kept
  rw [own] at taken
  obtain ⟨t, replaced, edited⟩ := Hub.replaceClaim_edits (h := Hub.restartLease p s.hub) (c := c) (p := p) (old := old)
    (level := lv.toNat) (value := value) (policy := policy) (by simpa using nodup) (by simpa using own)
  have length : (t.chan c).claims.length = ((Hub.restartLease p s.hub).chan c).claims.length := by
    rw [edited.claims, Hub.replacedClaims_length (by simpa using nodup) (by simpa using own)]
  have pool := Hub.poolCount_of_reach edited.reach
  rw [Hub.restartLease_poolCount, length] at pool
  rw [Hub.restartLease_chan] at edited
  obtain ⟨claims, settled, input, formed, stay, reach⟩ := edited.atArrival
  refine ⟨t, ?_, claims, ?_, fun w pending level party => ?_, input, by omega, formed, stay, reach⟩
  · rw [taken]
    dsimp only
    rw [replaced]
    rfl
  · unfold Hub.HandoverSettled Hub.replaceOutcome at settled
    cases pending : (s.hub.chan c).handover.pending with
    | none => simpa only [pending] using settled
    | some w =>
      simp only [pending] at settled ⊢
      split
      · next cancels =>
        simp only [if_pos cancels] at settled
        exact settled.1
      · next keeps =>
        simp only [if_neg keeps] at settled
        exact settled
  · unfold Hub.HandoverSettled Hub.replaceOutcome at settled
    simp only [pending, if_pos (And.intro level party)] at settled
    obtain ⟨_, dropped, told⟩ := settled
    exact ⟨dropped, fun live => told ((reach.attached _).trans (by simpa using live))⟩

theorem exec_clearOrphans (p : Port) (ch : Byte) (s : State) :
    exec (.clearOrphans p ch) s = onRequest p (fun h => h.refuseFirst p
      (h.standing p ++ [(h.inFaultHold, .startupFault), ((channelNo ch).isNone, .badChannel)])
      (h.onChannel ch (Hub.clearChannel p))) s := rfl

/-- Settles O20: the claims cleared, and the checks before. -/
theorem clearOrphansRemovesOrphansOfTheChannel : Obligations.ClearOrphansRemovesOrphansOfTheChannel := by
  refine ⟨fun p ch s asks => refusedInOrder_all asks (exec_clearOrphans p ch s)
    (by simpa [Hub.inFaultHold_iff] using channelNo_isNone ch), fun p ch c s asks open_ named => ?_⟩
  have limit : (Hub.restartLease p s.hub).highestLevel p = if (s.hub.portItem p).protectedGrant then 7 else 5 := by
    simp [Hub.highestLevel]
  have taken := exec_taken asks (exec_clearOrphans p ch s) (by simp [Hub.inFaultHold, open_, named])
  rw [Hub.onChannel_named named, Hub.clearChannel_eq, limit, Hub.restartLease_chan] at taken
  generalize (if (s.hub.portItem p).protectedGrant then 7 else 5) = limit at taken ⊢
  have cleared := Hub.clearClaims_eq c limit (Hub.restartLease p s.hub)
  have handover := Hub.clearClaims_handover (h := Hub.restartLease p s.hub) (c := c) (limit := limit)
  have some := Hub.clearClaims_some (h := Hub.restartLease p s.hub) (c := c) (limit := limit)
  rw [Hub.restartLease_chan] at cleared handover some
  refine ⟨_, taken, ?_, handover, fun none => by rw [cleared]; exact if_pos none, fun gone => ?_, ?_⟩
  · by_cases gone : (s.hub.chan c).claims.filter (Hub.clearable limit) = []
    · rw [cleared, if_pos gone, Hub.restartLease_chan]
      refine (List.filter_eq_self.mpr fun x mem => ?_).symm
      have spared := List.filter_eq_nil_iff.mp gone x mem
      unfold Hub.clearable at spared
      simp only [Bool.not_eq_true] at spared
      simp [spared]
    · exact (some gone).1
  · obtain ⟨_, formed, stay, _⟩ := some gone
    exact ⟨formed, stay.before (by simp) (by simp) (by simp)⟩
  · by_cases gone : (s.hub.chan c).claims.filter (Hub.clearable limit) = []
    · rw [cleared, if_pos gone]
      exact .refl ..
    · exact (some gone).2.2.2

end Sys2Proof.Machine
end

section
/-! What a forming tells and hands on (R13, R14, R40 to R49). -/

namespace Sys2Proof.Machine
namespace Hub

variable {c : Fin 23} {p : Port} {h m t : Hub} {u : Fin 2}

/-! ## Notices -/

theorem hasFlag_giveFlagOn (p q : Port) (f g : Flag) (c : Fin 23) (h : Hub) :
    (h.giveFlagOn p f c).hasFlag q g = (h.hasFlag q g || (decide (p = q ∧ f = g) && h.attached q)) := by
  unfold giveFlagOn
  split
  · next live =>
    by_cases own : p = q
    · subst own
      unfold hasFlag
      rw [port_modPort, if_pos rfl]
      simp [Flag.word_bit, live]
    · unfold hasFlag
      rw [port_modPort, if_neg own]
      simp [own]
  · next out =>
    by_cases own : p = q
    · subst own
      simp [out]
    · simp [own]

theorem hasChange_giveFlagOn {f : Flag} (live : h.attached p = true) : (h.giveFlagOn p f c).hasChange p c = true := by
  unfold giveFlagOn hasChange
  rw [if_pos live, port_modPort, if_pos rfl]
  simp [channelBit]

theorem attached_giveFlagOn (p q : Port) (f : Flag) (c : Fin 23) (h : Hub) :
    (h.giveFlagOn p f c).attached q = h.attached q := (tells_giveFlagOn p f c h).attached q

/-- What a hand-on gives besides is none of WON and LOST. -/
theorem hasFlag_passOn {f : Flag} (outside : f ∉ engineFlags) (c : Fin 23) (pair : Pair) (h : Hub) (p : Port) :
    (h.passOn c pair).hasFlag p f = h.hasFlag p f := by
  rw [Bool.eq_iff_iff]
  exact ⟨fun given => ((tells_passOn c pair h).flags p f given).resolve_right outside,
    fun given => (reach_passOn (C := fun _ => true) rfl pair h).flagsGain p f.bit given⟩

/-- The part at the hand-on of a forming. -/
def formedUp (c : Fin 23) (cause : FormCause) (h : Hub) : Hub :=
  (h.winnerNotices c).modChan c fun x =>
    { x with winner := h.winnerPort c, stay := h.stayAfter c cause, eff := h.formedPair c (h.stayAfter c cause) }

theorem form_eq (c : Fin 23) (cause : FormCause) (h : Hub) :
    h.form c cause = (h.formedUp c cause).passOn c (h.formedPair c (h.stayAfter c cause)) := rfl

theorem hasFlag_form {f : Flag} (outside : f ∉ engineFlags) (c : Fin 23) (cause : FormCause) (h : Hub) (p : Port) :
    (h.form c cause).hasFlag p f = (h.winnerNotices c).hasFlag p f := by
  rw [form_eq, hasFlag_passOn outside]
  rfl

theorem hasFlag_winnerNotices (c : Fin 23) (h : Hub) (p : Port) :
    (h.winnerNotices c).hasFlag p .won =
        (h.hasFlag p .won ||
          (decide ((h.chan c).winner ≠ h.winnerPort c ∧ h.winnerPort c = some p) && h.attached p)) ∧
      (h.winnerNotices c).hasFlag p .lost =
        (h.hasFlag p .lost ||
          (decide ((h.chan c).winner ≠ h.winnerPort c ∧ (h.chan c).winner = some p) && h.attached p)) := by
  unfold winnerNotices
  cases (h.chan c).winner with
  | none =>
    cases h.winnerPort c with
    | none => simp
    | some n => simp [hasFlag_giveFlagOn]
  | some m =>
    cases h.winnerPort c with
    | none => simp [hasFlag_giveFlagOn]
    | some n =>
      by_cases same : m = n
      · simp [same]
      · simp [same, hasFlag_giveFlagOn, attached_giveFlagOn]

theorem hasChange_winnerNotices (differs : (h.chan c).winner ≠ h.winnerPort c)
    (party : h.winnerPort c = some p ∨ (h.chan c).winner = some p) (live : h.attached p = true) :
    (h.winnerNotices c).hasChange p c = true := by
  unfold winnerNotices
  cases old : (h.chan c).winner with
  | none =>
    cases new : h.winnerPort c with
    | none => simp [old, new] at party
    | some n =>
      obtain rfl : n = p := by simpa [old, new] using party
      exact hasChange_giveFlagOn live
  | some m =>
    cases new : h.winnerPort c with
    | none =>
      obtain rfl : m = p := by simpa [old, new] using party
      exact hasChange_giveFlagOn live
    | some n =>
      have apart : m ≠ n := by simpa [old, new] using differs
      simp only [apart, if_false]
      rcases party with won | lost
      · obtain rfl : n = p := by simpa [new] using won
        exact hasChange_giveFlagOn (by rw [attached_giveFlagOn]; exact live)
      · obtain rfl : m = p := by simpa [old] using lost
        exact (reach_giveFlagOn (C := fun _ => true) n .won (.inl rfl)).changeGains _ _ (hasChange_giveFlagOn live)

end Hub

/-- Settles O21: the notices are those of the winner mark; the hand-on adds neither flag. -/
theorem formingGivesWonAndLost : Obligations.FormingGivesWonAndLost := by
  intro c cause h
  dsimp only
  refine ⟨by rw [Hub.chan_form, if_pos rfl]; rfl, fun p => ?_, fun p => ?_, fun p differs party live => ?_,
    fun p out => (Hub.reach_form (C := fun _ => true) (c := c) rfl cause h).unattached p out⟩
  · rw [Hub.hasFlag_form (by decide)]
    exact (Hub.hasFlag_winnerNotices c h p).1
  · rw [Hub.hasFlag_form (by decide)]
    exact (Hub.hasFlag_winnerNotices c h p).2
  · rw [Hub.form_eq]
    exact (Hub.reach_passOn (C := fun _ => true) rfl _ _).changeGains _ _
      (Hub.hasChange_winnerNotices differs party live)

/-! ## The decision of a stepper -/

namespace Hub

variable {c : Fin 23} {p : Port} {h m t : Hub} {u : Fin 2}

theorem giveArrived_tells {v : Command} {q : Port} {level : Nat}
    (taken : (h.chan (stepperChannel u)).taken = some ⟨v, .port q level⟩) (live : h.attached q = true) :
    (h.giveArrived u).hasFlag q .arrived = true ∧ (h.giveArrived u).hasChange q (stepperChannel u) = true := by
  unfold giveArrived
  rw [taken]
  exact ⟨by rw [hasFlag_giveFlagOn]; simp [live], hasChange_giveFlagOn live⟩

theorem stepper_modStepper_self (u : Fin 2) (f : Stepper → Stepper) (h : Hub) :
    (h.modStepper u f).stepper u = f (h.stepper u) := by
  rw [stepper_modStepper, if_pos rfl]

/-- A REFERENCED stepper that decides does what R116 says. -/
theorem decided_decision (referenced : (h.stepper u).ref = .referenced) : Decided u h (h.decision u) := by
  have bound : ((h.stepper u).ref != .referenced) = false := by simp [referenced]
  refine ⟨fun there => ?_, fun away inhibited => ?_, fun d away free toward reverses => ?_,
    fun d away free toward goesOn => ?_⟩
  all_goals
    unfold decision
    dsimp only
    rw [bound]
  · rw [if_neg (by simp), if_pos there]
    refine ⟨by rw [arrive, giveArrived_stepper, stepper_modStepper_self], fun v q level taken live => ?_⟩
    exact giveArrived_tells (by rw [modStepper_chan]; exact taken) (by rw [modStepper_attached]; exact live)
  · rw [if_neg (by simp), if_neg away, if_pos inhibited, pauseStepper, stepper_modStepper_self]
  · rw [if_neg (by simp), if_neg away, if_neg (by simp [free]), ← toward, if_pos reverses, stepper_modStepper_self]
    rfl
  · rw [if_neg (by simp), if_neg away, if_neg (by simp [free]), ← toward, if_neg goesOn, startStep,
      stepper_modStepper_self]

/-! ## Handing on -/

theorem sameOutputs_of_rest (same : t = { h with ports := t.ports, channels := t.channels }) : SameOutputs h t := by
  constructor <;> rw [same]

theorem winnerNotices_rest (c : Fin 23) (h : Hub) : h.winnerNotices c = { h with ports := (h.winnerNotices c).ports } := by
  unfold winnerNotices giveFlagOn
  repeat' split
  all_goals rfl

/-- The part at the hand-on differs from the part before in ports and in the channel formed. -/
theorem formedUp_rest (c : Fin 23) (cause : FormCause) (h : Hub) :
    h.formedUp c cause = { h with ports := (h.formedUp c cause).ports, channels := (h.formedUp c cause).channels } := by
  unfold formedUp
  rw [winnerNotices_rest]
  rfl

theorem chan_formedUp (c k : Fin 23) (cause : FormCause) (h : Hub) :
    (h.formedUp c cause).chan k =
      if c = k then
        { h.chan c with
          winner := h.winnerPort c, stay := h.stayAfter c cause, eff := h.formedPair c (h.stayAfter c cause) }
      else h.chan k := by
  rw [formedUp, chan_modChan, chan_of_channels (winnerNotices_channels c h),
    chan_of_channels (winnerNotices_channels c h)]

theorem eff_form (c : Fin 23) (cause : FormCause) (h : Hub) :
    ((h.form c cause).chan c).eff = h.formedPair c (h.stayAfter c cause) := by
  rw [chan_form, if_pos rfl]
  rfl

theorem taken_formedUp (c k : Fin 23) (cause : FormCause) (h : Hub) :
    ((h.formedUp c cause).chan k).taken = (h.chan k).taken := by
  rw [chan_formedUp]
  split
  · next same => rw [same]
  · rfl

/-- Outside RUN a forming hands nothing on. -/
theorem form_halted (halted : h.mode ≠ .run) (c : Fin 23) (cause : FormCause) : h.SameOutputs (h.form c cause) := by
  refine sameOutputs_of_rest ?_
  have mode : (h.formedUp c cause).mode = h.mode := by rw [formedUp_rest]
  rw [form_eq, passOn, mode, if_neg halted, formedUp_rest]
  rfl

/-- In RUN the pair an engine has taken is not handed on again. -/
theorem form_taken (run : h.mode = .run) (c : Fin 23) (cause : FormCause)
    (taken : (h.chan c).taken = some (h.formedPair c (h.stayAfter c cause))) :
    h.form c cause = h.formedUp c cause := by
  have mode : (h.formedUp c cause).mode = h.mode := by rw [formedUp_rest]
  rw [form_eq, passOn, mode, if_pos run, taken_formedUp, if_pos taken]

/-- In RUN another pair is handed over. -/
theorem form_handedOver (run : h.mode = .run) (c : Fin 23) (cause : FormCause)
    (differs : (h.chan c).taken ≠ some (h.formedPair c (h.stayAfter c cause))) :
    h.form c cause = (h.formedUp c cause).handOverAs c
      (decide ((h.chan c).taken.map Pair.command ≠ some (h.formedPair c (h.stayAfter c cause)).command))
      (h.formedPair c (h.stayAfter c cause)) := by
  have mode : (h.formedUp c cause).mode = h.mode := by rw [formedUp_rest]
  have change : (h.formedUp c cause).isCommandChange c (h.formedPair c (h.stayAfter c cause)) =
      decide ((h.chan c).taken.map Pair.command ≠ some (h.formedPair c (h.stayAfter c cause)).command) := by
    rw [isCommandChange, taken_formedUp, bne, Bool.eq_iff_iff]
    simp
  rw [form_eq, passOn, mode, if_pos run, taken_formedUp, if_neg differs, handOver, change]

theorem handOverAs_relay (r : Fin 12) (change : Bool) (pair : Pair) (h : Hub) :
    h.handOverAs (relayChannel r) change pair =
      relayTakes r change (h.modChan (relayChannel r) fun x => { x with taken := some pair }) h := by
  unfold handOverAs
  rw [outputOf_relayChannel]

theorem handOverAs_lamp (l : Fin 8) (change : Bool) (pair : Pair) (h : Hub) :
    h.handOverAs (lampChannel l) change pair =
      if change then (h.modChan (lampChannel l) fun x => { x with taken := some pair }).showLamp l
      else h.modChan (lampChannel l) fun x => { x with taken := some pair } := by
  unfold handOverAs
  rw [outputOf_lampChannel]

theorem handOverAs_sound (change : Bool) (pair : Pair) (h : Hub) :
    h.handOverAs soundChannel change pair =
      (h.modChan soundChannel fun x => { x with taken := some pair }).sounderTakes change := rfl

theorem handOverAs_stepper (u : Fin 2) (change : Bool) (pair : Pair) (h : Hub) :
    h.handOverAs (stepperChannel u) change pair =
      (h.modChan (stepperChannel u) fun x => { x with taken := some pair }).stepperTakes u change := by
  unfold handOverAs
  rw [outputOf_stepperChannel]

/-- Where a command change is recorded only. -/
theorem stepperTakes_recorded
    (busy : (h.stepper u).cond ≠ .running ∨ (h.stepper u).ref ≠ .referenced ∨
      (∃ d k, (h.stepper u).engine = .moving d k) ∨ (∃ k, (h.stepper u).engine = .referencing k) ∨
      (∃ k, (h.stepper u).engine = .reversing k) ∨ ((h.stepper u).engine = .paused ∧ (h.stepper u).refReq = true)) :
    h.stepperTakes u true = h := by
  have undecided (unbound : (h.stepper u).ref ≠ .referenced) : h.decision u = h := by
    unfold decision
    dsimp only
    rw [if_pos (by simpa using unbound)]
  unfold stepperTakes
  split
  · next runs =>
    have running : (h.stepper u).cond = .running := by simpa using runs
    rcases busy with stopped | unbound | ⟨d, k, engine⟩ | ⟨k, engine⟩ | ⟨k, engine⟩ | ⟨engine, waits⟩
    · exact absurd running stopped
    · split
      · exact undecided unbound
      · split
        · rfl
        · exact undecided unbound
      all_goals rfl
    all_goals rw [engine]
    dsimp only
    rw [if_pos waits]
  · rfl

/-- Where it decides. -/
theorem stepperTakes_decides (running : (h.stepper u).cond = .running)
    (rests : (h.stepper u).engine = .idle ∨ (h.stepper u).engine = .paused ∧ (h.stepper u).refReq = false) :
    h.stepperTakes u true = h.decision u := by
  unfold stepperTakes
  rw [if_pos (by simp [running])]
  rcases rests with engine | ⟨engine, none⟩
  · rw [engine]
  · rw [engine]
    exact if_neg (by simp [none])

theorem relayTakes_frozen (r : Fin 12) (change : Bool) {before : Hub} (frozen : h.relayCond = .frozen) :
    relayTakes r change h before = h := by
  unfold relayTakes
  rw [frozen]

theorem relayTakes_source (r : Fin 12) {before : Hub} (alone : h.groupOf r = none) : relayTakes r false h before = h := by
  unfold relayTakes
  cases h.relayCond <;> simp [alone]

theorem sounderTakes_frozen (change : Bool) (frozen : h.sounder.cond = .frozen) : h.sounderTakes change = h := by
  unfold sounderTakes
  rw [frozen]

theorem sounderTakes_source (h : Hub) : h.sounderTakes false = h := by
  unfold sounderTakes
  cases h.sounder.cond <;> rfl

end Hub

/-- Settles O22: the hand-on by the mode, then what each engine makes of it. -/
theorem formingHandsOnByTheMode : Obligations.FormingHandsOnByTheMode := by
  refine ⟨fun c cause h halted => ⟨Hub.form_halted halted c cause, ?_, ?_⟩, fun c cause h run taken => ?_,
    fun c cause h run => ?_, fun h before => ⟨fun r change frozen => Hub.relayTakes_frozen r change frozen,
      fun r alone => Hub.relayTakes_source r alone, fun change frozen => Hub.sounderTakes_frozen change frozen,
      Hub.sounderTakes_source h, fun l => rfl⟩,
    fun u h => ⟨by simp [Hub.stepperTakes], Hub.stepperTakes_recorded, fun running referenced rests => ?_⟩,
    fun u cause h => Hub.stayFormed_form u cause h⟩
  · rw [Hub.chan_form, if_pos rfl, Hub.formedChannel]
    exact if_neg halted
  · rw [Hub.chan_form, if_pos rfl, Hub.formedChannel]
    exact if_neg halted
  · rw [Hub.eff_form] at taken
    rw [Hub.form_taken run c cause taken]
    exact Hub.sameOutputs_of_rest (Hub.formedUp_rest c cause h)
  · dsimp only
    rw [Hub.eff_form]
    intro differs
    refine ⟨h.formedUp c cause, Hub.formedUp_rest c cause h, fun k => Hub.taken_formedUp c k cause h, fun k apart => ?_, ?_,
      ?_⟩
    · rw [Hub.chan_formedUp, if_neg (Ne.symm apart)]
    · rw [Hub.chan_formedUp, if_pos rfl]
    · rw [Hub.form_handedOver run c cause differs]
      refine ⟨fun r own => ?_, fun own => ?_, fun l own => ?_, fun u own => ?_⟩
      all_goals subst own
      · exact Hub.handOverAs_relay ..
      · exact Hub.handOverAs_sound ..
      · exact Hub.handOverAs_lamp ..
      · exact Hub.handOverAs_stepper ..
  · rw [Hub.stepperTakes_decides running rests]
    exact ⟨Hub.decided_decision referenced, (Hub.drive_decision (Hub.only_self _) h).toReach⟩

end Sys2Proof.Machine
end

section
/-! Handover: asked, resolved at once, answered, expired (R77 to R86). -/

namespace Sys2Proof.Machine
namespace Hub

variable {c : Fin 23} {p : Port} {h m t : Hub}

/-- What a handover concluded leaves (R85, R86). -/
theorem resolved_conclude (grants : Bool) (c : Fin 23) (o : HandoverOutcome) (q d : Port) (h : Hub) :
    Resolved c o q d grants h (h.concludeHandover grants c o q d) := by
  unfold concludeHandover
  have granted : Reach (only c) h (if grants = true then (h.reorder c q d).form c .edit else h) := by
    split
    · exact (reach_modChan (only_self c) _ h).trans (reach_form (only_self c) .edit _)
    · exact .refl _ h
  have reach := granted.trans (reach_resolve (only_self c) o q d _)
  obtain ⟨record, asked, told⟩ := resolve_settles c o q d (if grants = true then (h.reorder c q d).form c .edit else h)
  refine ⟨record, asked, fun live => told ((reach.attached q).trans live), ?_, fun yes => ?_, fun no => ?_, reach⟩
  · rw [chan_resolve, if_pos rfl]
    cases grants with
    | false => rfl
    | true =>
      rw [if_pos rfl, if_pos rfl, chan_form, if_pos rfl, formedChannel_claims, reorder, chan_modChan, if_pos rfl]
  · rw [if_pos yes]
    exact (formed_form ..).resolve ..
  · subst no
    have rest := (relisted_resolve c o q d h).rest
    refine ⟨sameOutputs_of_rest rest, ?_⟩
    rw [if_neg (by simp), chan_resolve, if_pos rfl]

theorem defaultOutcome_eq (h : Hub) (c : Fin 23) :
    h.defaultOutcome c =
      if h.work.handovers[c].grant then HandoverOutcome.timedOutGranted else .timedOutDenied := rfl

theorem resolved_default (c : Fin 23) (q d : Port) (h : Hub) :
    Resolved c (h.defaultOutcome c) q d h.work.handovers[c].grant h (h.resolveByDefault c q d) :=
  resolved_conclude h.work.handovers[c].grant c (h.defaultOutcome c) q d h

/-- A handover asked of an ATTACHED holder. -/
theorem beginHandover_eq {w : Port} (live : h.attached w = true) :
    h.beginHandover p w c =
      (h.modChan c fun x => { x with
        handover := { x.handover with
          pending := some ⟨p, w, Config.tenths h.work.handovers[c].timeout⟩ } }).modPort w fun t =>
        { t with flags := t.flags ||| 0x4, asked := t.asked ||| channelBit c } := by
  have still : (h.modChan c fun x => { x with
      handover := { x.handover with
        pending := some ⟨p, w, Config.tenths h.work.handovers[c].timeout⟩ } }).attached w = true := live
  rw [beginHandover, giveAsked, giveFlag, if_pos still, modPort_modPort]
  rfl

end Hub

section
variable {p : Port} {ch answer : Byte} {c : Fin 23} {s : State}

/-- The winner of a list stands against the port: another port's claim at the level of the port's own. -/
def uncontestedOn (p : Port) (ch : Byte) (h : Hub) : Bool :=
  match channelNo ch with
  | some c => h.notContested p c
  | none => false

theorem exec_handover (p : Port) (ch : Byte) (s : State) :
    exec (.handover p ch) s = onRequest p (fun h => h.refuseFirst p
      (h.standing p ++ [(h.inFaultHold, .startupFault), ((channelNo ch).isNone, .badChannel),
        (h.lacksClaim p ch, .noClaim), (h.handoverPending ch, .handoverBusy), (uncontestedOn p ch h, .notContested)])
      (h.onChannel ch (Hub.askHandover p))) s := rfl

theorem exec_answer (p : Port) (ch answer : Byte) (s : State) :
    exec (.answer p ch answer) s = onRequest p (fun h => h.refuseFirst p
      (h.standing p ++ [(h.inFaultHold, .startupFault), ((channelNo ch).isNone, .badChannel),
        (answer != 1 && answer != 2, .badValue), (!h.isHolder p ch, .noHandover)])
      (h.onChannel ch (Hub.answerHandover p (answer == 1)))) s := rfl

theorem Hub.handoverPending_named {h : Hub} (named : channelNo ch = some c) :
    h.handoverPending ch = (h.chan c).handover.pending.isSome := by
  rw [Hub.handoverPending, named]

theorem uncontestedOn_named {h : Hub} (named : channelNo ch = some c) : uncontestedOn p ch h = h.notContested p c := by
  rw [uncontestedOn, named]

theorem Hub.notContested_of {h : Hub} {w own : Claim} (first : (h.chan c).claims.head? = some w)
    (mine : claimOf p (h.chan c).claims = some own) :
    h.notContested p c = (w.port == p || w.level != own.level) := by
  unfold Hub.notContested
  rw [first, mine]

/-- A HANDOVER that passes its checks. -/
theorem exec_handover_taken {w own : Claim} {rest : List Claim} (asks : s.hub.MayAsk p) (open_ : s.hub.mode ≠ .faultHold)
    (named : channelNo ch = some c) (free : (s.hub.chan c).handover.pending = none)
    (list : (s.hub.chan c).claims = w :: rest) (mine : claimOf p (w :: rest) = some own) (other : w.port ≠ p)
    (level : w.level = own.level) :
    exec (.handover p ch) s = .next { s with hub := (Hub.restartLease p s.hub).askHandover p c } := by
  have holds : s.hub.holdsClaim p c = true := by simp [Hub.holdsClaim, list, mine]
  have contested : (Hub.restartLease p s.hub).notContested p c = false := by
    rw [Hub.notContested_of (w := w) (own := own) (by simp [list]) (by simpa [list] using mine)]
    simp [other, level]
  rw [exec_taken asks (exec_handover p ch s), Hub.onChannel_named named]
  simp [Hub.inFaultHold, open_, named, Hub.lacksClaim_named named, holds, Hub.handoverPending_named named, free,
    uncontestedOn_named named, contested]

theorem Hub.askHandover_live {h : Hub} {w : Claim} {rest : List Claim} (list : (h.chan c).claims = w :: rest)
    (live : w.state = .live) : h.askHandover p c = h.startHandover p w.port c := by
  unfold Hub.askHandover
  rw [list]
  dsimp only
  rw [live]

theorem Hub.askHandover_orphaned {h : Hub} {w : Claim} {rest : List Claim} (list : (h.chan c).claims = w :: rest)
    (orphaned : w.state = .orphaned) :
    h.askHandover p c =
      (h.resolveByDefault c p w.port).respond p .ok [byteOf w.port.idx.val, (h.defaultOutcome c).code] := by
  unfold Hub.askHandover
  rw [list]
  dsimp only
  rw [orphaned]
  rfl

theorem handover_refused (asks : s.hub.MayAsk p) :
    RefusedInOrder (.handover p ch) p s
      [(s.hub.mode = .faultHold, .startupFault), (22 < ch.toNat, .badChannel),
        (∀ c, channelNo ch = some c → s.hub.holdsClaim p c = false, .noClaim),
        (∃ c, channelNo ch = some c ∧ (s.hub.chan c).handover.pending.isSome = true, .handoverBusy),
        (∃ c w own, channelNo ch = some c ∧ (s.hub.chan c).claims.head? = some w ∧
          claimOf p (s.hub.chan c).claims = some own ∧ (w.port = p ∨ w.level ≠ own.level), .notContested)] := by
  refine refusedInOrder_onChannel ?_ fun c named => ?_
  · refine refusedInOrder_asked
      (checks := fun h => [(h.inFaultHold, .startupFault), ((channelNo ch).isNone, .badChannel)])
      (more := fun h => [(h.lacksClaim p ch, .noClaim), (h.handoverPending ch, .handoverBusy),
        (uncontestedOn p ch h, .notContested)]) asks (exec_handover p ch s) ?_
    simpa [Hub.inFaultHold_iff] using channelNo_isNone ch
  · have narrow := channelNo_narrow named
    cases holds : s.hub.holdsClaim p c with
    | false =>
      refine RefusedInOrder.append (conditions := [(s.hub.mode = .faultHold, .startupFault),
          (22 < ch.toNat, .badChannel), (∀ c, channelNo ch = some c → s.hub.holdsClaim p c = false, .noClaim)])
        ?_ ⟨_, List.mem_cons_of_mem _ (List.mem_cons_of_mem _ List.mem_cons_self), by simp [named, holds]⟩ _
      refine refusedInOrder_asked (checks := fun h => [(h.inFaultHold, .startupFault),
          ((channelNo ch).isNone, .badChannel), (h.lacksClaim p ch, .noClaim)])
        (more := fun h => [(h.handoverPending ch, .handoverBusy), (uncontestedOn p ch h, .notContested)]) asks
        (exec_handover p ch s) ?_
      simpa [Hub.inFaultHold_iff, Hub.lacksClaim_named named, named, holds] using narrow
    | true =>
      obtain ⟨own, mine⟩ := Option.isSome_iff_exists.mp holds
      obtain ⟨w, rest, list⟩ : ∃ w rest, (s.hub.chan c).claims = w :: rest :=
        List.exists_cons_of_ne_nil (by rintro nil; rw [nil] at mine; cases mine)
      have first : (s.hub.chan c).claims.head? = some w := by rw [list]; rfl
      refine refusedInOrder_all asks (exec_handover p ch s) ?_
      have contest : (Hub.restartLease p s.hub).notContested p c = (w.port == p || w.level != own.level) :=
        Hub.notContested_of (by simpa using first) (by simpa using mine)
      simpa [Hub.inFaultHold_iff, Hub.lacksClaim_named named, named, holds, Hub.handoverPending_named named,
        uncontestedOn_named named, contest, first, mine] using narrow

/-- Settles O23: a LIVE holder is asked; an ORPHANED one has the default outcome. -/
theorem handoverAsksOrIsResolvedAtOnce : Obligations.HandoverAsksOrIsResolvedAtOnce := by
  refine ⟨fun p ch c w own rest s asks open_ named free list mine other level standing live => ?_,
    fun p ch c w own rest s asks open_ named free list mine other level orphaned => ?_,
    fun p ch s asks => handover_refused asks⟩
  · rw [exec_handover_taken asks open_ named free list mine other level,
      Hub.askHandover_live (w := w) (rest := rest) (by simpa using list) standing, Hub.startHandover_eq,
      Hub.beginHandover_eq (by simpa using live), Hub.restartLease_work]
    rfl
  · have resolved := Hub.resolved_default c p w.port (Hub.restartLease p s.hub)
    rw [Hub.defaultOutcome_eq, Hub.restartLease_work] at resolved
    refine ⟨_, ?_, resolved⟩
    rw [exec_handover_taken asks open_ named free list mine other level,
      Hub.askHandover_orphaned (w := w) (rest := rest) (by simpa using list) orphaned, Hub.defaultOutcome_eq,
      Hub.restartLease_work]

/-- An ANSWER that passes its checks. -/
theorem exec_answer_taken {w : PendingHandover} (asks : s.hub.MayAsk p) (open_ : s.hub.mode ≠ .faultHold)
    (named : channelNo ch = some c) (value : answer = 1 ∨ answer = 2)
    (pending : (s.hub.chan c).handover.pending = some w) (holder : w.holder = p) :
    exec (.answer p ch answer) s = .next { s with
      hub := (Hub.restartLease p s.hub).answerHandover p (answer == 1) c } := by
  rw [exec_taken asks (exec_answer p ch answer s), Hub.onChannel_named named]
  simp [Hub.inFaultHold, open_, named, Hub.isHolder, pending, holder]
  exact value.resolve_left

theorem Hub.answerHandover_eq {h : Hub} {w : PendingHandover} (yields : Bool)
    (pending : (h.chan c).handover.pending = some w) :
    h.answerHandover p yields c =
      (h.concludeHandover yields c (if yields then .granted else .declined) w.requester w.holder).respond p .ok
        [(if yields then HandoverOutcome.granted else .declined).code] := by
  unfold Hub.answerHandover
  rw [pending]
  rfl

theorem answer_refused (asks : s.hub.MayAsk p) :
    RefusedInOrder (.answer p ch answer) p s
      [(s.hub.mode = .faultHold, .startupFault), (22 < ch.toNat, .badChannel),
        (answer ≠ 1 ∧ answer ≠ 2, .badValue),
        (∀ c w, channelNo ch = some c → (s.hub.chan c).handover.pending = some w → w.holder ≠ p, .noHandover)] := by
  refine refusedInOrder_onChannel ?_ fun c named => ?_
  · refine refusedInOrder_asked
      (checks := fun h => [(h.inFaultHold, .startupFault), ((channelNo ch).isNone, .badChannel)])
      (more := fun h => [(answer != 1 && answer != 2, .badValue), (!h.isHolder p ch, .noHandover)]) asks
      (exec_answer p ch answer s) ?_
    simpa [Hub.inFaultHold_iff] using channelNo_isNone ch
  · refine refusedInOrder_all asks (exec_answer p ch answer s) ?_
    have holder : (Hub.restartLease p s.hub).isHolder p ch = (s.hub.chan c).handover.pending.any fun w => w.holder == p := by
      unfold Hub.isHolder
      rw [named, Option.bind_some, Hub.restartLease_chan]
      cases (s.hub.chan c).handover.pending <;> rfl
    have noHandover : (Hub.restartLease p s.hub).isHolder p ch = false ↔
        ∀ c w, channelNo ch = some c → (s.hub.chan c).handover.pending = some w → w.holder ≠ p := by
      rw [holder]
      refine ⟨fun none k w same found => ?_, fun all => ?_⟩
      · obtain rfl : c = k := by simpa [named] using same
        simpa [found] using none
      · cases pending : (s.hub.chan c).handover.pending with
        | none => rfl
        | some w => simpa using all c w named pending
    simp only [checksFor_cons, checksFor_nil, and_true, Hub.inFaultHold_restartLease, Hub.inFaultHold_iff,
      channelNo_isNone, Bool.and_eq_true, bne_iff_ne, Bool.not_eq_true', noHandover]

end

/-- Settles O24: the answer concludes the handover, and so does the expiry. -/
theorem answersAndExpiriesResolveTheHandover : Obligations.AnswersAndExpiriesResolveTheHandover := by
  refine ⟨fun p ch answer c w s asks open_ named value pending holder => ?_, fun p ch answer s asks => answer_refused asks,
    fun c s => ⟨fun none => onEvent_still (by rw [Hub.handoverExpires, none]), fun w pending => ?_⟩⟩
  · have resolved := Hub.resolved_conclude (answer == 1) c (if answer == 1 then .granted else .declined) w.requester
      w.holder (Hub.restartLease p s.hub)
    have same : (if (answer == 1) = true then HandoverOutcome.granted else .declined) =
        if answer = 1 then .granted else .declined := by simp
    rw [same, holder] at resolved
    refine ⟨_, ?_, resolved⟩
    rw [exec_answer_taken asks open_ named value pending holder, Hub.answerHandover_eq _ (by simpa using pending), same,
      holder]
  · refine ⟨_, onEvent_of_eq (by rw [Hub.handoverExpires, pending]), ?_⟩
    exact Hub.resolved_default c w.requester w.holder s.hub

end Sys2Proof.Machine
end

section
/-! The expiry of a relay's run and of a group's dead timer (R90 to R97, R104). -/

namespace Sys2Proof.Machine
namespace Hub

theorem modRelay_modRelay (r : Fin 12) (f g : Relay → Relay) (h : Hub) :
    (h.modRelay r f).modRelay r g = h.modRelay r fun x => g (f x) := by
  simp [modRelay, relay]

theorem relayRunExpires_still {r : Fin 12} {h : Hub} (ended : (h.relay r).mark = .expired ∨ (h.relay r).mark = .fromReset) :
    h.relayRunExpires r = h := by
  unfold relayRunExpires
  rcases ended with e | e <;> rw [e]

theorem relayRunExpires_running {r : Fin 12} {h : Hub}
    (runs : ∃ k, (h.relay r).mark = .minOn k ∨ (h.relay r).mark = .minOff k) : h.relayRunExpires r = h.endRun r := by
  unfold relayRunExpires
  obtain ⟨k, e | e⟩ := runs <;> rw [e]

theorem endRun_frozen {h : Hub} (r : Fin 12) (frozen : h.relayCond = .frozen) :
    h.endRun r = h.modRelay r fun t => { t with mark := .expired } := by
  unfold endRun
  rw [frozen]

theorem endRun_grouped {r : Fin 12} {g : Fin 4} {h : Hub} (running : h.relayCond = .running) (mine : h.groupOf r = some g) :
    h.endRun r = (h.modRelay r fun t => { t with mark := .expired }).contest g h := by
  unfold endRun
  rw [running, mine]

/-- What the expiry of its run makes of a relay of no group (R92). -/
def expiredAlone (i : RelayItem) (x : Relay) : Relay :=
  match x.state with
  | .waitMinOff => ⟨.on, none, true, minOnRun (Config.ms (100 * i.minOn))⟩
  | .waitMinOn => ⟨.off, none, false, minOffRun (Config.ms (100 * i.minOff))⟩
  | .off => { x with mark := .expired }
  | .on => { x with mark := .expired }
  | .waitDead => { x with mark := .expired }
  | .heldOff => { x with mark := .expired }

theorem endRun_alone {r : Fin 12} {h : Hub} (running : h.relayCond = .running) (alone : h.groupOf r = none) :
    h.endRun r = h.modRelay r fun _ => expiredAlone h.work.relays[r] (h.relay r) := by
  unfold endRun
  rw [running, alone]
  generalize m : h.modRelay r (fun t => { t with mark := .expired }) = ended
  have state : (ended.relay r).state = (h.relay r).state := by rw [← m, relay_modRelay, if_pos rfl]
  have work : ended.work = h.work := by rw [← m, modRelay_work]
  have still : ended.groupOf r = none := by rw [← m, modRelay_groupOf, alone]
  have replaced (x : Relay) : ended.modRelay r (fun _ => x) = h.modRelay r fun _ => x := by rw [← m, modRelay_modRelay]
  have kept : ended = h.modRelay r fun _ => { h.relay r with mark := .expired } := by rw [← m]; rfl
  change ended.followExpiry r = _
  unfold followExpiry expiredAlone
  cases e : (h.relay r).state <;> rw [e] at state <;> rw [state]
  case waitMinOff => exact (replaced _).trans (by rw [work]; rfl)
  case waitMinOn => exact (switchOff_ungrouped still .off).trans ((replaced _).trans (by rw [work]; rfl))
  all_goals exact kept.trans (by simp [e])

theorem endDead_still {g : Fin 4} {h : Hub} (quiet : h.relayCond = .frozen ∨ h.groupInUse g = false) :
    h.endDead g = h.setDead g .expired := by
  unfold endDead
  cases e : h.relayCond with
  | frozen => rfl
  | running =>
    have unused : h.groupInUse g = false := quiet.resolve_left (by simp [e])
    simp [unused]

theorem endDead_contest {g : Fin 4} {h : Hub} (running : h.relayCond = .running) (used : h.groupInUse g = true) :
    h.endDead g = (h.setDead g .expired).contest g h := by
  unfold endDead
  rw [running]
  exact if_pos used

end Hub

/-- Settles O26: the run by its mark, the unit's condition and the relay's group; the dead timer by its run. -/
theorem relayTimersExpireByTheUnitsCondition : Obligations.RelayTimersExpireByTheUnitsCondition := by
  unfold Obligations.RelayTimersExpireByTheUnitsCondition
  refine ⟨fun r s => ⟨fun ended => onEvent_still (Hub.relayRunExpires_still ended), fun runs => ?_⟩, fun g left s cut => ?_,
    fun g left s whole => ⟨fun quiet => ?_, fun running used => ?_⟩⟩
  · have taken := Hub.relayRunExpires_running runs
    refine ⟨fun frozen => onEvent_of_eq (taken.trans (Hub.endRun_frozen r frozen)), fun running g mine => ⟨?_, ?_⟩,
      fun running alone => onEvent_of_eq (taken.trans (Hub.endRun_alone running alone))⟩
    · exact onEvent_of_eq (taken.trans (Hub.endRun_grouped running mine))
    · exact (Hub.reach_modRelay (Hub.reachesRelay_own (Hub.only_self _)) _).trans
        (Hub.drive_contest (Hub.groupReached_of (Hub.only_self _) ((Hub.modRelay_groupOf ..).trans mine)) _).toReach
  · exact onEvent_of_eq (Hub.deadTimerExpires_cut cut)
  · exact onEvent_of_eq ((Hub.deadTimerExpires_whole whole).trans (Hub.endDead_still quiet))
  · exact onEvent_of_eq ((Hub.deadTimerExpires_whole whole).trans (Hub.endDead_contest running used))

namespace Hub

/-! ## The one member that asks -/

theorem find?_only {α : Type} {f : α → Bool} {xs : List α} {r : α} (mem : r ∈ xs) (own : f r = true)
    (only : ∀ q ∈ xs, f q = true → q = r) : xs.find? f = some r := by
  cases e : xs.find? f with
  | none => exact absurd own (List.find?_eq_none.mp e r mem)
  | some q => rw [only q (List.mem_of_find?_eq_some e) (List.find?_some e)]

theorem foldl_still {α β : Type} {f : β → α → β} {b : β} : ∀ {xs : List α}, (∀ x ∈ xs, f b x = b) → xs.foldl f b = b
  | [], _ => rfl
  | x :: xs, still => by
    rw [List.foldl_cons, still x List.mem_cons_self]
    exact foldl_still fun y m => still y (List.mem_cons_of_mem x m)

/-- The one member of the group that asks for ON is ON or chosen, and the others are OFF. -/
structure SoleAsker (g : Fin 4) (r : Fin 12) (h : Hub) : Prop where
  mine : h.namesRelay g r = true
  asks : h.asksOn r = true
  state : (h.relay r).state = .on ∨ (h.relay r).state = .waitDead
  others : ∀ q, h.namesRelay g q = true → q ≠ r →
    (h.relay q).state = .off ∧ (h.relay q).output = false ∧ h.asksOn q = false

namespace SoleAsker
variable {g : Fin 4} {r : Fin 12} {h : Hub}

theorem settleMember (a : SoleAsker g r h) {q : Fin 12} (member : h.namesRelay g q = true) : h.settleMember q = h := by
  unfold Hub.settleMember
  by_cases own : q = r
  · subst own
    rcases a.state with e | e <;> rw [e] <;> exact if_pos a.asks
  · rw [(a.others q member own).1]

theorem settled (a : SoleAsker g r h) : (h.members g).foldl Hub.settleMember h = h :=
  foldl_still fun _ m => a.settleMember (mem_members.mp m)

theorem incumbent (a : SoleAsker g r h) : h.incumbent g = some r := by
  have mem : r ∈ h.members g := mem_members.mpr a.mine
  have only (x : RelayState) (up : x ≠ .off) : ∀ q ∈ h.members g, ((h.relay q).state == x) = true → q = r := by
    intro q m e
    refine Classical.byContradiction fun other => ?_
    exact up ((eq_of_beq e).symm.trans (a.others q (mem_members.mp m) other).1)
  unfold Hub.incumbent
  cases on : (h.members g).find? fun q => (h.relay q).state == .on with
  | some q => rw [only .on (by decide) q (List.mem_of_find?_eq_some on)
        (List.find?_some (p := fun q => (h.relay q).state == .on) on)]
  | none =>
    have waits := a.state.resolve_left fun e => List.find?_eq_none.mp on r mem (beq_iff_eq.mpr e)
    exact find?_only mem (beq_iff_eq.mpr waits) (only .waitDead (by decide))

theorem preemption (a : SoleAsker g r h) : h.preemption g = (h, some r) := by
  have first : h.outranked g r = false := by
    rw [outranked, List.any_eq_false]
    intro q m
    by_cases own : q = r
    · simp [own]
    · simp [(a.others q (mem_members.mp m) own).2.2]
  unfold Hub.preemption
  rw [a.incumbent]
  simp [first]

theorem chooseAndHold (a : SoleAsker g r h) : h.chooseAndHold g (some r) = h := by
  have none_held : ((h.members g).filter fun q => h.eligible q && some r != some q) = [] := by
    rw [List.filter_eq_nil_iff]
    intro q m
    by_cases own : q = r
    · simp [own]
    · simp [eligible, (a.others q (mem_members.mp m) own).2.2]
  unfold Hub.chooseAndHold
  dsimp only
  rw [none_held]
  rfl

theorem contestPass (a : SoleAsker g r h) :
    h.contestPass g = (h.closeChosen g, switched h (h.closeChosen g)) := by
  have still (x : Hub) : switched x x = false := by simp [switched]
  unfold Hub.contestPass
  dsimp only
  rw [a.settled, a.preemption]
  dsimp only
  rw [a.chooseAndHold, still, Bool.false_or, Bool.false_or]

theorem closeChosen_on (a : SoleAsker g r h) (on : (h.relay r).state = .on) : h.closeChosen g = h := by
  refine closeChosen_none fun q member => ?_
  by_cases own : q = r
  · simp [own, on]
  · simp [(a.others q member own).1]

theorem closeChosen_free (a : SoleAsker g r h) (waits : (h.relay r).state = .waitDead) (ended : h.deadTimer g = .expired)
    (rested : h.minOffRunning r = false) : h.closeChosen g = h.switchOn r := by
  have found : (h.members g).find? (fun q => (h.relay q).state == .waitDead) = some r := by
    refine find?_only (mem_members.mpr a.mine) (beq_iff_eq.mpr waits) fun q m e => ?_
    refine Classical.byContradiction fun other => ?_
    simp [(a.others q (mem_members.mp m) other).1] at e
  have free : h.mayClose g r = true := by
    have alone : ((h.members g).any fun q => q != r && (h.relay q).output) = false := by
      rw [List.any_eq_false]
      intro q m
      by_cases own : q = r
      · simp [own]
      · simp [(a.others q (mem_members.mp m) own).2.1]
    simp [mayClose, alone, ended, rested]
  unfold closeChosen
  rw [found]
  exact if_pos free

theorem switchOn (a : SoleAsker g r h) : SoleAsker g r (h.switchOn r) where
  mine := (modRelay_namesRelay ..).trans a.mine
  asks := by unfold Hub.switchOn asksOn; rw [modRelay_chan]; exact a.asks
  state := .inl (by rw [Hub.switchOn, relay_modRelay, if_pos rfl])
  others q member other := by
    have mine := a.others q ((modRelay_namesRelay ..).symm.trans member) other
    unfold Hub.switchOn asksOn
    rw [relay_modRelay, if_neg (Ne.symm other), modRelay_chan]
    exact mine

theorem no_notice (a : SoleAsker g r h) (before : Hub) : (h.members g).foldl (interlockNotice before) h = h := by
  refine foldl_still fun q m => ?_
  have up : (h.relay q).state ≠ .heldOff := by
    by_cases own : q = r
    · rcases a.state with e | e <;> simp [own, e]
    · simp [(a.others q (mem_members.mp m) own).1]
  simp [interlockNotice, up]

/-- The contest switches the waiting member ON in its first pass; its second finds nothing more to do (R95, R99). -/
theorem contest (a : SoleAsker g r h) (before : Hub) (waits : (h.relay r).state = .waitDead)
    (open_ : (h.relay r).output = false) (ended : h.deadTimer g = .expired) (rested : h.minOffRunning r = false) :
    h.contest g before = h.switchOn r := by
  have on : ((h.switchOn r).relay r).state = .on := by rw [Hub.switchOn, relay_modRelay, if_pos rfl]
  have moved : switched h (h.switchOn r) = true := by
    have differ : (h.relays.map (·.output))[r] ≠ ((h.switchOn r).relays.map (·.output))[r] := by
      have now : ((h.switchOn r).relay r).output = true := by rw [Hub.switchOn, relay_modRelay, if_pos rfl]
      unfold relay at now open_
      simp only [Fin.getElem_fin, Vector.getElem_map] at *
      rw [open_, now]
      decide
    unfold switched
    rw [bne_iff_ne]
    exact fun same => differ (by rw [same])
  have still : switched (h.switchOn r) (h.switchOn r) = false := by simp [switched]
  have first : h.contestPass g = (h.switchOn r, true) := by
    rw [a.contestPass, a.closeChosen_free waits ended rested, moved]
  have second : (h.switchOn r).contestPass g = (h.switchOn r, false) := by
    rw [a.switchOn.contestPass, a.switchOn.closeChosen_on on, still]
  have ran : h.contestPasses g 32 = h.switchOn r := by
    rw [contestPasses_succ, first, if_pos rfl, contestPasses_succ, second]
    rfl
  unfold Hub.contest
  dsimp only
  have members : h.members g = (h.switchOn r).members g := (modRelay_members ..).symm
  rw [ran, members, a.switchOn.no_notice]

end SoleAsker
end Hub

/-- Settles O27: the contest at the expiry, where one member alone asks. -/
theorem deadTimerExpiryClosesTheWaitingMember : Obligations.DeadTimerExpiryClosesTheWaitingMember := by
  unfold Obligations.DeadTimerExpiryClosesTheWaitingMember
  intro g r left s whole running mine waits open_ asks rested others
  have used : s.hub.groupInUse g = true := by
    unfold Hub.groupInUse
    rw [bne_iff_ne]
    intro empty
    rw [Hub.namesRelay, empty] at mine
    simp at mine
  have sole : Hub.SoleAsker g r (s.hub.setDead g .expired) :=
    ⟨mine, asks, .inr waits, others⟩
  have ended : (s.hub.setDead g .expired).deadTimer g = .expired := by rw [Hub.deadTimer_setDead, if_pos rfl]
  refine ⟨(s.hub.setDead g .expired).switchOn r, onEvent_of_eq ?_, ?_, fun q other => ?_, ?_⟩
  · rw [Hub.deadTimerExpires_whole whole, Hub.endDead_contest running used]
    exact sole.contest _ waits open_ ended rested
  · rw [Hub.switchOn, Hub.relay_modRelay, if_pos rfl]; rfl
  · rw [Hub.switchOn, Hub.relay_modRelay, if_neg (Ne.symm other), Hub.setDead_relay]
  · rw [Hub.switchOn, Hub.modRelay_deadTimer, ended]

end Sys2Proof.Machine
end

section
/-! The contest of a group: its five steps and what a run tells (R98 to R103). -/

namespace Sys2Proof.Machine
namespace Hub

/-! ## The choice -/

/-- The contest prefers `r` to `q`: the higher source level, of the same the lower channel (R102). -/
def Prefers (h : Hub) (r q : Fin 12) : Prop :=
  h.sourceLevel q < h.sourceLevel r ∨ (h.sourceLevel q = h.sourceLevel r ∧ r ≤ q)

theorem Prefers.trans {h : Hub} {a b c : Fin 12} (x : h.Prefers a b) (y : h.Prefers b c) : h.Prefers a c := by
  unfold Prefers at *
  omega

theorem Prefers.refl (h : Hub) (r : Fin 12) : h.Prefers r r := .inr ⟨rfl, Fin.le_refl _⟩

/-- Of a lower and a higher channel, the stronger is preferred to both. -/
theorem prefers_stronger {h : Hub} {b x : Fin 12} (below : b < x) :
    ∃ y, h.stronger (some b) x = some y ∧ h.Prefers y b ∧ h.Prefers y x ∧ y ≤ x := by
  unfold stronger
  dsimp only
  split
  · next higher => exact ⟨x, rfl, .inl higher, .refl h x, Fin.le_refl _⟩
  · next low => exact ⟨b, rfl, .refl h b, by unfold Prefers; omega, Fin.le_of_lt below⟩

theorem prefers_strongest (h : Hub) : ∀ (xs : List (Fin 12)) (b : Fin 12), (b :: xs).Pairwise (· < ·) →
    ∃ r, xs.foldl h.stronger (some b) = some r ∧ ∀ q ∈ b :: xs, h.Prefers r q
  | [], b, _ => ⟨b, rfl, fun q m => List.mem_singleton.mp m ▸ .refl h b⟩
  | x :: xs, b, sorted => by
    obtain ⟨first, rest⟩ := List.pairwise_cons.mp sorted
    obtain ⟨above, tail⟩ := List.pairwise_cons.mp rest
    obtain ⟨y, found, overB, overX, low⟩ := prefers_stronger (h := h) (first x List.mem_cons_self)
    obtain ⟨r, ends, prefers⟩ := prefers_strongest h xs y
      (List.pairwise_cons.mpr ⟨fun z m => Fin.lt_of_le_of_lt low (above z m), tail⟩)
    have overY := prefers y List.mem_cons_self
    refine ⟨r, by rw [List.foldl_cons, found, ends], fun q m => ?_⟩
    rcases List.mem_cons.mp m with own | later
    · exact own ▸ overY.trans overB
    · rcases List.mem_cons.mp later with own | last
      · exact own ▸ overY.trans overX
      · exact prefers q (List.mem_cons_of_mem y last)

theorem mem_candidates {g : Fin 4} {h : Hub} {r : Fin 12} :
    r ∈ (h.members g).filter h.eligible ↔ h.namesRelay g r = true ∧ h.eligible r = true := by
  rw [List.mem_filter, mem_members]

/-- The candidates stand in the order of their channels. -/
theorem candidates_sorted (g : Fin 4) (h : Hub) : ((h.members g).filter h.eligible).Pairwise (· < ·) :=
  ((List.pairwise_lt_finRange 12).filter _).filter _

theorem choose_none {g : Fin 4} {h : Hub} (nobody : h.choose g = none) {q : Fin 12} (member : h.namesRelay g q = true) :
    h.eligible q = false := by
  have sorted := candidates_sorted g h
  unfold choose at nobody
  cases e : (h.members g).filter h.eligible with
  | nil =>
    have out : q ∉ (h.members g).filter h.eligible := by rw [e]; exact List.not_mem_nil
    rw [mem_candidates, not_and, Bool.not_eq_true] at out
    exact out member
  | cons b xs =>
    rw [e] at nobody sorted
    obtain ⟨r, found, _⟩ := prefers_strongest h xs b sorted
    rw [List.foldl_cons] at nobody
    exact absurd (nobody.symm.trans found) (by simp)

theorem choose_prefers {g : Fin 4} {h : Hub} {r q : Fin 12} (chosen : h.choose g = some r)
    (member : h.namesRelay g q = true) (may : h.eligible q = true) : h.Prefers r q := by
  have sorted := candidates_sorted g h
  have there := mem_candidates.mpr ⟨member, may⟩
  unfold choose at chosen
  cases e : (h.members g).filter h.eligible with
  | nil => rw [e] at there; exact absurd there List.not_mem_nil
  | cons b xs =>
    rw [e] at chosen sorted there
    obtain ⟨best, found, best_⟩ := prefers_strongest h xs b sorted
    rw [List.foldl_cons] at chosen
    obtain rfl : r = best := Option.some.inj (chosen.symm.trans found)
    exact best_ q there

/-! ## Closing -/

/-- A member may be switched ON: no other is, the dead time is over and so is its MIN_OFF run (R96, R103). -/
def FreeToClose (g : Fin 4) (r : Fin 12) (h : Hub) : Prop :=
  h.deadTimer g = .expired ∧ h.minOffRunning r = false ∧
    ∀ q, h.namesRelay g q = true → q ≠ r → (h.relay q).output = false

theorem mayClose_iff {g : Fin 4} {r : Fin 12} {h : Hub} : h.mayClose g r = true ↔ h.FreeToClose g r := by
  have others : ((h.members g).any fun q => q != r && (h.relay q).output) = false ↔
      ∀ q, h.namesRelay g q = true → q ≠ r → (h.relay q).output = false := by
    simp only [List.any_eq_false, mem_members, Bool.and_eq_true, bne_iff_ne, not_and, Bool.not_eq_true]
  unfold mayClose FreeToClose
  simp only [Bool.and_eq_true, Bool.not_eq_true', beq_iff_eq, others]
  exact ⟨fun ⟨⟨a, b⟩, c⟩ => ⟨b, c, a⟩, fun ⟨a, b, c⟩ => ⟨⟨c, a⟩, b⟩⟩

theorem closeChosen_first {g : Fin 4} {r : Fin 12} {h : Hub} (member : h.namesRelay g r = true)
    (waits : (h.relay r).state = .waitDead)
    (first : ∀ q, q < r → h.namesRelay g q = true → (h.relay q).state ≠ .waitDead) :
    (h.members g).find? (fun q => (h.relay q).state == .waitDead) = some r := by
  cases e : (h.members g).find? fun q => (h.relay q).state == .waitDead with
  | none => exact absurd (beq_iff_eq.mpr waits) (List.find?_eq_none.mp e r (mem_members.mpr member))
  | some q =>
    obtain ⟨own, before, after, split, earlier⟩ := List.find?_eq_some_iff_append.mp e
    have sorted : (h.members g).Pairwise (· < ·) := (List.pairwise_lt_finRange 12).filter _
    have named := mem_members.mp (List.mem_of_find?_eq_some e)
    have there : r ∈ before ++ q :: after := split ▸ mem_members.mpr member
    rw [split] at sorted
    rcases List.mem_append.mp there with early | late
    · exact absurd (earlier r early) (by simp [waits])
    · rcases List.mem_cons.mp late with same | later
      · rw [same]
      · have below : q < r := (List.pairwise_cons.mp (List.pairwise_append.mp sorted).2.1).1 r later
        exact absurd (beq_iff_eq.mp own) (first q below named)

theorem closeChosen_cases (g : Fin 4) (h : Hub) :
    h.closeChosen g = h ∨ ∃ r, h.closeChosen g = h.switchOn r ∧ h.namesRelay g r = true ∧
      (h.relay r).state = .waitDead ∧ h.FreeToClose g r := by
  unfold closeChosen
  split
  · next r found =>
    split
    · next may =>
      have waits := List.find?_some (p := fun q => (h.relay q).state == .waitDead) found
      exact .inr ⟨r, rfl, mem_members.mp (List.mem_of_find?_eq_some found), beq_iff_eq.mp waits, mayClose_iff.mp may⟩
    · exact .inl rfl
  · exact .inl rfl

theorem relay_switchOn (r q : Fin 12) (h : Hub) :
    (h.switchOn r).relay q =
      if r = q then ⟨.on, none, true, minOnRun (Config.tenths h.work.relays[r].minOn)⟩ else h.relay q :=
  relay_modRelay ..

/-! ## Settling a member -/

/-- The first step opens a member that has left: its MIN_ON run is over (R100). -/
def LeavesNow (r : Fin 12) (h : Hub) : Prop :=
  h.minOnRunning r = false ∧
    ((h.relay r).state = .on ∧ h.asksOn r = false ∨
      (h.relay r).state = .waitMinOn ∧ ¬ ((h.relay r).leave = some .command ∧ h.asksOn r = true))

/-- What the first step makes of a member it does not open. -/
def settledRelay (asks : Bool) (x : Relay) : Relay :=
  match x.state, asks with
  | .waitMinOn, true => if x.leave = some .command then { x with state := .on, leave := none } else x
  | .waitMinOn, false => x
  | .on, true => x
  | .on, false => { x with state := .waitMinOn, leave := some .command }
  | .off, _ => x
  | .waitDead, true => x
  | .heldOff, true => x
  | .waitMinOff, true => x
  | .waitDead, false => { x with state := .off, leave := none }
  | .heldOff, false => { x with state := .off, leave := none }
  | .waitMinOff, false => { x with state := .off, leave := none }

theorem settleMember_leaves {r : Fin 12} {h : Hub} (leaves : LeavesNow r h) :
    h.settleMember r = h.switchOff r (if h.asksOn r then .heldOff else .off) := by
  obtain ⟨over_, ⟨on, no⟩ | ⟨waits, stays⟩⟩ := leaves
  · simp [settleMember, on, no, over_]
  · unfold settleMember
    rw [waits]
    dsimp only
    rw [if_neg (by simpa using stays), if_neg (by simp [over_])]

theorem modRelay_congr {r : Fin 12} {f g : Relay → Relay} {h : Hub} (e : f (h.relay r) = g (h.relay r)) :
    h.modRelay r f = h.modRelay r g := by
  unfold modRelay
  rw [e]

theorem settleMember_stays {r : Fin 12} {h : Hub} (stays : ¬ LeavesNow r h) :
    h.settleMember r = h.modRelay r (settledRelay (h.asksOn r)) := by
  have same (e : settledRelay (h.asksOn r) (h.relay r) = h.relay r) : h = h.modRelay r (settledRelay (h.asksOn r)) :=
    (modRelay_self r h).trans (modRelay_congr e.symm)
  have moved {x : RelayState} {why : Option LeaveReason}
      (e : settledRelay (h.asksOn r) (h.relay r) = { h.relay r with state := x, leave := why }) :
      h.setRelayState r x why = h.modRelay r (settledRelay (h.asksOn r)) := modRelay_congr e.symm
  have waiting (state : (h.relay r).state = .waitDead ∨ (h.relay r).state = .heldOff ∨ (h.relay r).state = .waitMinOff) :
      (if h.asksOn r then h else h.setRelayState r .off none) = h.modRelay r (settledRelay (h.asksOn r)) := by
    cases asks : h.asksOn r with
    | true => rw [asks] at same; exact same (by rcases state with e | e | e <;> simp [settledRelay, e])
    | false => rw [asks] at moved; exact moved (by rcases state with e | e | e <;> simp [settledRelay, e])
  unfold settleMember
  unfold LeavesNow at stays
  cases state : (h.relay r).state with
  | off => exact same (by simp [settledRelay, state])
  | waitDead => exact waiting (.inl state)
  | heldOff => exact waiting (.inr (.inl state))
  | waitMinOff => exact waiting (.inr (.inr state))
  | on =>
    cases asks : h.asksOn r with
    | true => rw [asks] at same; exact same (by simp [settledRelay, state])
    | false =>
      have runs : h.minOnRunning r = true := by simpa [state, asks] using stays
      rw [asks] at moved
      dsimp only
      rw [if_neg Bool.false_ne_true, if_pos runs]
      exact moved (x := .waitMinOn) (why := some .command) (by simp [settledRelay, state])
  | waitMinOn =>
    dsimp only
    split
    · next back =>
      obtain ⟨command, asks⟩ : (h.relay r).leave = some .command ∧ h.asksOn r = true := by simpa using back
      exact moved (by simp [settledRelay, state, command, asks])
    · next out =>
      have gone : ¬ ((h.relay r).leave = some .command ∧ h.asksOn r = true) := by simpa using out
      have runs : h.minOnRunning r = true := by
        refine Classical.byContradiction fun ended => ?_
        exact stays ⟨Bool.eq_false_iff.mpr ended, .inr ⟨state, gone⟩⟩
      rw [if_pos runs]
      refine same ?_
      unfold settledRelay
      rw [state]
      cases asks : h.asksOn r with
      | false => rfl
      | true => exact if_neg fun command => gone ⟨command, asks⟩

/-! ## Choosing and holding -/

/-- A member that the fourth step makes HELD_OFF: it asks for ON, is not ON nor leaving, and another keeps the place. -/
theorem relay_chooseAndHold (g : Fin 4) (incumbent : Option (Fin 12)) (h : Hub) (r : Fin 12) :
    (h.chooseAndHold g incumbent).relay r =
      if incumbent = none ∧ h.choose g = some r then { h.relay r with state := .waitDead, leave := none }
      else if h.namesRelay g r = true ∧ h.eligible r = true ∧ incumbent ≠ some r then
        { h.relay r with state := .heldOff, leave := none }
      else h.relay r := by
  have held (keeps : Option (Fin 12)) (m : Hub) (named : m.members g = h.members g) :
      (((h.members g).filter fun q => m.eligible q && keeps != some q).foldl
        (fun x q => x.setRelayState q .heldOff none) m).relay r =
      if h.namesRelay g r = true ∧ m.eligible r = true ∧ keeps ≠ some r then
        { m.relay r with state := .heldOff, leave := none }
      else m.relay r := by
    rw [relay_holdAll]
    congr 1
    rw [eq_iff_iff, List.mem_filter, mem_members, Bool.and_eq_true, bne_iff_ne]
  unfold chooseAndHold
  cases incumbent with
  | some i => simpa using held (some i) h rfl
  | none =>
    cases found : h.choose g with
    | none => simpa using held none h rfl
    | some best =>
      have chosen := held (some best) (h.setRelayState best .waitDead none) rfl
      refine chosen.trans ?_
      rw [relay_setRelayState]
      by_cases own : best = r
      · simp [own]
      · have same : (h.setRelayState best .waitDead none).eligible r = h.eligible r := by
          unfold eligible
          rw [relay_setRelayState, if_neg own]
          rfl
        simp [own, same]

theorem chooseAndHold_relays (g : Fin 4) (incumbent : Option (Fin 12)) (h : Hub) :
    h.chooseAndHold g incumbent = { h with relays := (h.chooseAndHold g incumbent).relays } := by
  have held (xs : List (Fin 12)) (m : Hub) : (xs.foldl (fun x r => x.setRelayState r .heldOff none) m).dead = m.dead :=
    List.foldlRecOn (motive := fun t : Hub => t.dead = m.dead) xs _ rfl fun t same r _ => same
  have dead : (h.chooseAndHold g incumbent).dead = h.dead := by
    unfold chooseAndHold
    dsimp only
    rw [held]
    split <;> rfl
  conv => lhs; rw [relayOnly_chooseAndHold g incumbent h, dead]

/-! ## The pass -/

theorem switched_iff (before after : Hub) :
    switched before after = true ↔ ∃ r, (after.relay r).output ≠ (before.relay r).output := by
  unfold switched relay
  rw [bne_iff_ne]
  constructor
  · refine fun differ => Classical.byContradiction fun none => differ ?_
    ext n low
    have same : (after.relays[n]).output = (before.relays[n]).output :=
      Decidable.not_not.mp fun apart => none ⟨⟨n, low⟩, apart⟩
    simpa using same.symm
  · rintro ⟨r, apart⟩ same
    have at_r : (before.relays.map (·.output))[r] = (after.relays.map (·.output))[r] := by rw [same]
    simp only [Fin.getElem_fin, Vector.getElem_map] at at_r
    exact apart at_r.symm

/-! ## Preemption -/

/-- A member forces the incumbent out: it asks for ON, is not leaving, and its source is above the incumbent's (R101). -/
def Outranks (g : Fin 4) (i : Fin 12) (h : Hub) (q : Fin 12) : Prop :=
  h.namesRelay g q = true ∧ h.asksOn q = true ∧ q ≠ i ∧ (h.relay q).state ≠ .waitMinOn ∧
    h.sourceLevel i < h.sourceLevel q

theorem outranked_iff {g : Fin 4} {i : Fin 12} {h : Hub} : h.outranked g i = true ↔ ∃ q, h.Outranks g i q := by
  simp only [outranked, Outranks, List.any_eq_true, mem_members, Bool.and_eq_true, bne_iff_ne, decide_eq_true_eq]
  exact exists_congr fun q => ⟨fun ⟨a, ⟨⟨b, c⟩, d⟩, e⟩ => ⟨a, b, c, d, e⟩, fun ⟨a, b, c, d, e⟩ => ⟨a, ⟨⟨b, c⟩, d⟩, e⟩⟩

theorem preemption_forces {g : Fin 4} {i : Fin 12} {h : Hub} (stands : h.incumbent g = some i)
    (enabled : h.work.groups[g].preempt = true) (above : ∃ q, h.Outranks g i q) : h.preemption g = (h.forceOut i, none) := by
  unfold preemption
  rw [stands]
  simp only [enabled, outranked_iff.mpr above, Bool.and_self, if_true]

theorem preemption_spares {g : Fin 4} {h : Hub}
    (spares : ∀ i, h.incumbent g = some i → h.work.groups[g].preempt = false ∨ ∀ q, ¬ h.Outranks g i q) :
    h.preemption g = (h, h.incumbent g) := by
  unfold preemption
  cases stands : h.incumbent g with
  | none => rfl
  | some i =>
    have still : (h.work.groups[g].preempt && h.outranked g i) = false := by
      rcases spares i stands with off | first
      · rw [off, Bool.false_and]
      · rw [Bool.eq_false_iff.mpr fun above => (outranked_iff.mp above).elim first, Bool.and_false]
    dsimp only
    rw [still]
    rfl

theorem forceOut_others {i q : Fin 12} (other : q ≠ i) (h : Hub) : (h.forceOut i).relay q = h.relay q := by
  unfold forceOut
  split
  · split
    · rw [relay_setRelayState, if_neg (Ne.symm other)]
    · rw [relay_switchOff, if_neg (Ne.symm other)]
  · rw [relay_setRelayState, if_neg (Ne.symm other)]

theorem forceOut_waits {i : Fin 12} {h : Hub} (on : (h.relay i).state = .on) (runs : h.minOnRunning i = true) :
    h.forceOut i = h.setRelayState i .waitMinOn (some .preempted) := by
  simp [forceOut, on, runs]

theorem forceOut_opens {i : Fin 12} {h : Hub} (on : (h.relay i).state = .on) (ended : h.minOnRunning i = false) :
    h.forceOut i = h.switchOff i .heldOff := by
  simp [forceOut, on, ended]

theorem forceOut_withdraws {i : Fin 12} {h : Hub} (waits : (h.relay i).state = .waitDead) :
    h.forceOut i = h.setRelayState i .heldOff none := by
  simp [forceOut, waits]

/-! ## What a run of the contest tells -/

/-- A member that is HELD_OFF and was not before the event, or was for another port (R105). -/
def HeldAnew (before t : Hub) (r : Fin 12) : Prop :=
  (t.relay r).state = .heldOff ∧ ((before.relay r).state ≠ .heldOff ∨ t.sourcePort r ≠ before.sourcePort r)

theorem interlockNotice_anew {before h : Hub} {r : Fin 12} {p : Port} (anew : HeldAnew before h r)
    (source : h.sourcePort r = some p) : interlockNotice before h r = h.giveFlagOn p .interlock (relayChannel r) := by
  unfold interlockNotice
  obtain ⟨held, changed⟩ := anew
  rw [if_pos (by simpa [held, source] using changed), source]

theorem interlockNotice_old {before h : Hub} {r : Fin 12} (old : ¬ ∃ p, HeldAnew before h r ∧ h.sourcePort r = some p) :
    interlockNotice before h r = h := by
  unfold interlockNotice
  split
  · next anew =>
    cases source : h.sourcePort r with
    | none => rfl
    | some p =>
      refine absurd ⟨p, ⟨?_, ?_⟩, source⟩ old <;> simp only [Bool.and_eq_true, Bool.or_eq_true, beq_iff_eq, bne_iff_ne] at anew
      · exact anew.1
      · exact anew.2
  · rfl

/-- A notice gives flags alone. -/
structure NoticeOnly (h t : Hub) : Prop where
  rest : t = { h with ports := t.ports }
  told : Tells [.interlock] h t
  flags : ∀ p f, h.hasFlag p f = true → t.hasFlag p f = true
  change : ∀ p c, h.hasChange p c = true → t.hasChange p c = true

theorem NoticeOnly.refl (h : Hub) : NoticeOnly h h := ⟨rfl, .refl h, fun _ _ => id, fun _ _ => id⟩

theorem NoticeOnly.trans {h t v : Hub} (a : NoticeOnly h t) (b : NoticeOnly t v) : NoticeOnly h v where
  rest := by rw [b.rest, a.rest]
  told := a.told.trans b.told
  flags p f given := b.flags p f (a.flags p f given)
  change p c given := b.change p c (a.change p c given)

theorem noticeOnly_interlockNotice (before h : Hub) (r : Fin 12) : NoticeOnly h (interlockNotice before h r) := by
  have reach : Reach (fun _ => true) h (interlockNotice before h r) :=
    (drive_interlockNotice before (reachesRelay_own rfl)).toReach
  refine ⟨?_, tells_interlockNotice before h r, fun p f => reach.flagsGain p f.bit, fun p c => reach.changeGains p c⟩
  unfold interlockNotice giveFlagOn
  split
  · split
    · split <;> rfl
    · rfl
  · rfl

theorem noticeOnly_notices (before : Hub) : ∀ (xs : List (Fin 12)) (h : Hub),
    NoticeOnly h (xs.foldl (interlockNotice before) h)
  | [], h => .refl h
  | r :: xs, h => (noticeOnly_interlockNotice before h r).trans (noticeOnly_notices before xs _)

theorem NoticeOnly.heldAnew {h t : Hub} (a : NoticeOnly h t) (before : Hub) (r : Fin 12) :
    HeldAnew before t r ↔ HeldAnew before h r := by
  rw [a.rest]; rfl

theorem NoticeOnly.sourcePort {h t : Hub} (a : NoticeOnly h t) (r : Fin 12) : t.sourcePort r = h.sourcePort r := by
  rw [a.rest]; rfl

theorem notices_given {before : Hub} {r : Fin 12} {p : Port} {xs : List (Fin 12)} {h : Hub} (mem : r ∈ xs)
    (anew : HeldAnew before h r) (source : h.sourcePort r = some p) (live : h.attached p = true) :
    (xs.foldl (interlockNotice before) h).hasFlag p .interlock = true ∧
      (xs.foldl (interlockNotice before) h).hasChange p (relayChannel r) = true := by
  induction xs generalizing h with
  | nil => exact absurd mem List.not_mem_nil
  | cons q xs ih =>
    have head := noticeOnly_interlockNotice before h q
    rw [List.foldl_cons]
    rcases List.mem_cons.mp mem with own | later
    · subst own
      have rest := noticeOnly_notices before xs (interlockNotice before h r)
      refine ⟨rest.flags _ _ ?_, rest.change _ _ ?_⟩ <;> rw [interlockNotice_anew anew source]
      · rw [hasFlag_giveFlagOn]; simp [live]
      · exact hasChange_giveFlagOn live
    · exact ih later ((head.heldAnew before r).mpr anew) ((head.sourcePort r).trans source)
        ((head.told.attached p).trans live)

theorem notices_from {before : Hub} {p : Port} {xs : List (Fin 12)} {h : Hub}
    (given : (xs.foldl (interlockNotice before) h).hasFlag p .interlock = true) :
    h.hasFlag p .interlock = true ∨ ∃ r ∈ xs, HeldAnew before h r ∧ h.sourcePort r = some p ∧ h.attached p = true := by
  induction xs generalizing h with
  | nil => exact .inl given
  | cons q xs ih =>
    have head := noticeOnly_interlockNotice before h q
    rcases ih given with there | ⟨r, mem, anew, source, live⟩
    · by_cases new : ∃ d, HeldAnew before h q ∧ h.sourcePort q = some d
      · obtain ⟨d, anew, source⟩ := new
        rw [interlockNotice_anew anew source, hasFlag_giveFlagOn, Bool.or_eq_true, Bool.and_eq_true] at there
        refine there.imp id fun ⟨own, live⟩ => ?_
        obtain rfl : d = p := (of_decide_eq_true own).1
        exact ⟨q, List.mem_cons_self, anew, source, live⟩
      · rw [interlockNotice_old new] at there
        exact .inl there
    · exact .inr ⟨r, List.mem_cons_of_mem q mem, (head.heldAnew before r).mp anew,
        (head.sourcePort r).symm.trans source, (head.told.attached p).symm.trans live⟩

theorem relayTakes_grouped {r : Fin 12} {g : Fin 4} {h : Hub} (change : Bool) (before : Hub)
    (running : h.relayCond = .running) (mine : h.groupOf r = some g) : relayTakes r change h before = h.contest g before := by
  unfold relayTakes
  rw [running, mine]

/-- A run of the contest: the passes, then the notices of its members. -/
theorem contest_eq (g : Fin 4) (h before : Hub) :
    contest g h before = (h.members g).foldl (interlockNotice before) (h.contestPasses g 32) := rfl

theorem contest_relays (g : Fin 4) (h before : Hub) : (contest g h before).relays = (h.contestPasses g 32).relays := by
  rw [contest_eq, (noticeOnly_notices before _ _).rest]

theorem contestPasses_attached (g : Fin 4) (fuel : Nat) (h : Hub) (p : Port) :
    (h.contestPasses g fuel).attached p = h.attached p :=
  (Tells.of_ports (F := []) (relayOnly_contestPasses g fuel h).ports).attached p

/-- What the notices of a run find is what it leaves, for the sources there were. -/
theorem heldAnew_passes (g : Fin 4) (h before : Hub) (r : Fin 12) :
    HeldAnew before (h.contestPasses g 32) r ↔ ((contest g h before).relay r).state = .heldOff ∧
      ((before.relay r).state ≠ .heldOff ∨ h.sourcePort r ≠ before.sourcePort r) := by
  rw [HeldAnew, (relayOnly_contestPasses g 32 h).sourcePort, Hub.relay, ← contest_relays g h before]
  rfl

theorem contest_given {g : Fin 4} {h before : Hub} {p : Port} {r : Fin 12} (member : h.namesRelay g r = true)
    (anew : ((contest g h before).relay r).state = .heldOff ∧
      ((before.relay r).state ≠ .heldOff ∨ h.sourcePort r ≠ before.sourcePort r))
    (source : h.sourcePort r = some p) (live : h.attached p = true) :
    (contest g h before).hasFlag p .interlock = true ∧ (contest g h before).hasChange p (relayChannel r) = true := by
  rw [contest_eq]
  exact notices_given (mem_members.mpr member) ((heldAnew_passes g h before r).mpr anew)
    (((relayOnly_contestPasses g 32 h).sourcePort r).trans source) ((contestPasses_attached g 32 h p).trans live)

theorem contest_from {g : Fin 4} {h before : Hub} {p : Port} (given : (contest g h before).hasFlag p .interlock = true)
    (absent : h.hasFlag p .interlock = false) :
    ∃ r, h.namesRelay g r = true ∧
      (((contest g h before).relay r).state = .heldOff ∧
        ((before.relay r).state ≠ .heldOff ∨ h.sourcePort r ≠ before.sourcePort r)) ∧
      h.sourcePort r = some p ∧ h.attached p = true := by
  have ran := relayOnly_contestPasses g 32 h
  have quiet : (h.contestPasses g 32).hasFlag p .interlock = false := by
    rw [hasFlag, Hub.port, ran.ports]; exact absent
  rw [contest_eq] at given
  obtain ⟨r, mem, anew, source, live⟩ := (notices_from given).resolve_left (by simp [quiet])
  exact ⟨r, mem_members.mp mem, (heldAnew_passes g h before r).mp anew, (ran.sourcePort r).symm.trans source,
    (contestPasses_attached g 32 h p).symm.trans live⟩

theorem contestPass_eq (g : Fin 4) (h : Hub) :
    let settled := (h.members g).foldl settleMember h
    let held := (settled.preemption g).1.chooseAndHold g (settled.preemption g).2
    h.contestPass g = (held.closeChosen g,
      switched h settled || switched settled (settled.preemption g).1 || switched held (held.closeChosen g)) := rfl

end Hub

open Hub

theorem contest_choice (g : Fin 4) (h : Hub) :
    (∀ r, h.choose g = some r →
      h.namesRelay g r = true ∧ h.eligible r = true ∧
        ∀ q, h.namesRelay g q = true → h.eligible q = true →
          h.sourceLevel q < h.sourceLevel r ∨ (h.sourceLevel q = h.sourceLevel r ∧ r ≤ q)) ∧
    (h.choose g = none → ∀ q, h.namesRelay g q = true → h.eligible q = false) :=
  ⟨fun _ chosen => ⟨mem_members.mp (choose_mem chosen).1, (choose_mem chosen).2, fun _ => choose_prefers chosen⟩,
    fun nobody _ => choose_none nobody⟩

namespace Hub

theorem closeChosen_closes {g : Fin 4} {r : Fin 12} {h : Hub} (open_ : (h.relay r).output = false)
    (closed : ((h.closeChosen g).relay r).output = true) :
    h.namesRelay g r = true ∧ (h.relay r).state = .waitDead ∧ h.FreeToClose g r := by
  rcases closeChosen_cases g h with still | ⟨q, moved, member, waits, free⟩
  · rw [still, open_] at closed
    exact absurd closed Bool.false_ne_true
  · rw [moved, relay_switchOn] at closed
    by_cases own : q = r
    · exact own ▸ ⟨member, waits, free⟩
    · rw [if_neg own, open_] at closed
      exact absurd closed Bool.false_ne_true

theorem closeChosen_free {g : Fin 4} {r : Fin 12} {h : Hub} (member : h.namesRelay g r = true)
    (waits : (h.relay r).state = .waitDead)
    (first : ∀ q, q < r → h.namesRelay g q = true → (h.relay q).state ≠ .waitDead) (free : h.FreeToClose g r) :
    h.closeChosen g = h.switchOn r := by
  unfold closeChosen
  rw [closeChosen_first member waits first]
  exact if_pos (mayClose_iff.mpr free)

theorem closeChosen_bound {g : Fin 4} {r : Fin 12} {h : Hub} (member : h.namesRelay g r = true)
    (waits : (h.relay r).state = .waitDead)
    (first : ∀ q, q < r → h.namesRelay g q = true → (h.relay q).state ≠ .waitDead) (bound : ¬ h.FreeToClose g r) :
    h.closeChosen g = h := by
  unfold closeChosen
  rw [closeChosen_first member waits first]
  exact if_neg (mt mayClose_iff.mp bound)

theorem settleMember_deadTimer {r : Fin 12} {g : Fin 4} {h : Hub} (mine : h.groupOf r = some g) (leaves : LeavesNow r h)
    (k : Fin 4) : (h.settleMember r).deadTimer k =
      if g = k then deadRun (Config.hundredths h.work.groups[g].deadTime) (h.deadRunning g) else h.deadTimer k := by
  rw [settleMember_leaves leaves, deadTimer_switchOff _ mine]

/-- The first step, member by member (R100). -/
theorem settleMember_mine {g : Fin 4} {r : Fin 12} {h : Hub} (mine : h.groupOf r = some g) :
    h.settleMember r = { h with relays := (h.settleMember r).relays, dead := (h.settleMember r).dead } ∧
      (∀ q, q ≠ r → (h.settleMember r).relay q = h.relay q) ∧
      (LeavesNow r h → (h.settleMember r).relay r =
        ⟨if h.asksOn r then .heldOff else .off, none, false, minOffRun (Config.ms (100 * h.work.relays[r].minOff))⟩) ∧
      (¬ LeavesNow r h → (h.settleMember r).relay r = settledRelay (h.asksOn r) (h.relay r)) ∧
      (LeavesNow r h → (h.settleMember r).deadTimer g =
        deadRun (Config.ms (10 * h.work.groups[g].deadTime)) (h.deadRunning g)) ∧
      ∀ k, k ≠ g ∨ ¬ LeavesNow r h → (h.settleMember r).deadTimer k = h.deadTimer k := by
  refine ⟨relayOnly_settleMember h r, fun q other => settleMember_others (Ne.symm other) h, fun leaves => ?_,
    fun stays => ?_, fun leaves => ?_, fun k apart => ?_⟩
  · rw [settleMember_leaves leaves, relay_switchOff, if_pos rfl]; rfl
  · rw [settleMember_stays stays, relay_modRelay, if_pos rfl]
  · rw [settleMember_deadTimer mine leaves, if_pos rfl]; rfl
  · by_cases leaves : LeavesNow r h
    · rw [settleMember_deadTimer mine leaves, if_neg (Ne.symm (apart.resolve_right fun stays => stays leaves))]
    · rw [settleMember_stays leaves, modRelay_deadTimer]

/-- The second step forces an outranked incumbent out (R101). -/
theorem preempted {g : Fin 4} {i : Fin 12} {h : Hub} (stands : h.incumbent g = some i)
    (enabled : h.work.groups[g].preempt = true) (above : ∃ q, h.Outranks g i q) :
    (h.preemption g).2 = none ∧ (∀ q, q ≠ i → (h.preemption g).1.relay q = h.relay q) ∧
      ((h.relay i).state = .on → h.minOnRunning i = true →
        (h.preemption g).1.relay i = { h.relay i with state := .waitMinOn, leave := some .preempted }) ∧
      ((h.relay i).state = .on → h.minOnRunning i = false →
        (h.preemption g).1.relay i =
          ⟨.heldOff, none, false, minOffRun (Config.ms (100 * h.work.relays[i].minOff))⟩ ∧
        (h.groupOf i = some g → (h.preemption g).1.deadTimer g =
          deadRun (Config.ms (10 * h.work.groups[g].deadTime)) (h.deadRunning g))) ∧
      ((h.relay i).state = .waitDead →
        (h.preemption g).1.relay i = { h.relay i with state := .heldOff, leave := none }) := by
  rw [preemption_forces stands enabled above]
  refine ⟨rfl, fun q other => forceOut_others other h, fun on runs => ?_, fun on ended => ⟨?_, fun mine => ?_⟩,
    fun waits => ?_⟩
  · rw [forceOut_waits on runs, relay_setRelayState, if_pos rfl]
  · rw [forceOut_opens on ended, relay_switchOff, if_pos rfl]; rfl
  · rw [forceOut_opens on ended, deadTimer_switchOff _ mine, if_pos rfl]; rfl
  · rw [forceOut_withdraws waits, relay_setRelayState, if_pos rfl]

theorem contestPass_switches (g : Fin 4) (h : Hub) :
    let settled := (h.members g).foldl settleMember h
    let held := (settled.preemption g).1.chooseAndHold g (settled.preemption g).2
    (h.contestPass g).2 = true ↔ ∃ r, (settled.relay r).output ≠ (h.relay r).output ∨
      ((settled.preemption g).1.relay r).output ≠ (settled.relay r).output ∨
      ((held.closeChosen g).relay r).output ≠ (held.relay r).output := by
  simp only [contestPass_eq, Bool.or_eq_true, switched_iff, ← exists_or, or_assoc]

end Hub

theorem eligible_iff {h : Hub} {r : Fin 12} :
    h.eligible r = true ↔ h.asksOn r = true ∧ (h.relay r).state ≠ .on ∧ (h.relay r).state ≠ .waitMinOn := by
  simp [eligible, and_assoc]

/-- Settles O28: each step of a pass by what it does to a member; the notices by what the run leaves HELD_OFF. -/
theorem contestChoosesTheStrongestAndClosesOnlyWhenFree :
    Obligations.ContestChoosesTheStrongestAndClosesOnlyWhenFree := by
  unfold Obligations.ContestChoosesTheStrongestAndClosesOnlyWhenFree
  refine ⟨fun g h => ⟨(contest_choice g h).1, (contest_choice g h).2, fun r => closeChosen_closes, closeChosen_none,
      fun r member waits first => ⟨closeChosen_free member waits first, closeChosen_bound member waits first⟩⟩,
    fun g r h mine => settleMember_mine mine, fun g incumbent h => ⟨chooseAndHold_relays g incumbent h, fun r => ?_⟩,
    fun g h => ⟨rfl, ?_, fun more => contestPasses_succ g more h⟩,
    fun g h => ⟨fun i => preempted, preemption_spares⟩,
    fun r g change h before running mine => relayTakes_grouped change before running mine,
    fun g h before => ⟨contest_relays g h before, fun p r ⟨member, held, changed⟩ source live => ?_,
      fun p given absent => ?_⟩⟩
  · rw [relay_chooseAndHold]
    simp only [eligible_iff, and_assoc]
  · exact contestPass_switches g h
  · exact contest_given member ⟨held, changed⟩ source live
  · obtain ⟨r, member, ⟨held, changed⟩, source, live⟩ := contest_from given absent
    exact ⟨r, ⟨member, held, changed⟩, source, live⟩

end Sys2Proof.Machine
end

section
/-! REFERENCE and the start of a referencing run (R117 to R122). -/

namespace Sys2Proof.Machine
namespace Hub

/-- A stepper with its run begun: the count is the travel limit and the overtravel (R118). -/
def Stepper.begun (i : StepperItem) (x : Stepper) : Stepper :=
  { x with ref := .referencing, runCount := i.travel + i.overtravel, refReq := false }

/-- The next step of a run starts, or waits for STEP_INHIBIT (R120). -/
def Stepper.runStep (inhibit : Bool) (i : StepperItem) (x : Stepper) : Stepper :=
  if inhibit then { x with engine := .paused, lastDir := none }
  else { x with engine := .referencing (Config.stepTime i.refRate), dirUp := false }

theorem stepper_startRunStep (u : Fin 2) (h : Hub) :
    (h.startRunStep u).stepper u = Stepper.runStep h.stepInhibit (h.stepperItem u) (h.stepper u) := by
  unfold startRunStep Stepper.runStep
  split
  · rw [pauseStepper, stepper_modStepper_same]
  · rw [stepper_modStepper_same]

theorem stepper_startRun_up {u : Fin 2} {h : Hub} (up : (h.stepper u).lastDir = some .up) :
    (h.startRun u).stepper u =
      { Stepper.begun (h.stepperItem u) (h.stepper u) with engine := .reversing Config.reversalPause } := by
  unfold startRun
  dsimp only
  rw [if_pos up, stepper_modStepper_same, stepper_modStepper_same]
  rfl

theorem stepper_startRun_step {u : Fin 2} {h : Hub} (still : (h.stepper u).lastDir ≠ some .up) :
    (h.startRun u).stepper u =
      Stepper.runStep h.stepInhibit (h.stepperItem u) (Stepper.begun (h.stepperItem u) (h.stepper u)) := by
  unfold startRun
  dsimp only
  rw [if_neg still, stepper_startRunStep, stepper_modStepper_same]
  rfl

theorem drive_takeReference {C : Fin 23 → Bool} {u : Fin 2} (i : C (stepperChannel u) = true) (h : Hub) :
    Drive C h (h.takeReference u) := by
  unfold takeReference
  split
  · exact drive_startRun i h
  · exact drive_modStepper i _ h
  · exact drive_modStepper i _ h
  · exact drive_modStepper i _ h
  · exact .refl C h

theorem takeReference_idle {u : Fin 2} {h : Hub} (idle : (h.stepper u).engine = .idle) : h.takeReference u = h.startRun u := by
  unfold takeReference
  rw [idle]

theorem takeReference_waits {u : Fin 2} {h : Hub}
    (busy : (∃ d k, (h.stepper u).engine = .moving d k) ∨ (∃ k, (h.stepper u).engine = .reversing k) ∨
      (h.stepper u).engine = .paused) :
    (h.takeReference u).stepper u = { h.stepper u with refReq := true } := by
  unfold takeReference
  rcases busy with ⟨d, k, e⟩ | ⟨k, e⟩ | e <;> rw [e] <;> exact stepper_modStepper_same ..

end Hub

theorem stepperOf_none : ∀ ch : Byte, stepperOf ch = none ↔ ¬ ch = 21 ∧ ¬ ch = 22 := by decide

theorem Hub.notWinner_iff {h : Hub} {p : Port} {u : Fin 2} :
    h.notWinner p u = true ↔ ∃ w, h.winnerPort (stepperChannel u) = some w ∧ w ≠ p := by
  unfold notWinner
  cases h.winnerPort (stepperChannel u) <;> simp

/-- The checks of REFERENCE after the standing ones. -/
def Hub.referenceChecks (p : Port) (ch : Byte) (h : Hub) : List (Bool × Result) :=
  [((stepperOf ch).isNone, .badChannel), (h.mode == .faultHold, .wrongMode), (h.onHold, .held),
    ((stepperOf ch).any (h.notWinner p), .notWinner), ((stepperOf ch).any h.runKnown, .already)]

theorem exec_reference (p : Port) (ch : Byte) (s : State) :
    exec (.reference p ch) s =
      onRequest p (fun h => h.refuseFirst p (h.standing p ++ h.referenceChecks p ch)
        (match stepperOf ch with
         | some u => (h.takeReference u).respond p .started []
         | none => h)) s := rfl

/-- Settles O29: the refusals by the checks; a REFERENCE that passes them by what the engine does. -/
theorem referenceStartsOrWaits : Obligations.ReferenceStartsOrWaits := by
  unfold Obligations.ReferenceStartsOrWaits
  refine ⟨fun p ch s asks => ?refused, fun p ch u s asks run named mine idle free => ?taken⟩
  case refused =>
    refine refusedInOrder_asked asks (checks := Hub.referenceChecks p ch) (more := fun _ => [])
      (exec_reference p ch s) ?_
    simp [Hub.referenceChecks, stepperOf_none, Hub.onHold_iff, Hub.notWinner_iff, Hub.runKnown, Option.any_eq_true]
  case taken =>
    have winner : (Hub.restartLease p s.hub).notWinner p u = false := by
      rw [Bool.eq_false_iff, Ne, Hub.notWinner_iff]
      rintro ⟨w, won, other⟩
      rw [Hub.restartLease_winnerPort] at won
      rcases mine with none | own
      · rw [none] at won; cases won
      · exact other (Option.some.inj (won.symm.trans own))
    have new : (Hub.restartLease p s.hub).runKnown u = false := by simp [Hub.runKnown, idle, free]
    have pass : ∀ x ∈ (Hub.restartLease p s.hub).referenceChecks p ch, x.1 = false := by
      simp [Hub.referenceChecks, named, run, Hub.onHold, winner, new]
    rw [exec_taken asks (exec_reference p ch s) pass, named]
    generalize e : Hub.restartLease p s.hub = a
    have stepper : a.stepper u = s.hub.stepper u := by rw [← e]; simp
    have item : a.stepperItem u = s.hub.work.steppers[u] := by rw [← e]; simp [Hub.stepperItem]
    have inhibit : a.stepInhibit = s.hub.stepInhibit := by rw [← e]; simp
    refine ⟨a.takeReference u, rfl, (Hub.drive_takeReference (Hub.only_self _) a).toReach, fun rests => ?_, fun busy => ?_⟩
    · rw [Hub.takeReference_idle (by rw [stepper, rests])]
      by_cases up : (s.hub.stepper u).lastDir = some .up
      · rw [Hub.stepper_startRun_up (by rw [stepper, up]), stepper, item, if_pos up]
        exact ⟨rfl, rfl, rfl, rfl, rfl⟩
      · rw [Hub.stepper_startRun_step (by rw [stepper]; exact up), stepper, item, inhibit, if_neg up]
        unfold Hub.Stepper.runStep
        split <;> exact ⟨rfl, rfl, rfl, rfl, rfl⟩
    · rw [Hub.takeReference_waits (by rw [stepper]; exact busy), stepper]

end Sys2Proof.Machine
end

section
/-! The passage to HELD, and the completions of steps and pauses (R114 to R125). -/

namespace Sys2Proof.Machine
namespace Hub

section
variable {C : Fin 23 → Bool} {u v : Fin 2} {h m t : Hub} {p q : Port} {f g : Flag}

/-! ## A flag to every port -/

theorem port_giveFlag (p q : Port) (f : Flag) (h : Hub) :
    (h.giveFlag p f).port q =
      if p = q ∧ h.attached q = true then { h.port q with flags := (h.port q).flags ||| f.word } else h.port q := by
  unfold giveFlag
  split
  · next live =>
    rw [port_modPort]
    by_cases own : p = q
    · subst own; simp [live]
    · simp [own]
  · next gone =>
    by_cases own : p = q
    · subst own; simp [gone]
    · simp [own]

theorem port_giveAll (f : Flag) (h : Hub) (q : Port) :
    (h.giveAll f).port q =
      if h.attached q = true then { h.port q with flags := (h.port q).flags ||| f.word } else h.port q := by
  have told (p : Port) (x : Hub) (q : Port) : (x.giveFlag p f).attached q = x.attached q := (tells_giveFlag p f x).attached q
  change ((((h.giveFlag .p0 f).giveFlag .p1 f).giveFlag .p2 f).port q) = _
  simp only [port_giveFlag, told]
  cases q <;> simp

theorem reach_giveAll (C : Fin 23 → Bool) (f : Flag) (h : Hub) : Reach C h (h.giveAll f) :=
  List.foldlRecOn (motive := Reach C h) Port.all (fun x p => x.giveFlag p f) (.refl C h)
    fun t so p _ => so.trans (reach_giveFlag C p f t)

theorem giveAll_rest (f : Flag) (h : Hub) : h.giveAll f = { h with ports := (h.giveAll f).ports } := by
  change ((h.giveFlag .p0 f).giveFlag .p1 f).giveFlag .p2 f =
    { h with ports := (((h.giveFlag .p0 f).giveFlag .p1 f).giveFlag .p2 f).ports }
  unfold giveFlag
  repeat' split
  all_goals rfl

theorem hasFlag_giveAll (live : h.attached p = true) : (h.giveAll f).hasFlag p f = true := by
  rw [hasFlag, port_giveAll, if_pos live, BitVec.getLsbD_or, Flag.word_bit]
  simp

/-! ## The passage to HELD -/

theorem atRest_iff : h.atRest = true ↔ ∀ w, (h.stepper w).engine = .idle := by
  simp [atRest, Fin.forall_fin_two]

theorem atRest_of_pair (other : v ≠ u) : h.atRest = true ↔ (h.stepper u).engine = .idle ∧ (h.stepper v).engine = .idle := by
  rw [atRest_iff]
  refine ⟨fun rest => ⟨rest u, rest v⟩, fun ⟨a, b⟩ w => ?_⟩
  rcases (by omega : w = u ∨ w = v) with rfl | rfl <;> assumption

theorem checkHeld_stays (stays : h.mode ≠ .holding ∨ h.atRest = false) : h.checkHeld = h := by
  unfold checkHeld
  rw [if_neg]
  rcases stays with e | e <;> simp [e]

theorem checkHeld_passes (holding : h.mode = .holding) (rest : h.atRest = true) :
    h.checkHeld = giveAll .holdEffective { h with mode := .held } := by
  unfold checkHeld
  rw [if_pos (by simp [holding, rest])]

theorem checkHeld_cases (h : Hub) :
    h.checkHeld = h ∨
      (h.mode = .holding ∧ h.atRest = true ∧ h.checkHeld = giveAll .holdEffective { h with mode := .held }) := by
  by_cases passes : h.mode = .holding ∧ h.atRest = true
  · exact .inr ⟨passes.1, passes.2, checkHeld_passes passes.1 passes.2⟩
  · refine .inl (checkHeld_stays ?_)
    exact (Decidable.not_and_iff_not_or_not.mp passes).imp id Bool.eq_false_iff.mpr

/-- What a passage to HELD, or none, leaves of the steppers and the notices. -/
theorem checkHeld_keeps (h : Hub) :
    (∀ w, h.checkHeld.stepper w = h.stepper w) ∧
      (∀ p f, f ≠ .holdEffective → h.checkHeld.hasFlag p f = h.hasFlag p f) ∧
      ∀ p c, h.checkHeld.hasChange p c = h.hasChange p c := by
  rcases checkHeld_cases h with same | ⟨_, _, passed⟩
  · rw [same]; exact ⟨fun _ => rfl, fun _ _ _ => rfl, fun _ _ => rfl⟩
  · rw [passed]
    refine ⟨fun w => by rw [giveAll_rest]; rfl, fun p f other => ?_, fun p c => ?_⟩
    · rw [hasFlag, port_giveAll]
      split
      · rw [BitVec.getLsbD_or, Flag.word_bit, decide_eq_false (Ne.symm other), Bool.or_false]; rfl
      · rfl
    · rw [hasChange, port_giveAll]
      split <;> rfl

/-- What reaches a set of channels reaches it in any mode. -/
theorem Reach.inMode (a : Reach C h t) (x : HubMode) : Reach C { h with mode := x } { t with mode := x } where
  rest := by conv => lhs; rw [a.rest]
  ports := a.ports
  unattached := a.unattached
  flagsGain := a.flagsGain
  changeGains := a.changeGains
  changeFrom := a.changeFrom
  asked := a.asked
  channels := a.channels
  relays := a.relays
  dead := a.dead
  lamps := a.lamps
  sounder := a.sounder
  steppers := a.steppers
  mute := a.mute

theorem reach_checkHeld (a : Reach C h m) : Reach C { h with mode := m.checkHeld.mode } m.checkHeld := by
  rcases checkHeld_cases m with same | ⟨_, _, passed⟩
  · rw [same, a.mode]; exact a
  · rw [passed, giveAll_rest]
    have reach := (a.inMode .held).trans (reach_giveAll C .holdEffective { m with mode := .held })
    rwa [giveAll_rest] at reach

/-- Beside a unit at rest in HOLDING, the other one tells whether the hub passes to HELD (R168). -/
theorem checkHeld_beside (other : v ≠ u) (holding : h.mode = .holding) (idle : (h.stepper u).engine = .idle) :
    h.checkHeld.mode = (if (h.stepper v).engine = .idle then .held else .holding) ∧
      ((h.stepper v).engine = .idle → ∀ p, h.attached p = true → h.checkHeld.hasFlag p .holdEffective = true) := by
  by_cases rests : (h.stepper v).engine = .idle
  · rw [checkHeld_passes holding ((atRest_of_pair other).mpr ⟨idle, rests⟩), if_pos rests]
    exact ⟨by rw [giveAll_rest], fun _ p live => hasFlag_giveAll live⟩
  · have away : h.atRest = false := by
      rw [Bool.eq_false_iff, Ne, atRest_of_pair other]
      exact fun rest => rests rest.2
    rw [checkHeld_stays (.inr away), if_neg rests]
    exact ⟨holding, fun there => absurd there rests⟩

theorem Decided.checkHeld (decided : Decided u h m) : Decided u h m.checkHeld := by
  obtain ⟨steppers, flags, change⟩ := checkHeld_keeps m
  refine ⟨fun there => ?_, fun away inhibited => ?_, fun d away free toward reverses => ?_, fun d away free toward on => ?_⟩
  · obtain ⟨rests, told⟩ := decided.arrival there
    refine ⟨(steppers u).trans rests, fun x q level taken live => ?_⟩
    rw [flags q .arrived (by decide), change]
    exact told x q level taken live
  · exact (steppers u).trans (decided.pause away inhibited)
  · exact (steppers u).trans (decided.reversal d away free toward reverses)
  · exact (steppers u).trans (decided.step d away free toward on)

end

/-! ## The completion of a step -/

/-- A stepper after a step: its position counted, a pulse given. -/
def Stepper.stepped (d : Dir) (x : Stepper) : Stepper :=
  { x with
    pos := match d with
      | .up => x.pos + 1
      | .down => x.pos - 1
    lastDir := some d
    pulses := x.pulses + 1 }

section
variable {u v : Fin 2} {d : Dir} {left : Nat} {h : Hub}

theorem stepCompletes_running (moves : (h.stepper u).engine = .moving d left) (running : (h.stepper u).cond = .running) :
    h.stepCompletes u =
      if (h.stepper u).refReq then (h.modStepper u (Stepper.stepped d)).startRun u
      else (h.modStepper u (Stepper.stepped d)).decision u := by
  unfold stepCompletes
  rw [moves]
  dsimp only
  rw [running]
  rfl

theorem stepCompletes_draining (moves : (h.stepper u).engine = .moving d left) (draining : (h.stepper u).cond = .draining) :
    h.stepCompletes u = (h.modStepper u (Stepper.stepped d)).drainStep u := by
  unfold stepCompletes
  rw [moves]
  dsimp only
  rw [draining]
  rfl

theorem stepper_drainStep (u : Fin 2) (h : Hub) :
    (h.drainStep u).stepper u =
      { h.stepper u with engine := .idle, lastDir := none, refReq := false, cond := .stopped } := by
  have rested : (h.comeToRest u).stepper u =
      { h.stepper u with engine := .idle, lastDir := none, refReq := false, cond := .stopped } :=
    stepper_modStepper_same ..
  unfold drainStep
  dsimp only
  split
  · rw [giveArrived_stepper, rested]
  · exact rested

/-- A unit that decides keeps its reference and its position. -/
theorem decision_keeps (u : Fin 2) (h : Hub) :
    ((h.decision u).stepper u).ref = (h.stepper u).ref ∧ ((h.decision u).stepper u).pos = (h.stepper u).pos ∧
      ((h.decision u).stepper u).cond = (h.stepper u).cond ∧ ((h.decision u).stepper u).pulses = (h.stepper u).pulses := by
  unfold decision arrive pauseStepper startStep
  dsimp only
  split
  · exact ⟨rfl, rfl, rfl, rfl⟩
  · split
    · rw [giveArrived_stepper, stepper_modStepper_same]; exact ⟨rfl, rfl, rfl, rfl⟩
    · split
      · rw [stepper_modStepper_same]; exact ⟨rfl, rfl, rfl, rfl⟩
      · split <;> split <;> rw [stepper_modStepper_same] <;> exact ⟨rfl, rfl, rfl, rfl⟩

end
end Hub
end Sys2Proof.Machine
end

section
/-! Steps that complete: in RUN, in a drain, in a referencing run; the end of a reversal pause; STEP_INHIBIT (R115 to R125). -/

namespace Sys2Proof.Machine
namespace Hub

section
variable {u v : Fin 2} {d : Dir} {left : Nat} {h t : Hub}

theorem pursued_target {target rate : Nat} {source : Source}
    (taken : (h.chan (stepperChannel u)).taken = some ⟨.target target rate, source⟩) :
    h.pursued u = min target h.work.steppers[u].travel ∧ h.takenRate u = rate := by
  unfold pursued takenRate
  rw [taken]
  exact ⟨rfl, rfl⟩

theorem startRun_keeps (u : Fin 2) (h : Hub) :
    ((h.startRun u).stepper u).ref = .referencing ∧ ((h.startRun u).stepper u).refReq = false ∧
      ((h.startRun u).stepper u).pos = (h.stepper u).pos ∧ ((h.startRun u).stepper u).cond = (h.stepper u).cond ∧
      ((h.startRun u).stepper u).pulses = (h.stepper u).pulses := by
  by_cases up : (h.stepper u).lastDir = some .up
  · rw [stepper_startRun_up up]
    exact ⟨rfl, rfl, rfl, rfl, rfl⟩
  · rw [stepper_startRun_step up]
    unfold Stepper.runStep
    split <;> exact ⟨rfl, rfl, rfl, rfl, rfl⟩

/-- The step of a moving unit in RUN: what it then pursues is what it was handed. -/
theorem stepCompletes_counts (moves : (h.stepper u).engine = .moving d left) (running : (h.stepper u).cond = .running) :
    ((h.stepCompletes u).stepper u).pos = (Stepper.stepped d (h.stepper u)).pos ∧
      ((h.stepCompletes u).stepper u).pulses = (h.stepper u).pulses + 1 ∧
      ((h.stepCompletes u).stepper u).cond = .running := by
  have moved : (h.modStepper u (Stepper.stepped d)).stepper u = Stepper.stepped d (h.stepper u) := stepper_modStepper_same ..
  rw [stepCompletes_running moves running]
  split
  · obtain ⟨_, _, pos, cond, pulses⟩ := startRun_keeps u (h.modStepper u (Stepper.stepped d))
    rw [pos, pulses, cond, moved]
    exact ⟨rfl, rfl, running⟩
  · obtain ⟨_, pos, cond, pulses⟩ := decision_keeps u (h.modStepper u (Stepper.stepped d))
    rw [pos, pulses, cond, moved]
    exact ⟨rfl, rfl, running⟩

/-- After its step a unit with a REFERENCE waiting starts its run (R118, R121). -/
theorem stepCompletes_references (moves : (h.stepper u).engine = .moving d left)
    (running : (h.stepper u).cond = .running) (waits : (h.stepper u).refReq = true) :
    let run := Stepper.begun h.work.steppers[u] (Stepper.stepped d (h.stepper u))
    (d = .up → (h.stepCompletes u).stepper u = { run with engine := .reversing (Config.ms 40) }) ∧
      (d = .down → (h.stepCompletes u).stepper u = Stepper.runStep h.stepInhibit h.work.steppers[u] run) := by
  have moved : (h.modStepper u (Stepper.stepped d)).stepper u = Stepper.stepped d (h.stepper u) := stepper_modStepper_same ..
  rw [stepCompletes_running moves running, if_pos waits]
  refine ⟨fun up => ?_, fun down => ?_⟩
  · rw [stepper_startRun_up (by rw [moved, up]; rfl), moved, modStepper_stepperItem]; rfl
  · rw [stepper_startRun_step (by rw [moved, down]; simp [Stepper.stepped]), moved, modStepper_stepperItem,
      modStepper_stepInhibit]
    rfl

/-- After its step a REFERENCED unit decides (R116, R121). -/
theorem stepCompletes_decides (moves : (h.stepper u).engine = .moving d left) (running : (h.stepper u).cond = .running)
    (referenced : (h.stepper u).ref = .referenced) (free : (h.stepper u).refReq = false) :
    Decided u (h.modStepper u (Stepper.stepped d)) (h.stepCompletes u) := by
  have moved : (h.modStepper u (Stepper.stepped d)).stepper u = Stepper.stepped d (h.stepper u) := stepper_modStepper_same ..
  rw [stepCompletes_running moves running, if_neg (by simp [free])]
  exact decided_decision (by rw [moved]; exact referenced)

end
end Hub

open Hub

theorem exec_stepCompletion (u : Fin 2) (s : State) :
    exec (.stepCompletion u) s = .next { s with hub := (s.hub.stepCompletes u).checkHeld } := rfl

theorem stepCompletion_run {u : Fin 2} {d : Dir} {left target rate : Nat} {source : Source} {s : State}
    (run : s.hub.mode = .run) (running : (s.hub.stepper u).cond = .running)
    (moves : (s.hub.stepper u).engine = .moving d left) (referenced : (s.hub.stepper u).ref = .referenced)
    (taken : (s.hub.chan (stepperChannel u)).taken = some ⟨.target target rate, source⟩) :
    let x := s.hub.stepper u
    let pos := match (generalizing := false) d with
      | .up => x.pos + 1
      | .down => x.pos - 1
    let goal := min target s.hub.work.steppers[u].travel
    let onward := if pos < goal then Dir.up else Dir.down
    ∃ t : Hub, exec (.stepCompletion u) s = .next { s with hub := t } ∧
      Reach (only (stepperChannel u)) s.hub t ∧
      (t.stepper u).pos = pos ∧ (t.stepper u).pulses = x.pulses + 1 ∧ (t.stepper u).cond = .running ∧
      (x.refReq = true → (t.stepper u).ref = .referencing ∧ (t.stepper u).refReq = false) ∧
      (x.refReq = true →
        let run : Stepper := { x with
          pos := pos, pulses := x.pulses + 1, lastDir := some d, ref := .referencing, refReq := false
          runCount := s.hub.work.steppers[u].travel + s.hub.work.steppers[u].overtravel }
        (d = .up → t.stepper u = { run with engine := .reversing (Config.ms 40) }) ∧
        (d = .down → s.hub.stepInhibit = true → t.stepper u = { run with engine := .paused, lastDir := none }) ∧
        (d = .down → s.hub.stepInhibit = false →
          t.stepper u = { run with
            engine := .referencing (Config.stepTime s.hub.work.steppers[u].refRate), dirUp := false })) ∧
      (x.refReq = false →
        (t.stepper u).ref = .referenced ∧
        (pos = goal →
          (t.stepper u).engine = .idle ∧ (t.stepper u).lastDir = none ∧
            ∀ q level, source = .port q level → s.hub.attached q = true →
              t.hasFlag q .arrived = true ∧ t.hasChange q (stepperChannel u) = true) ∧
        (pos ≠ goal → s.hub.stepInhibit = true → (t.stepper u).engine = .paused ∧ (t.stepper u).lastDir = none) ∧
        (pos ≠ goal → s.hub.stepInhibit = false → onward = d →
          (t.stepper u).engine = .moving d (Config.stepTime rate) ∧ (t.stepper u).dirUp = (d == .up)) ∧
        (pos ≠ goal → s.hub.stepInhibit = false → onward ≠ d → (t.stepper u).engine = .reversing (Config.ms 40))) := by
  intro x pos goal onward
  have reach : Reach (only (stepperChannel u)) s.hub (s.hub.stepCompletes u) :=
    (drive_stepCompletes (only_self _) s.hub).toReach
  have still : (s.hub.stepCompletes u).checkHeld = s.hub.stepCompletes u :=
    checkHeld_stays (.inl (by rw [reach.mode, run]; decide))
  obtain ⟨counted, pulses, cond⟩ := stepCompletes_counts moves running
  refine ⟨s.hub.stepCompletes u, by rw [exec_stepCompletion, still], reach, counted, pulses, cond, fun waits => ?_,
    fun waits => ?_, fun free => ?_⟩
  · rw [stepCompletes_running moves running, if_pos waits]
    exact ⟨(startRun_keeps u _).1, (startRun_keeps u _).2.1⟩
  · obtain ⟨up, down⟩ := stepCompletes_references moves running waits
    refine ⟨up, fun e inhibited => ?_, fun e free => ?_⟩
    · rw [down e, inhibited]; rfl
    · rw [down e, free]; rfl
  · have decided := stepCompletes_decides moves running referenced free
    have ref : ((s.hub.stepCompletes u).stepper u).ref = .referenced := by
      rw [stepCompletes_running moves running, if_neg (by rw [Bool.not_eq_true]; exact free), (decision_keeps u _).1, stepper_modStepper_same]
      exact referenced
    generalize s.hub.stepCompletes u = t at decided ref ⊢
    generalize e : s.hub.modStepper u (Stepper.stepped d) = m at decided
    have stepped : m.stepper u = Stepper.stepped d x := by rw [← e]; exact stepper_modStepper_same ..
    have handed : (m.chan (stepperChannel u)).taken = some ⟨.target target rate, source⟩ := by
      rw [← e, modStepper_chan]; exact taken
    have inhibit : m.stepInhibit = s.hub.stepInhibit := by rw [← e, modStepper_stepInhibit]
    have live (q : Port) : m.attached q = s.hub.attached q := by rw [← e, modStepper_attached]
    have ends : m.pursued u = goal := by rw [(pursued_target handed).1, ← e, modStepper_work]
    have at_pos : (m.stepper u).pos = pos := by rw [stepped]; rfl
    have last : (m.stepper u).lastDir = some d := by rw [stepped]; rfl
    refine ⟨ref, fun there => ?_, fun away inhibited => ?_, fun away free on => ?_, fun away free back => ?_⟩
    · obtain ⟨rests, told⟩ := decided.arrival (by rw [at_pos, ends, there])
      rw [rests]
      refine ⟨rfl, rfl, fun q level from_ lives => ?_⟩
      subst from_
      exact told _ q level handed (by rw [live, lives])
    · rw [decided.pause (by rw [at_pos, ends]; exact away) (by rw [inhibit, inhibited])]
      exact ⟨rfl, rfl⟩
    · rw [decided.step d (by rw [at_pos, ends]; exact away) (by rw [inhibit, free]) (by rw [at_pos, ends]; exact on.symm)
        (by rw [last]; cases d <;> simp [Dir.opposite]), (pursued_target handed).2]
      exact ⟨rfl, rfl⟩
    · rw [decided.reversal onward (by rw [at_pos, ends]; exact away) (by rw [inhibit, free]) (by rw [at_pos, ends])
        (by rw [last]; revert back; cases onward <;> cases d <;> simp [Dir.opposite])]

/-- A drained step tells an arrival at the pursued position, but not while a REFERENCE waits (log 15). -/
theorem Hub.drainStep_tells {u : Fin 2} {h : Hub} :
    (∀ v q level, (h.chan (stepperChannel u)).taken = some ⟨v, .port q level⟩ → (h.stepper u).pos = h.pursued u →
      (h.stepper u).refReq = false → h.attached q = true →
      (h.drainStep u).hasFlag q .arrived = true ∧ (h.drainStep u).hasChange q (stepperChannel u) = true) ∧
    ((h.stepper u).refReq = true → ∀ q f, (h.drainStep u).hasFlag q f = h.hasFlag q f) := by
  refine ⟨fun v q level taken there free live => ?_, fun waits q f => ?_⟩
  · have ends : h.drainStep u = (h.comeToRest u).giveArrived u := if_pos (by simp [there, free])
    rw [ends]
    exact giveArrived_tells (by rw [comeToRest, modStepper_chan]; exact taken)
      (by rw [comeToRest, modStepper_attached]; exact live)
  · have ends : h.drainStep u = h.comeToRest u := if_neg (by simp [waits])
    rw [ends]
    rfl

theorem stepCompletion_draining {u v : Fin 2} {d : Dir} {left : Nat} {s : State} (other : v ≠ u)
    (holding : s.hub.mode = .holding) (draining : (s.hub.stepper u).cond = .draining)
    (moves : (s.hub.stepper u).engine = .moving d left) :
    ∃ t : Hub, exec (.stepCompletion u) s = .next { s with hub := t } ∧
      t.stepper u = { Stepper.stepped d (s.hub.stepper u) with
        engine := .idle, lastDir := none, refReq := false, cond := .stopped } ∧
      t.stepper v = s.hub.stepper v ∧
      (∀ target rate q level,
        (s.hub.chan (stepperChannel u)).taken = some ⟨.target target rate, .port q level⟩ →
        (t.stepper u).pos = min target s.hub.work.steppers[u].travel → (s.hub.stepper u).refReq = false →
        s.hub.attached q = true →
        t.hasFlag q .arrived = true ∧ t.hasChange q (stepperChannel u) = true) ∧
      ((s.hub.stepper u).refReq = true → ∀ q, t.hasFlag q .arrived = s.hub.hasFlag q .arrived) ∧
      t.mode = (if (s.hub.stepper v).engine = .idle then .held else .holding) ∧
      ((s.hub.stepper v).engine = .idle → ∀ p, s.hub.attached p = true → t.hasFlag p .holdEffective = true) ∧
      Reach (only (stepperChannel u)) { s.hub with mode := t.mode } t := by
  have reach : Reach (only (stepperChannel u)) s.hub (s.hub.stepCompletes u) :=
    (drive_stepCompletes (only_self _) s.hub).toReach
  have beside := (stepperOnly_stepCompletes u s.hub).others v other
  have ends := stepCompletes_draining moves draining
  have inHeld := reach_checkHeld reach
  obtain ⟨steppers, flags, change⟩ := checkHeld_keeps (s.hub.stepCompletes u)
  generalize e : s.hub.modStepper u (Stepper.stepped d) = m at ends
  have stepped : m.stepper u = Stepper.stepped d (s.hub.stepper u) := by rw [← e]; exact stepper_modStepper_same ..
  have rests : (s.hub.stepCompletes u).stepper u =
      { Stepper.stepped d (s.hub.stepper u) with engine := .idle, lastDir := none, refReq := false, cond := .stopped } := by
    rw [ends, stepper_drainStep, stepped]
  obtain ⟨mode, told⟩ := checkHeld_beside other (reach.mode.trans holding) (by rw [rests])
  refine ⟨_, exec_stepCompletion u s, (steppers u).trans rests, (steppers v).trans beside,
    fun target rate q level taken there free live => ?_, fun waits q => ?_, ?_, fun idle p live => ?_, inHeld⟩
  · have handed : (m.chan (stepperChannel u)).taken = some ⟨.target target rate, .port q level⟩ := by
      rw [← e, modStepper_chan]; exact taken
    rw [flags q .arrived (by decide), change, ends]
    refine drainStep_tells.1 _ q level handed ?_ (by rw [stepped]; exact free) (by rw [← e, modStepper_attached]; exact live)
    rw [(pursued_target handed).1, stepped, ← e, modStepper_work, ← there, steppers, rests]
  · rw [flags q .arrived (by decide), ends, drainStep_tells.2 (by rw [stepped]; exact waits), ← e]
    rfl
  · rw [mode, beside]
  · exact told (by rw [beside, idle]) p ((reach.attached p).trans live)

/-- Settles O30: the step in RUN by a waiting REFERENCE or the decision; the drained step by the rest it comes to. -/
theorem stepCompletionMovesThePositionOrRests : Obligations.StepCompletionMovesThePositionOrRests := by
  unfold Obligations.StepCompletionMovesThePositionOrRests
  refine ⟨fun u d left target rate source s run running moves referenced taken =>
    stepCompletion_run run running moves referenced taken, fun u v d left s other holding draining moves => ?_⟩
  obtain ⟨t, ends, rests, beside, arrives, silent, mode, told, reach⟩ :=
    stepCompletion_draining (Ne.symm other) holding draining moves
  refine ⟨t, ends, ?_, ?_, ?_, ?_, ?_, ?_, beside, arrives, silent, mode, told, reach⟩ <;> rw [rests] <;> rfl

end Sys2Proof.Machine
end

section
/-! The steps of a referencing run (R118 to R122, R125). -/

namespace Sys2Proof.Machine
namespace Hub

section
variable {u : Fin 2} {left : Nat} {h : Hub}

theorem modStepper_modStepper (u : Fin 2) (f g : Stepper → Stepper) (h : Hub) :
    (h.modStepper u f).modStepper u g = h.modStepper u fun x => g (f x) := by
  simp [modStepper, refreshMute, modSounder, stepper, muteValue]

theorem modStepper_congr {f g : Stepper → Stepper} (same : f (h.stepper u) = g (h.stepper u)) :
    h.modStepper u f = h.modStepper u g := by
  unfold modStepper
  rw [same]

/-- A stepper after a step of its run: the count falls, a pulse is given. -/
def Stepper.counted (x : Stepper) : Stepper :=
  { x with runCount := x.runCount - 1, lastDir := some .down, pulses := x.pulses + 1 }

/-- A stepper at the end of its run. -/
def Stepper.found (x : Stepper) : Stepper :=
  { x with pos := 0, ref := .referenced, lastDir := some .down, runCount := 0, pulses := x.pulses + 1 }

theorem referencingStepCompletes_last (runs : (h.stepper u).engine = .referencing left)
    (running : (h.stepper u).cond = .running) (last : (h.stepper u).runCount ≤ 1) :
    h.referencingStepCompletes u = (h.modStepper u Stepper.found).decision u := by
  have counted : (h.modStepper u Stepper.counted).stepper u = Stepper.counted (h.stepper u) := stepper_modStepper_same ..
  have zero : ((h.modStepper u Stepper.counted).stepper u).runCount = 0 := by rw [counted]; exact Nat.sub_eq_zero_of_le last
  unfold referencingStepCompletes
  rw [runs]
  dsimp only
  rw [running]
  refine (if_pos zero).trans (congrArg (decision u) ((modStepper_modStepper ..).trans (modStepper_congr ?_)))
  simp [Stepper.found, Nat.sub_eq_zero_of_le last]

theorem referencingStepCompletes_more (runs : (h.stepper u).engine = .referencing left)
    (running : (h.stepper u).cond = .running) (more : 1 < (h.stepper u).runCount) :
    (h.referencingStepCompletes u).stepper u =
      Stepper.runStep h.stepInhibit h.work.steppers[u] (Stepper.counted (h.stepper u)) := by
  have counted : (h.modStepper u Stepper.counted).stepper u = Stepper.counted (h.stepper u) := stepper_modStepper_same ..
  have goesOn : h.referencingStepCompletes u = (h.modStepper u Stepper.counted).startRunStep u := by
    unfold referencingStepCompletes
    rw [runs]
    dsimp only
    rw [running]
    refine if_neg (?_ : ((h.modStepper u Stepper.counted).stepper u).runCount ≠ 0)
    rw [counted]
    exact Nat.sub_ne_zero_of_lt more
  rw [goesOn, stepper_startRunStep, counted, modStepper_stepperItem, modStepper_stepInhibit]
  rfl

/-- Outside RUN the step ends the run, the stepper UNREFERENCED (R125). -/
theorem referencingStepCompletes_drained (runs : (h.stepper u).engine = .referencing left)
    (halted : (h.stepper u).cond ≠ .running) :
    (h.referencingStepCompletes u).stepper u = { Stepper.counted (h.stepper u) with
      ref := .unreferenced, runCount := 0, engine := .idle, lastDir := none, refReq := false, cond := .stopped } := by
  have ends : h.referencingStepCompletes u = ((h.modStepper u Stepper.counted).abortRun u).comeToRest u := by
    unfold referencingStepCompletes
    rw [runs]
    cases cond : (h.stepper u).cond with
    | running => exact absurd cond halted
    | draining => rfl
    | stopped => rfl
  rw [ends, comeToRest, abortRun, stepper_modStepper_same, stepper_modStepper_same, stepper_modStepper_same]

theorem referencingStepCompletes_pulses (runs : (h.stepper u).engine = .referencing left) :
    ((h.referencingStepCompletes u).stepper u).pulses = (h.stepper u).pulses + 1 := by
  by_cases running : (h.stepper u).cond = .running
  · rcases Nat.lt_or_ge 1 (h.stepper u).runCount with more | last
    · rw [referencingStepCompletes_more runs running more]
      unfold Stepper.runStep
      split <;> rfl
    · rw [referencingStepCompletes_last runs running last, (decision_keeps u _).2.2.2, stepper_modStepper_same]
      rfl
  · rw [referencingStepCompletes_drained runs running]
    rfl

end
end Hub

open Hub

theorem exec_referencingStepCompletion (u : Fin 2) (s : State) :
    exec (.referencingStepCompletion u) s = .next { s with hub := (s.hub.referencingStepCompletes u).checkHeld } := rfl

/-- Settles O31: by the unit's condition, and in RUN by whether the step is the run's last. -/
theorem referencingStepCountsTheRunDown : Obligations.ReferencingStepCountsTheRunDown := by
  unfold Obligations.ReferencingStepCountsTheRunDown
  intro u left s runs
  have reach : Reach (only (stepperChannel u)) s.hub (s.hub.referencingStepCompletes u) :=
    (drive_referencingStepCompletes (only_self _) s.hub).toReach
  obtain ⟨steppers, _, _⟩ := checkHeld_keeps (s.hub.referencingStepCompletes u)
  have pulses := referencingStepCompletes_pulses runs
  refine ⟨_, exec_referencingStepCompletion u s, (congrArg Stepper.pulses (steppers u)).trans pulses, reach_checkHeld reach,
    fun away => ?_, fun running last => ?_, fun running more => ?_, fun running more inhibited => ?_,
    fun running more free => ?_, fun draining => ?_, fun draining holding v other => ?_⟩
  · rw [checkHeld_stays (.inl (by rw [reach.mode]; exact away)), reach.mode]
  · have found : (s.hub.modStepper u Stepper.found).stepper u = Stepper.found (s.hub.stepper u) := stepper_modStepper_same ..
    obtain ⟨ref, pos, _⟩ := decision_keeps u (s.hub.modStepper u Stepper.found)
    have decided : Decided u (s.hub.modStepper u Stepper.found) (s.hub.referencingStepCompletes u).checkHeld := by
      rw [referencingStepCompletes_last runs running last]
      exact (decided_decision (by rw [found]; rfl)).checkHeld
    rw [found] at ref pos
    rw [steppers, referencingStepCompletes_last runs running last]
    exact ⟨ref, pos, referencingStepCompletes_last runs running last ▸ decided⟩
  · rw [steppers, referencingStepCompletes_more runs running more]
    unfold Stepper.runStep
    split <;> exact ⟨rfl, rfl, rfl, rfl⟩
  · rw [steppers, referencingStepCompletes_more runs running more, inhibited]
    rfl
  · rw [steppers, referencingStepCompletes_more runs running more, free]
    rfl
  · rw [steppers, referencingStepCompletes_drained runs (by rw [draining]; decide)]
    exact ⟨rfl, rfl, rfl, rfl, rfl, rfl⟩
  · have beside := (stepperOnly_referencingStepCompletes u s.hub).others v other
    obtain ⟨mode, told⟩ := checkHeld_beside other (reach.mode.trans holding)
      (by rw [referencingStepCompletes_drained runs (by rw [draining]; decide)])
    refine ⟨(steppers v).trans beside, by rw [mode, beside], fun idle p live => ?_⟩
    exact told (by rw [beside, idle]) p ((reach.attached p).trans live)

end Sys2Proof.Machine
end

section
/-! The end of a reversal pause, and STEP_INHIBIT (R116, R120, R124). -/

namespace Sys2Proof.Machine
namespace Hub

section
variable {u v : Fin 2} {h t : Hub}

/-- The pause over, a change of direction is free. -/
def Stepper.unpaused (x : Stepper) : Stepper := { x with lastDir := none }

theorem goOn_references (runs : (h.stepper u).ref = .referencing) :
    (h.goOn u).stepper u = Stepper.runStep h.stepInhibit h.work.steppers[u] (h.stepper u) := by
  have on : h.goOn u = h.startRunStep u := if_pos (by simp [runs])
  rw [on, stepper_startRunStep]
  rfl

theorem goOn_begins (away : (h.stepper u).ref ≠ .referencing) (waits : (h.stepper u).refReq = true)
    (free : (h.stepper u).lastDir = none) :
    (h.goOn u).stepper u =
      Stepper.runStep h.stepInhibit h.work.steppers[u] (Stepper.begun h.work.steppers[u] (h.stepper u)) := by
  have on : h.goOn u = h.startRun u := by simp [goOn, away, waits]
  rw [on, stepper_startRun_step (by simp [free])]
  rfl

theorem goOn_decides (away : (h.stepper u).ref ≠ .referencing) (free : (h.stepper u).refReq = false) :
    h.goOn u = h.decision u := by
  simp [goOn, away, free]

theorem goOn_decided (referenced : (h.stepper u).ref = .referenced) (free : (h.stepper u).refReq = false) :
    Decided u h (h.goOn u) := by
  rw [goOn_decides (by simp [referenced]) free]
  exact decided_decision referenced

theorem goOn_pos (u : Fin 2) (h : Hub) : ((h.goOn u).stepper u).pos = (h.stepper u).pos := by
  unfold goOn
  split
  · rw [stepper_startRunStep]
    unfold Stepper.runStep
    split <;> rfl
  · split
    · exact (startRun_keeps u h).2.2.1
    · exact (decision_keeps u h).2.1

theorem pauseEnds_still (away : ∀ k, (h.stepper u).engine ≠ .reversing k) : h.pauseEnds u = h := by
  unfold pauseEnds
  cases e : (h.stepper u).engine with
  | reversing k => exact absurd e (away k)
  | idle => rfl
  | moving d k => rfl
  | referencing k => rfl
  | paused => rfl

theorem pauseEnds_goesOn (pauses : ∃ k, (h.stepper u).engine = .reversing k) :
    h.pauseEnds u = (h.modStepper u Stepper.unpaused).goOn u := by
  unfold pauseEnds
  obtain ⟨k, e⟩ := pauses
  rw [e]
  rfl

theorem pursued_unpaused (u : Fin 2) (h : Hub) :
    (h.modStepper u Stepper.unpaused).pursued u = h.pursued u ∧
      (h.modStepper u Stepper.unpaused).takenRate u = h.takenRate u := by
  unfold pursued takenRate
  rw [stepper_modStepper_same]
  exact ⟨rfl, rfl⟩

/-- A decision without a last direction makes no reversal (R116). -/
theorem Decided.engine (decided : Decided u h t) (free : (h.stepper u).lastDir = none) :
    (t.stepper u).engine =
      if (h.stepper u).pos = h.pursued u then .idle
      else if h.stepInhibit then .paused
      else .moving (if (h.stepper u).pos < h.pursued u then .up else .down) (Config.stepTime (h.takenRate u)) := by
  by_cases there : (h.stepper u).pos = h.pursued u
  · rw [(decided.arrival there).1, if_pos there]
  · rw [if_neg there]
    cases inhibit : h.stepInhibit with
    | true => rw [decided.pause there inhibit]; rfl
    | false => rw [decided.step _ there inhibit rfl (by simp [free])]; rfl

end
end Hub

open Hub

theorem exec_reversalPauseEnd (u : Fin 2) (s : State) :
    exec (.reversalPauseEnd u) s = .next { s with hub := s.hub.pauseEnds u } := rfl

theorem Hub.pauseEnds_of_unpaused {u : Fin 2} {h m : Hub} (e : h.modStepper u Stepper.unpaused = m) :
    m.stepper u = Stepper.unpaused (h.stepper u) ∧ m.stepInhibit = h.stepInhibit ∧ m.work = h.work ∧
      m.pursued u = h.pursued u ∧ m.takenRate u = h.takenRate u := by
  subst e
  exact ⟨stepper_modStepper_same .., rfl, rfl, (pursued_unpaused u h).1, (pursued_unpaused u h).2⟩

theorem reversalPauseEnd_goesOn {u : Fin 2} {s : State} (pauses : ∃ k, (s.hub.stepper u).engine = .reversing k) :
    let x := s.hub.stepper u
    ∃ t : Hub, exec (.reversalPauseEnd u) s = .next { s with hub := t } ∧
      Reach (only (stepperChannel u)) s.hub t ∧ (t.stepper u).pos = x.pos ∧
      (x.ref = .referencing → t.stepper u =
        Stepper.runStep s.hub.stepInhibit s.hub.work.steppers[u] (Stepper.unpaused x)) ∧
      (x.ref ≠ .referencing → x.refReq = true → t.stepper u =
        Stepper.runStep s.hub.stepInhibit s.hub.work.steppers[u]
          (Stepper.begun s.hub.work.steppers[u] (Stepper.unpaused x))) ∧
      (x.ref = .referenced → x.refReq = false → Decided u (s.hub.modStepper u Stepper.unpaused) t ∧
        (t.stepper u).engine =
          if x.pos = s.hub.pursued u then .idle
          else if s.hub.stepInhibit then .paused
          else .moving (if x.pos < s.hub.pursued u then .up else .down) (Config.stepTime (s.hub.takenRate u))) := by
  intro x
  have reach : Reach (only (stepperChannel u)) s.hub (s.hub.pauseEnds u) := (drive_pauseEnds (only_self _) s.hub).toReach
  refine ⟨_, exec_reversalPauseEnd u s, reach, ?_⟩
  rw [pauseEnds_goesOn pauses]
  generalize e : s.hub.modStepper u Stepper.unpaused = m
  obtain ⟨stepper, inhibit, work, pursued, rate⟩ := pauseEnds_of_unpaused e
  refine ⟨?_, fun runs => ?_, fun away waits => ?_, fun referenced free => ?_⟩
  · rw [goOn_pos, stepper]; rfl
  · rw [goOn_references (by rw [stepper]; exact runs), stepper, inhibit, work]
  · rw [goOn_begins (by rw [stepper]; exact away) (by rw [stepper]; exact waits) (by rw [stepper]; rfl), stepper, inhibit,
      work]
  · have decided := goOn_decided (h := m) (u := u) (by rw [stepper]; exact referenced) (by rw [stepper]; exact free)
    have engine := decided.engine (by rw [stepper]; rfl)
    rw [stepper, pursued, inhibit, rate] at engine
    exact ⟨decided, engine⟩

namespace Hub

section
variable {u : Fin 2} {h m : Hub}

/-- A part that a unit reads as another: the unit, its configuration, what the channels have taken, who is ATTACHED; the
release has passed. -/
structure ReleasedAs (u : Fin 2) (h m : Hub) : Prop where
  inhibit : m.stepInhibit = false
  stepper : m.stepper u = h.stepper u
  work : m.work = h.work
  channels : m.channels = h.channels
  attached : ∀ p, m.attached p = h.attached p

theorem ReleasedAs.chan (a : ReleasedAs u h m) (c : Fin 23) : m.chan c = h.chan c := chan_of_channels a.channels c

theorem ReleasedAs.pursued (a : ReleasedAs u h m) : m.pursued u = h.pursued u ∧ m.takenRate u = h.takenRate u := by
  unfold Hub.pursued takenRate stepperItem
  rw [a.chan, a.work, a.stepper]
  exact ⟨rfl, rfl⟩

theorem drive_unitReleased {C : Fin 23 → Bool} (i : C (stepperChannel u) = true) (h : Hub) : Drive C h (h.unitReleased u) := by
  unfold unitReleased
  split
  · exact drive_goOn i h
  · exact .refl C h

/-- Each unit is released on a part it reads as the part before, and what it does stays. -/
theorem inhibitReleased_at (u : Fin 2) (h : Hub) :
    ∃ m, ReleasedAs u h m ∧ h.inhibitReleased.stepper u = (m.unitReleased u).stepper u ∧
      (∀ p f, (m.unitReleased u).hasFlag p f = true → h.inhibitReleased.hasFlag p f = true) ∧
      ∀ p c, (m.unitReleased u).hasChange p c = true → h.inhibitReleased.hasChange p c = true := by
  have first := stepperOnly_unitReleased 0 { h with stepInhibit := false }
  have second := stepperOnly_unitReleased 1 ({ h with stepInhibit := false }.unitReleased 0)
  have reach : Reach (fun _ => true) ({ h with stepInhibit := false }.unitReleased 0) h.inhibitReleased :=
    (drive_unitReleased (u := 1) rfl _).toReach
  match u with
  | 0 =>
    exact ⟨{ h with stepInhibit := false }, ⟨rfl, rfl, rfl, rfl, fun _ => rfl⟩, second.others 0 (by decide),
      fun p f given => reach.flagsGain p f.bit given, fun p c given => reach.changeGains p c given⟩
  | 1 =>
    refine ⟨_, ⟨?_, first.others 1 (by decide), first.work, ?_, first.told.attached⟩, rfl, fun _ _ => id, fun _ _ => id⟩
    · rw [first.rest]
    · rw [first.rest]

theorem unitReleased_still (away : (h.stepper u).cond ≠ .running ∨ (h.stepper u).engine ≠ .paused) :
    h.unitReleased u = h := by
  refine if_neg ?_
  rcases away with e | e <;> simp [e]

theorem unitReleased_goesOn (running : (h.stepper u).cond = .running) (paused : (h.stepper u).engine = .paused) :
    h.unitReleased u = h.goOn u := if_pos (by simp [running, paused])

theorem reach_inhibitReleased (h : Hub) :
    Reach (fun c => decide (21 ≤ c.val)) { h with stepInhibit := false } h.inhibitReleased :=
  ((drive_unitReleased (u := 0) (by decide) _).trans (drive_unitReleased (u := 1) (by decide) _)).toReach

end
end Hub

/-- Settles O32: the pause by what the unit goes on with; the release unit by unit. -/
theorem pausedStepsGoOn : Obligations.PausedStepsGoOn := by
  unfold Obligations.PausedStepsGoOn
  refine ⟨fun u s => ⟨fun away => onEvent_still (pauseEnds_still away), fun pauses => ?pause⟩,
    fun s => ⟨rfl, _, rfl, reach_inhibitReleased s.hub, fun u => ?release⟩⟩
  case pause =>
    obtain ⟨t, ends, reach, pos, references, begins, decides⟩ := reversalPauseEnd_goesOn pauses
    refine ⟨t, ends, reach, pos, fun runs => ?_, fun runs inhibited => ?_, fun runs free => ?_, fun away waits => ?_,
      fun away waits => ⟨fun inhibited => ?_, fun free => ?_⟩, fun referenced free => (decides referenced free).1,
      fun referenced free => (decides referenced free).2⟩
    · rw [references runs]
      unfold Stepper.runStep
      split <;> rfl
    · rw [references runs, inhibited]; rfl
    · rw [references runs, free]; rfl
    · rw [begins away waits]
      unfold Stepper.runStep
      split <;> exact ⟨rfl, rfl⟩
    · rw [begins away waits, inhibited]; rfl
    · rw [begins away waits, free]; rfl
  case release =>
    obtain ⟨m, as, same, flags, change⟩ := inhibitReleased_at u s.hub
    have released : m.stepper u = s.hub.stepper u := as.stepper
    refine ⟨fun away => ?_, fun running paused => ⟨fun runs => ?_, fun other waits free => ?_,
      fun referenced free there => ?_, fun referenced free last away => ?_⟩⟩
    · rw [same, unitReleased_still (by rw [released]; exact away), released]
    all_goals rw [unitReleased_goesOn (by rw [released]; exact running) (by rw [released]; exact paused)] at same flags change
    · rw [same, goOn_references (by rw [released]; exact runs), released, as.inhibit, as.work]; rfl
    · rw [same, goOn_begins (by rw [released]; exact other) (by rw [released]; exact waits) (by rw [released]; exact free),
        released, as.inhibit, as.work]
      rfl
    all_goals
      have decided := goOn_decided (h := m) (u := u) (by rw [released]; exact referenced) (by rw [released]; exact free)
    · obtain ⟨rests, told⟩ := decided.arrival (by rw [released, as.pursued.1, there])
      refine ⟨by rw [same, rests, released], fun v q level taken live => ?_⟩
      obtain ⟨flag, set⟩ := told v q level (by rw [as.chan]; exact taken) (by rw [as.attached]; exact live)
      exact ⟨flags q .arrived flag, change q _ set⟩
    · intro d
      rw [same, decided.step d (by rw [released, as.pursued.1]; exact away) as.inhibit (by rw [released, as.pursued.1])
        (by rw [released, last]; simp), released, as.pursued.2]

end Sys2Proof.Machine
end

section
/-! Tones: a command change takes the sounder over, and a renewal starts the envelope again (R130 to R135). -/

namespace Sys2Proof.Machine
namespace Hub

section
variable {p : Port} {h m t : Hub} {pitch loudness : Nat} {d : Decay}

/-! ## A tone that starts -/

/-- A tone has started at its loudness; an expiry of the run cut short is still to come (R130, R131). -/
structure ToneStarted (pitch loudness : Nat) (d : Decay) (h t : Hub) : Prop where
  command : t.soundCommand = some (.tone pitch loudness d)
  tone : t.sounder.tone = .sounding
  level : t.sounder.level = loudness
  decay : t.sounder.decay = decayTimer d loudness
  cut : t.sounder.decayCut = h.sounder.decay.isSome

theorem toneStarted_startTone (command : h.soundCommand = some (.tone pitch loudness d)) :
    ToneStarted pitch loudness d h h.startTone := by
  rw [startTone_tone command]
  exact ⟨command, rfl, rfl, rfl, rfl⟩

/-- The expiry of the run cut short leaves the commanded loudness. -/
theorem ToneStarted.expiry (started : ToneStarted pitch loudness d h t) (cut : h.sounder.decay.isSome = true) :
    t.decayExpires.sounder.level = loudness ∧ t.decayExpires.sounder.decay = decayTimer d loudness := by
  have marked : t.sounder.decayCut = true := started.cut.trans cut
  unfold decayExpires
  rw [started.tone, started.command]
  cases runs : t.sounder.decay with
  | none => exact ⟨started.level, started.decay⟩
  | some k =>
    dsimp only
    rw [modSounder_sounder, if_pos marked]
    exact ⟨started.level, started.decay⟩

/-! ## A command change -/

/-- The part a tone starts on: every chime has been cut. -/
def uncut (h : Hub) : Hub := if h.sounder.engine == .ready then h else h.emptyChimes

theorem emptyChimes_sounder (h : Hub) : h.emptyChimes.sounder = { h.sounder with queue := [], engine := .ready } := by
  unfold emptyChimes
  rw [modSounder_sounder, giveChimesDone_sounder]

theorem uncut_sounder (idle : h.sounder.engine = .ready ↔ h.sounder.queue = []) :
    h.uncut.sounder = { h.sounder with queue := [], engine := .ready } := by
  unfold uncut
  split
  · next ready =>
    have engine : h.sounder.engine = .ready := eq_of_beq ready
    rw [← engine, ← idle.mp engine]
  · exact emptyChimes_sounder h

theorem uncut_channels (h : Hub) : h.uncut.channels = h.channels := by
  unfold uncut emptyChimes
  split
  · rfl
  · exact (drive_giveChimesDone (fun _ => true) _ h).same

theorem uncut_decay (h : Hub) : h.uncut.sounder.decay = h.sounder.decay := by
  unfold uncut
  split
  · rfl
  · rw [emptyChimes_sounder]

theorem uncut_command (h : Hub) : h.uncut.soundCommand = h.soundCommand := by
  unfold soundCommand
  rw [chan_of_channels (uncut_channels h)]

theorem sounderTakes_tone (running : h.sounder.cond = .running) (command : h.soundCommand = some (.tone pitch loudness d)) :
    h.sounderTakes true = h.uncut.startTone := by
  unfold sounderTakes
  rw [running, command]
  rfl

theorem toneStarted_takes (running : h.sounder.cond = .running)
    (command : h.soundCommand = some (.tone pitch loudness d)) :
    ToneStarted pitch loudness d h (h.sounderTakes true) := by
  rw [sounderTakes_tone running command]
  have started := toneStarted_startTone ((uncut_command h).trans command)
  exact { started with cut := started.cut.trans (by rw [uncut_decay]) }

theorem sounderTakes_off (running : h.sounder.cond = .running) (command : h.soundCommand = some .off) :
    h.sounderTakes true = { h with sounder := { h.sounder with tone := .silent, decay := none } } := by
  unfold sounderTakes
  rw [running, command]
  rfl

theorem hasFlag_giveChimesDone {x : Chime} {xs : List Chime} (mem : x ∈ xs) (live : h.attached x.port = true) :
    (h.giveChimesDone xs).hasFlag x.port .chimeDone = true := by
  induction xs generalizing h with
  | nil => exact absurd mem List.not_mem_nil
  | cons y ys ih =>
    have told := tells_giveFlag y.port .chimeDone h
    change ((h.giveFlag y.port .chimeDone).giveChimesDone ys).hasFlag x.port .chimeDone = true
    rcases List.mem_cons.mp mem with own | later
    · subst own
      refine (drive_giveChimesDone (fun _ => true) ys _).toReach.flagsGain _ _ ?_
      rw [port_giveFlag, if_pos ⟨rfl, live⟩, BitVec.getLsbD_or, Flag.word_bit]
      simp
    · exact ih later ((told.attached _).trans live)

theorem uncut_told (idle : h.sounder.engine = .ready ↔ h.sounder.queue = []) {x : Chime} (mem : x ∈ h.sounder.queue)
    (live : h.attached x.port = true) : h.uncut.hasFlag x.port .chimeDone = true := by
  unfold uncut
  split
  · next ready =>
    rw [idle.mp (eq_of_beq ready)] at mem
    exact absurd mem List.not_mem_nil
  · exact hasFlag_giveChimesDone mem live

/-! ## A CLAIM that says the same again -/

/-- A replacement leaves the port's claim at the value it names. -/
theorem value_of_replaceEdit {claims : List Claim} {old x : Claim} {level : Nat} {value : Command} {policy : Policy}
    (own : claimOf p claims = some old) (mem : x ∈ replaceEdit p level value policy claims) (mine : x.port = p) :
    x.value = value := by
  rw [replaceEdit_eq own] at mem
  unfold replacedClaims at mem
  split at mem
  · obtain ⟨y, _, rfl⟩ := List.mem_map.mp mem
    by_cases ours : y.port = p
    · rw [if_pos ours]
    · rw [if_neg ours] at mine
      exact absurd mine ours
  · rcases List.mem_cons.mp ((insertClaim_perm ..).mem_iff.mp mem) with rfl | rest
    · rfl
    · simp [withoutPort, mine] at rest

/-- The first claim of a port is its own. -/
theorem claimOf_head {claims : List Claim} {x : Claim} (first : claims.head? = some x) : claimOf x.port claims = some x := by
  cases claims with
  | nil => cases first
  | cons y ys =>
    obtain rfl : y = x := Option.some.inj first
    simp [claimOf]

variable {c : Fin 23} {old : Claim} {level : Nat} {value : Command} {policy : Policy}

/-- The part as a replacement forms it: the list holds the value named, its handover is settled. -/
structure Replaced (p : Port) (c : Fin 23) (old : Claim) (level : Nat) (value : Command) (h m : Hub) : Prop where
  relisted : Relisted c h m
  value : ∀ x, (m.chan c).claims.head? = some x → x.port = p → x.value = value
  winner : old.level = level → m.winnerPort c = h.winnerPort c

theorem replaceEdit_ports {claims : List Claim} (own : claimOf p claims = some old) (same : old.level = level) :
    (replaceEdit p level value policy claims).head?.map (·.port) = claims.head?.map (·.port) := by
  have mine : old.port = p := by simpa using List.find?_some own
  rw [replaceEdit_eq own, replacedClaims, if_pos same, List.head?_map, Option.map_map]
  congr 1
  funext x
  dsimp only [Function.comp]
  split
  · next port => exact mine.trans port.symm
  · rfl

theorem replaced_edit {kind : EditKind} (other : kind ≠ .orphaned) (own : claimOf p (h.chan c).claims = some old) :
    ∃ m, h.editClaims c p kind (replaceEdit p level value policy) = m.form c .edit ∧
      Replaced p c old level value h m := by
  have listed : ((settleEdit c p kind (h.modChan c fun x => { x with claims := replaceEdit p level value policy x.claims })).chan
      c).claims = replaceEdit p level value policy (h.chan c).claims := by
    rw [settleEdit_claims _ _ _ _ other, chan_modChan, if_pos rfl]
  refine ⟨_, rfl, (relisted_modChan rfl).trans (relisted_settleEdit ..), fun x first mine => ?_, fun same => ?_⟩
  · rw [listed] at first
    exact value_of_replaceEdit own (List.mem_of_head? first) mine
  · rw [winnerPort, listed, replaceEdit_ports own same]
    rfl

theorem replaced_of_claim (own : claimOf p (h.chan c).claims = some old) (same : old.value = value) :
    ∃ m, (if old.level ≠ level then h.editClaims c p .levelChanged (replaceEdit p level value policy)
        else if old.value = value ∧ old.policy = policy then h.form c .edit
        else h.editClaims c p .valueChanged (replaceEdit p level value policy)) = m.form c .edit ∧
      Replaced p c old level value h m := by
  split
  · exact replaced_edit (by decide) own
  · split
    · refine ⟨h, rfl, .refl c h, fun x first mine => ?_, fun _ => rfl⟩
      obtain rfl : x = old := Option.some.inj ((claimOf_head first).symm.trans (by rw [mine]; exact own))
      exact same
    · exact replaced_edit (by decide) own

/-- A winner's value is what its channel's forming makes effective. -/
theorem formedPair_winner {stay : Option Command} (value_ : ∀ x, (m.chan c).claims.head? = some x → x.port = p → x.value = value)
    (won : m.winnerPort c = some p) : ∃ source, m.formedPair c stay = ⟨value, source⟩ := by
  unfold winnerPort at won
  cases claims : (m.chan c).claims with
  | nil => rw [claims] at won; cases won
  | cons x rest =>
    rw [claims] at won value_
    rw [formedPair_claim claims, value_ x rfl (Option.some.inj won)]
    exact ⟨_, rfl⟩

end

section
variable {p : Port} {h m t : Hub} {pitch loudness : Nat} {d : Decay} {old : Claim} {level : Nat}

theorem soundCommand_taken {pair : Pair} (h : Hub) :
    (h.modChan soundChannel fun x => { x with taken := some pair }).soundCommand = some pair.command := by
  rw [soundCommand, chan_modChan, if_pos rfl]
  rfl

/-- The tone that a forming leaves the engine with: started, or the one it has already. -/
theorem form_tone (run : m.mode = .run) (running : m.sounder.cond = .running) {source : Source}
    (pair : m.formedPair soundChannel (m.stayAfter soundChannel .edit) = ⟨.tone pitch loudness d, source⟩) :
    ((m.chan soundChannel).taken.map Pair.command = some (.tone pitch loudness d) →
      (m.form soundChannel .edit).sounder = m.sounder ∧
        (m.form soundChannel .edit).soundCommand = some (.tone pitch loudness d)) ∧
    ((m.chan soundChannel).taken.map Pair.command ≠ some (.tone pitch loudness d) →
      ToneStarted pitch loudness d m (m.form soundChannel .edit)) := by
  have sounder : (m.formedUp soundChannel .edit).sounder = m.sounder := by rw [formedUp_rest]
  refine ⟨fun holds => ?_, fun other => ?_⟩
  · by_cases taken : (m.chan soundChannel).taken = some (m.formedPair soundChannel (m.stayAfter soundChannel .edit))
    · rw [form_taken run _ _ taken]
      exact ⟨sounder, by rw [soundCommand, taken_formedUp]; exact holds⟩
    · rw [form_handedOver run _ _ taken, pair, decide_eq_false fun other => other holds, handOverAs_sound, sounderTakes_source]
      exact ⟨sounder, soundCommand_taken _⟩
  · have differs : (m.chan soundChannel).taken ≠ some (m.formedPair soundChannel (m.stayAfter soundChannel .edit)) :=
      fun taken => other (by rw [taken, pair]; rfl)
    rw [form_handedOver run _ _ differs, pair, decide_eq_true other, handOverAs_sound]
    have started := toneStarted_takes (h := (m.formedUp soundChannel .edit).modChan soundChannel fun x =>
      { x with taken := some ⟨.tone pitch loudness d, source⟩ }) (by rw [modChan_sounder, sounder]; exact running)
      (soundCommand_taken _)
    exact { started with cut := started.cut.trans (by rw [modChan_sounder, sounder]) }

theorem renewIfEqual_renews {new : Command} {before : Hub} (run : h.mode = .run) (running : h.sounder.cond = .running)
    (held : (before.chan soundChannel).taken.map Pair.command = some new) (won : h.winnerPort soundChannel = some p) :
    h.renewIfEqual p soundChannel new new before = h.startTone := by
  unfold renewIfEqual renewSound sounderRenewed
  rw [won, running]
  simp [held, run]

theorem renewIfEqual_stays {c : Fin 23} {old new : Command} {before : Hub}
    (other : (before.chan c).taken.map Pair.command ≠ some new) : h.renewIfEqual p c old new before = h := by
  unfold renewIfEqual
  simp [other]

/-- A CLAIM of the value the port holds already: where its claim then wins, the tone starts (R29, R132). -/
theorem replaceClaim_tone {policy : Policy} (run : h.mode = .run) (running : h.sounder.cond = .running)
    (own : claimOf p (h.chan soundChannel).claims = some old) (same : old.value = .tone pitch loudness d) :
    ∃ t, h.replaceClaim p soundChannel level (.tone pitch loudness d) policy old = t.respondPlace p soundChannel .replaced ∧
      (old.level = level → t.winnerPort soundChannel = h.winnerPort soundChannel) ∧
      (t.winnerPort soundChannel = some p → ToneStarted pitch loudness d h t) := by
  obtain ⟨m, formed, replaced⟩ := replaced_of_claim (level := level) (policy := policy) own same
  have rest := replaced.relisted.rest
  have mode : m.mode = .run := by rw [rest]; exact run
  have sounder : m.sounder = h.sounder := by rw [rest]
  have taken : (m.chan soundChannel).taken = (h.chan soundChannel).taken := by rw [replaced.relisted.chan]
  refine ⟨(m.form soundChannel .edit).renewIfEqual p soundChannel old.value (.tone pitch loudness d) h, ?_, ?_⟩
  · unfold replaceClaim
    dsimp only
    rw [formed]
  · have winner : ((m.form soundChannel .edit).renewIfEqual p soundChannel old.value (.tone pitch loudness d) h).winnerPort
        soundChannel = m.winnerPort soundChannel := by
      rw [winnerPort, chan_of_channels (drive_renewIfEqual ..).same, chan_form, if_pos rfl, formedChannel_claims]
      rfl
    refine ⟨fun level => winner.trans (replaced.winner level), fun won => ?_⟩
    rw [winner] at won
    obtain ⟨source, pair⟩ := formedPair_winner (stay := m.stayAfter soundChannel .edit) replaced.value won
    obtain ⟨holds, starts⟩ := form_tone mode (by rw [sounder]; exact running) pair
    rw [taken] at holds starts
    by_cases held : (h.chan soundChannel).taken.map Pair.command = some (.tone pitch loudness d)
    · obtain ⟨kept, command⟩ := holds held
      have wins : (m.form soundChannel .edit).winnerPort soundChannel = some p := by
        rw [winnerPort, chan_form, if_pos rfl, formedChannel_claims]
        exact won
      rw [same, renewIfEqual_renews ((form_mode ..).trans mode) (by rw [kept, sounder]; exact running) held wins]
      have started := toneStarted_startTone command
      exact { started with cut := started.cut.trans (by rw [kept, sounder]) }
    · rw [renewIfEqual_stays held]
      have started := starts held
      exact { started with cut := started.cut.trans (by rw [sounder]) }

end
end Hub

open Hub

theorem exec_decayTimerExpiry (s : State) : exec .decayTimerExpiry s = .next { s with hub := s.hub.decayExpires } := rfl

/-- Settles O36: a command change by what the engine takes; a CLAIM that repeats its value by whether it then wins. -/
theorem tonesTakeTheSounderOverAndRenew : Obligations.TonesTakeTheSounderOverAndRenew := by
  unfold Obligations.TonesTakeTheSounderOverAndRenew
  refine ⟨fun h running idle => ⟨fun pitch loudness d command => ⟨?_, fun cut s => ?_, fun x mem live => ?_⟩,
      sounderTakes_off running⟩,
    fun p lv v pol policy pitch loudness d old s asks run running low high may fits kept own same => ?_⟩
  · rw [sounderTakes_tone running command, startTone_tone ((uncut_command h).trans command), modSounder_sounder,
      uncut_sounder idle]
  · exact ⟨_, exec_decayTimerExpiry _, (toneStarted_takes running command).expiry cut⟩
  · rw [sounderTakes_tone running command]
    exact (drive_startTone (C := fun _ => true) rfl _).toReach.flagsGain _ _ (uncut_told idle mem live)
  · have taken := exec_claim_taken (ch := 20) (c := soundChannel) (pol := pol) asks (by rw [run]; decide) rfl low high may
      fits kept
    rw [own] at taken
    obtain ⟨t, replaced, winner, starts⟩ := replaceClaim_tone (h := Hub.restartLease p s.hub) (p := p) (level := lv.toNat)
      (policy := policy) (by simpa using run) (by simpa using running) (by simpa using own) same
    rw [restartLease_winnerPort] at winner
    have tone (won : t.winnerPort soundChannel = some p) : ToneStarted pitch loudness d s.hub t := by
      have started := starts won
      exact { started with cut := started.cut.trans (by rw [restartLease_sounder]) }
    refine ⟨t.respondPlace p soundChannel .replaced, ?_, winner, fun won => ?_, fun won cut => ?_⟩
    · rw [taken]
      dsimp only
      rw [replaced]
    · exact ⟨(tone won).tone, (tone won).level, (tone won).decay⟩
    · have started : ToneStarted pitch loudness d s.hub (t.respondPlace p soundChannel .replaced) :=
        ⟨(tone won).command, (tone won).tone, (tone won).level, (tone won).decay, (tone won).cut⟩
      exact ⟨_, exec_decayTimerExpiry _, started.expiry cut⟩

end Sys2Proof.Machine
end

section
/-! Slots and setpoints: what an event writes, and how it is settled (R149 to R164). -/

namespace Sys2Proof.Machine
namespace Hub

section
variable {h m t before : Hub} {c : Fin 23} {k : Fin 8}

/-! ## Settling -/

theorem formLayer_claims (h : Hub) (c k : Fin 23) :
    ((h.formLayer c).chan k).claims = (h.chan k).claims ∧ ((h.formLayer c).chan k).handover = (h.chan k).handover := by
  unfold formLayer passInput
  dsimp only
  split
  · exact ⟨rfl, rfl⟩
  · rw [chan_form]
    split
    · next same =>
      subst same
      rw [formedChannel, chan_modChan, if_pos rfl]
      exact ⟨rfl, rfl⟩
    · next other =>
      rw [chan_modChan, if_neg other]
      exact ⟨rfl, rfl⟩

theorem formLayers_claims (xs : List (Fin 23)) (h : Hub) (c : Fin 23) :
    ((xs.foldl formLayer h).chan c).claims = (h.chan c).claims ∧
      ((xs.foldl formLayer h).chan c).handover = (h.chan c).handover :=
  List.foldlRecOn (motive := fun t : Hub => (t.chan c).claims = (h.chan c).claims ∧
    (t.chan c).handover = (h.chan c).handover) xs formLayer ⟨rfl, rfl⟩ fun t so k _ =>
      ⟨(formLayer_claims t k c).1.trans so.1, (formLayer_claims t k c).2.trans so.2⟩

theorem formLayers_input (xs : List (Fin 23)) (h : Hub) (c : Fin 23) :
    ((xs.foldl formLayer h).chan c).input = if c ∈ xs then h.localLayer c else (h.chan c).input := by
  induction xs generalizing h with
  | nil => simp
  | cons k xs ih =>
    rw [List.foldl_cons, ih, localLayer_of_reach (reach_formLayer_any h k), formLayer_input]
    by_cases later : c ∈ xs
    · simp [later]
    · by_cases here : c = k
      · simp [here]
      · simp [here, later]

theorem reach_formLayers (xs : List (Fin 23)) (h : Hub) : Reach (fun c => xs.contains c) h (xs.foldl formLayer h) :=
  reach_editsAt formLayer (fun h _ own => reach_formLayer own h) xs h fun c mem => by simpa using mem

theorem channelsTouched_congr (same : before.setpoints = h.setpoints) (also : List (Fin 21)) :
    channelsTouched before m also = channelsTouched h m also := by
  have changed : drivingChanged before m = drivingChanged h m := by
    funext n
    unfold drivingChanged driving setpoint
    rw [same]
  unfold channelsTouched
  rw [changed]

theorem channelsTouched_none (still : ∀ n, drivingChanged h m n = false) : channelsTouched h m [] = [] := by
  simp [channelsTouched, still]

/-- What an event leaves that has written slots and setpoints and then settles. -/
theorem settled_settleSetpoints (same : before.setpoints = h.setpoints) : Settled h m (m.settleSetpoints before []) := by
  have changed : drivingChanged before m = drivingChanged h m := by
    funext n
    unfold drivingChanged driving setpoint
    rw [same]
  unfold settleSetpoints
  rw [channelsTouched_congr same, changed]
  dsimp only
  have passed := reach_formLayers (channelsTouched h m []) m
  have told := reach_giveAll (fun c => (channelsTouched h m []).contains c) .setpoint
    ((channelsTouched h m []).foldl formLayer m)
  have chans (c : Fin 23) : ((((channelsTouched h m []).foldl formLayer m).giveAll .setpoint).chan c) =
      ((channelsTouched h m []).foldl formLayer m).chan c := by
    rw [giveAll_rest]
    rfl
  constructor
  · split
    · exact passed.trans told
    · exact passed
  · intro c
    split
    · rw [chans]; exact formLayers_claims _ m c
    · exact formLayers_claims _ m c
  · intro c touched
    have taken : ((((channelsTouched h m []).foldl formLayer m).chan c).input) = m.localLayer c := by
      rw [formLayers_input, if_pos (by simpa using touched)]
    split
    · rw [chans]; exact taken
    · exact taken
  · rintro ⟨n, moved⟩ p live
    rw [if_pos (List.any_eq_true.mpr ⟨n, List.mem_finRange n, moved⟩)]
    exact hasFlag_giveAll ((passed.attached p).trans live)
  · intro still
    rw [if_neg (by simp [still]), channelsTouched_none still]
    rfl

/-- An event that has moved no setpoint has nothing to settle. -/
theorem settled_still (same : m.setpoints = h.setpoints) : Settled h m m := by
  have still (n : Fin 16) : drivingChanged h m n = false := by
    unfold drivingChanged driving setpoint
    rw [same]
    simp
  have settled := settled_settleSetpoints (h := h) (m := m) (before := h) rfl
  rwa [settled.untold still] at settled

/-! ## Writing setpoints -/

theorem mem_setpointsOn {n : Fin 16} :
    n ∈ h.setpointsOn k ↔ (h.work.setpoints[n].enabled && h.work.setpoints[n].slot == k) = true := by
  simp [setpointsOn, setpointItem]

/-- Each setpoint of a list is written once, from its own state. -/
theorem foldl_setpoints (f : Hub → Fin 16 → Hub) (g : Fin 16 → Setpoint → Setpoint) (xs : List (Fin 16)) (nodup : xs.Nodup)
    (h : Hub) (each : ∀ (v : Vector Setpoint 16) (n : Fin 16), n ∈ xs →
      f { h with setpoints := v } n = { h with setpoints := v }.setSetpoint n (g n v[n])) :
    xs.foldl f h = { h with setpoints := (xs.foldl f h).setpoints } ∧
      ∀ n, (xs.foldl f h).setpoint n = if n ∈ xs then g n (h.setpoint n) else h.setpoint n := by
  induction xs generalizing h with
  | nil => exact ⟨rfl, fun n => by simp⟩
  | cons k xs ih =>
    obtain ⟨apart, rest⟩ := List.nodup_cons.mp nodup
    have first : f h k = { h with setpoints := h.setpoints.set k (g k (h.setpoint k)) } :=
      each h.setpoints k List.mem_cons_self
    obtain ⟨only, wrote⟩ := ih rest (f h k) fun v n mem => by
      rw [first]
      exact each v n (List.mem_cons_of_mem k mem)
    rw [List.foldl_cons]
    refine ⟨?_, fun n => ?_⟩
    · refine only.trans ?_
      generalize (xs.foldl f (f h k)).setpoints = v
      rw [first]
    · rw [wrote, show f h k = h.setSetpoint k (g k (h.setpoint k)) from first, setpoint_setSetpoint]
      by_cases here : k = n
      · subst here
        rw [if_pos rfl, if_neg apart, if_pos List.mem_cons_self]
      · rw [if_neg here]
        simp [Ne.symm here]

theorem setpointsOn_nodup (k : Fin 8) (h : Hub) : (h.setpointsOn k).Nodup := (List.nodup_finRange 16).filter _

/-- The setpoints of a slot are evaluated on its value (R157). -/
theorem evaluateAll (k : Fin 8) (h : Hub) :
    (h.setpointsOn k).foldl evaluate h = { h with setpoints := ((h.setpointsOn k).foldl evaluate h).setpoints } ∧
      ∀ n, ((h.setpointsOn k).foldl evaluate h).setpoint n =
        if (h.work.setpoints[n].enabled && h.work.setpoints[n].slot == k) = true then
          (h.setpoint n).evaluated h.work.setpoints[n] (h.slot k).value
        else h.setpoint n := by
  obtain ⟨only, wrote⟩ := foldl_setpoints evaluate
    (fun n x => x.evaluated h.work.setpoints[n] (h.slot h.work.setpoints[n].slot).value) (h.setpointsOn k)
    (setpointsOn_nodup k h) h fun v n _ => rfl
  refine ⟨only, fun n => ?_⟩
  rw [wrote]
  by_cases mem : n ∈ h.setpointsOn k
  · have on := mem_setpointsOn.mp mem
    have slot : h.work.setpoints[n].slot = k := by
      rw [Bool.and_eq_true, beq_iff_eq] at on
      exact on.2
    rw [if_pos mem, if_pos on, slot]
  · rw [if_neg mem, if_neg (mt mem_setpointsOn.mpr mem)]

/-- The setpoints of a slot enter their fail states (R154). -/
theorem failAll (xs : List (Fin 16)) (nodup : xs.Nodup) (h : Hub) :
    xs.foldl failSetpoint h = { h with setpoints := (xs.foldl failSetpoint h).setpoints } ∧
      ∀ n, (xs.foldl failSetpoint h).setpoint n = if n ∈ xs then failed h.work.setpoints[n] else h.setpoint n :=
  foldl_setpoints failSetpoint (fun n _ => failed h.work.setpoints[n]) xs nodup h fun _ _ _ => rfl

end
end Hub
end Sys2Proof.Machine
end

section
/-! SAMPLE and ZERO, the expiries of freshness and delay timers, ACK_SETPOINT (R150 to R162). -/

namespace Sys2Proof.Machine
namespace Hub

section
variable {h m t b : Hub} {k j : Fin 8} {n : Fin 16}

theorem Settled.slot (settled : Settled h m t) (k : Fin 8) : t.slot k = m.slot k := by
  unfold Hub.slot
  rw [settled.reach.rest]

/-- A part with one slot written, the others as they were. -/
theorem slotWritten (k : Fin 8) (x : Slot) (slots : b.slots = h.slots) :
    (b.setSlot k x).slot k = x ∧ ∀ j, j ≠ k → (b.setSlot k x).slot j = h.slot j := by
  refine ⟨by rw [slot_setSlot, if_pos rfl], fun j other => ?_⟩
  rw [slot_setSlot, if_neg (Ne.symm other), Hub.slot, slots]
  rfl

/-- A slot is written and its setpoints are evaluated on it, settled (R157, R163). -/
theorem evaluateSlot_settled (k : Fin 8) (x : Slot) (slots : b.slots = h.slots) (setpoints : b.setpoints = h.setpoints) :
    ∃ m, m = { b with slots := m.slots, setpoints := m.setpoints } ∧ m.slot k = x ∧
      (∀ j, j ≠ k → m.slot j = h.slot j) ∧
      (∀ n, m.setpoint n =
        if (b.work.setpoints[n].enabled && b.work.setpoints[n].slot == k) = true then
          (h.setpoint n).evaluated b.work.setpoints[n] x.value
        else h.setpoint n) ∧
      Settled h m ((b.setSlot k x).evaluateSlot k) := by
  obtain ⟨only, wrote⟩ := evaluateAll k (b.setSlot k x)
  obtain ⟨own, others⟩ := slotWritten k x slots
  refine ⟨((b.setSlot k x).setpointsOn k).foldl evaluate (b.setSlot k x), ?_, ?_, fun j other => ?_, fun n => ?_,
    settled_settleSetpoints setpoints⟩
  · rw [only]; rfl
  · rw [only]; exact own
  · rw [only]; exact others j other
  · rw [wrote, own, setSlot_work, setSlot_setpoint]
    unfold setpoint
    rw [setpoints]

/-- The slot as a SAMPLE leaves it (R150). -/
def sampledSlot (k : Fin 8) (raw : Int) (h : Hub) : Slot :=
  let i := h.work.slots[k]
  ⟨.fresh, sampledValue i h.work.calibration[k] (h.slot k).value raw,
    if i.freshness = 0 then none else some (Config.ms (100 * i.freshness)), (h.slot k).timer.isSome⟩

theorem takeSample_eq (k : Fin 8) (raw : Int) (h : Hub) :
    h.takeSample k raw = (h.setSlot k (h.sampledSlot k raw)).evaluateSlot k := rfl

/-- A slot after a ZERO (R153). -/
def zeroedSlot (amount : Int) (x : Slot) : Slot := { x with value := zeroedValue x.value amount }

theorem takeZero_fresh {amount : Int} (fresh : (h.slot k).state = .fresh) :
    h.takeZero k amount = (h.setSlot k (zeroedSlot amount (h.slot k))).evaluateSlot k := by
  unfold takeZero
  exact if_pos fresh

theorem takeZero_other {amount : Int} (other : (h.slot k).state ≠ .fresh) :
    h.takeZero k amount = h.setSlot k (zeroedSlot amount (h.slot k)) := by
  unfold takeZero
  exact if_neg other

theorem withinLimit_false (x : Int) : withinLimit x = false ↔ x < -2000000000 ∨ 2000000000 < x := by
  unfold withinLimit Config.valueLimit
  simp only [decide_eq_false_iff_not]
  omega

theorem notSource_iff {p : Port} {slot : Byte} :
    h.notSource p slot = true ↔ ∃ k, indexOf 8 slot = some k ∧ h.work.slots[k].source ≠ p := by
  simp [notSource, Option.any_eq_true, slotItem]

theorem levelSlot_iff {slot : Byte} :
    h.levelSlot slot = true ↔ ∃ k, indexOf 8 slot = some k ∧ h.work.slots[k].mode = .level := by
  simp [levelSlot, Option.any_eq_true, slotItem]

/-- The checks of SAMPLE after the standing ones. -/
def sampleChecks (p : Port) (slot : Byte) (raw : BitVec 32) (h : Hub) : List (Bool × Result) :=
  [(h.mode == .faultHold, .startupFault), ((indexOf 8 slot : Option (Fin 8)).isNone, .badValue),
    (!withinLimit raw.toInt, .badValue), (h.notSource p slot, .notSource)]

/-- The checks of ZERO after the standing ones. -/
def zeroChecks (p : Port) (slot : Byte) (amount : BitVec 32) (h : Hub) : List (Bool × Result) :=
  [(h.mode == .faultHold, .startupFault),
    ((indexOf 8 slot : Option (Fin 8)).isNone || !withinLimit amount.toInt, .badValue),
    (h.notSource p slot, .notSource), (h.levelSlot slot, .badSlotMode)]

end
end Hub

open Hub

section
variable {p : Port} {slot : Byte} {x : BitVec 32} {k : Fin 8} {s : State}

theorem exec_sample (p : Port) (slot : Byte) (raw : BitVec 32) (s : State) :
    exec (.sample p slot raw) s = onRequest p (fun h => h.refuseFirst p (h.standing p ++ h.sampleChecks p slot raw)
      (match indexOf 8 slot with
       | some k => (h.takeSample k raw.toInt).respondValue p k
       | none => h)) s := rfl

theorem exec_zero (p : Port) (slot : Byte) (amount : BitVec 32) (s : State) :
    exec (.zero p slot amount) s = onRequest p (fun h => h.refuseFirst p (h.standing p ++ h.zeroChecks p slot amount)
      (match indexOf 8 slot with
       | some k => (h.takeZero k amount.toInt).respondValue p k
       | none => h)) s := rfl

theorem notSource_of_source (named : indexOf 8 slot = some k) (own : s.hub.work.slots[k].source = p) :
    (restartLease p s.hub).notSource p slot = false := by
  rw [Bool.eq_false_iff, Ne, notSource_iff]
  rintro ⟨j, there, other⟩
  obtain rfl : k = j := Option.some.inj (named.symm.trans there)
  rw [restartLease_work] at other
  exact other own

theorem withinLimit_of (low : -2000000000 ≤ x.toInt) (high : x.toInt ≤ 2000000000) : withinLimit x.toInt = true := by
  rw [← Bool.not_eq_false, withinLimit_false]
  omega

theorem exec_sample_taken (asks : s.hub.MayAsk p) (open_ : s.hub.mode ≠ .faultHold) (named : indexOf 8 slot = some k)
    (low : -2000000000 ≤ x.toInt) (high : x.toInt ≤ 2000000000) (own : s.hub.work.slots[k].source = p) :
    exec (.sample p slot x) s = .next { s with
      hub := ((restartLease p s.hub).takeSample k x.toInt).respondValue p k } := by
  rw [exec_taken asks (exec_sample p slot x s), named]
  simp [sampleChecks, open_, named, withinLimit_of low high, notSource_of_source named own]

theorem exec_zero_taken (asks : s.hub.MayAsk p) (open_ : s.hub.mode ≠ .faultHold) (named : indexOf 8 slot = some k)
    (low : -2000000000 ≤ x.toInt) (high : x.toInt ≤ 2000000000) (own : s.hub.work.slots[k].source = p)
    (total : s.hub.work.slots[k].mode = .total) :
    exec (.zero p slot x) s = .next { s with
      hub := ((restartLease p s.hub).takeZero k x.toInt).respondValue p k } := by
  have summed : (restartLease p s.hub).levelSlot slot = false := by
    rw [Bool.eq_false_iff, Ne, levelSlot_iff]
    rintro ⟨j, there, level⟩
    obtain rfl : k = j := Option.some.inj (named.symm.trans there)
    rw [restartLease_work, total] at level
    cases level
  rw [exec_taken asks (exec_zero p slot x s), named]
  simp [zeroChecks, open_, named, withinLimit_of low high, notSource_of_source named own, summed]

theorem sample_refused (asks : s.hub.MayAsk p) :
    RefusedInOrder (.sample p slot x) p s
      [(s.hub.mode = .faultHold, .startupFault), (7 < slot.toNat, .badValue),
        (x.toInt < -2000000000 ∨ 2000000000 < x.toInt, .badValue),
        (∃ k, indexOf 8 slot = some k ∧ s.hub.work.slots[k].source ≠ p, .notSource)] := by
  refine refusedInOrder_asked asks (checks := sampleChecks p slot x) (more := fun _ => []) (exec_sample p slot x s) ?_
  simp only [sampleChecks, checksFor_cons, checksFor_nil, and_true, indexOf_isNone, Bool.not_eq_true', withinLimit_false,
    notSource_iff, restartLease_work, restartLease_mode, beq_iff_eq]
  exact ⟨trivial, Nat.succ_le_iff⟩

theorem zero_refused (asks : s.hub.MayAsk p) :
    RefusedInOrder (.zero p slot x) p s
      [(s.hub.mode = .faultHold, .startupFault),
        (7 < slot.toNat ∨ (x.toInt < -2000000000 ∨ 2000000000 < x.toInt), .badValue),
        (∃ k, indexOf 8 slot = some k ∧ s.hub.work.slots[k].source ≠ p, .notSource),
        (∃ k, indexOf 8 slot = some k ∧ s.hub.work.slots[k].mode = .level, .badSlotMode)] := by
  refine refusedInOrder_asked asks (checks := zeroChecks p slot x) (more := fun _ => []) (exec_zero p slot x s) ?_
  simp only [zeroChecks, checksFor_cons, checksFor_nil, and_true, Bool.or_eq_true, indexOf_isNone, Bool.not_eq_true',
    withinLimit_false, notSource_iff, levelSlot_iff, restartLease_work, restartLease_mode, beq_iff_eq]
  exact ⟨trivial, or_congr_left Nat.succ_le_iff⟩

end

/-- Settles O38: the slot is written, its setpoints evaluated, the rest settled; the refusals by the checks. -/
theorem samplesAndZeroesSetTheSlot : Obligations.SamplesAndZeroesSetTheSlot := by
  unfold Obligations.SamplesAndZeroesSetTheSlot
  refine ⟨fun p slot raw k s asks open_ named low high own => ?sample,
    fun p slot amount k s asks open_ named low high own total => ?zero,
    fun p slot x s asks => ⟨sample_refused asks, zero_refused asks⟩⟩
  case sample =>
    intro i value
    have taken := exec_sample_taken asks open_ named low high own
    generalize e : restartLease p s.hub = a at taken ⊢
    have slots : a.slots = s.hub.slots := by rw [← e, restartLease_slots]
    have setpoints : a.setpoints = s.hub.setpoints := by rw [← e, restartLease_setpoints]
    have new : a.sampledSlot k raw.toInt = ⟨.fresh, value, if i.freshness = 0 then none else some (Config.ms (100 * i.freshness)),
        (s.hub.slot k).timer.isSome⟩ := by
      subst e
      simp only [sampledSlot, restartLease_work, Hub.slot, slots]
      rfl
    obtain ⟨m, only, own_, others, wrote, settled⟩ := evaluateSlot_settled k (a.sampledSlot k raw.toInt) slots setpoints
    rw [new] at own_ wrote
    refine ⟨m, a.takeSample k raw.toInt, ?_, only, own_, others, fun n => ?_, settled⟩
    · rw [taken, respondValue, takeSample_eq, settled.slot, own_]
    · rw [wrote, ← e, restartLease_work]
  case zero =>
    intro old value
    have taken := exec_zero_taken asks open_ named low high own total
    generalize e : restartLease p s.hub = a at taken ⊢
    have slots : a.slots = s.hub.slots := by rw [← e, restartLease_slots]
    have setpoints : a.setpoints = s.hub.setpoints := by rw [← e, restartLease_setpoints]
    have before : a.slot k = s.hub.slot k := by rw [Hub.slot, slots]; rfl
    have new : zeroedSlot amount.toInt (a.slot k) = { s.hub.slot k with value := value } := by rw [before]; rfl
    by_cases fresh : (s.hub.slot k).state = .fresh
    · obtain ⟨m, only, own_, others, wrote, settled⟩ :=
        evaluateSlot_settled k (zeroedSlot amount.toInt (a.slot k)) slots setpoints
      rw [new] at own_ wrote
      refine ⟨m, a.takeZero k amount.toInt, ?_, only, own_, others, fun n => ?_, ?_⟩
      · rw [taken, respondValue, takeZero_fresh (by rw [before, fresh]), settled.slot, own_]
      · rw [wrote, ← e, restartLease_work]
        simp [fresh]
      · rw [takeZero_fresh (by rw [before, fresh])]
        exact settled
    · obtain ⟨own_, others⟩ := slotWritten k (zeroedSlot amount.toInt (a.slot k)) slots
      have ends : a.takeZero k amount.toInt = a.setSlot k (zeroedSlot amount.toInt (a.slot k)) :=
        takeZero_other (by rw [before]; exact fresh)
      refine ⟨_, a.setSlot k (zeroedSlot amount.toInt (a.slot k)), ?_, rfl, own_.trans new, others, fun n => ?_,
        settled_still setpoints⟩
      · rw [taken, respondValue, ends, own_, new]
      · rw [setSlot_setpoint, setpoint, setpoints, if_neg fun on => fresh on.1]
        rfl

end Sys2Proof.Machine
end

section
/-! The expiries of freshness and delay timers, and ACK_SETPOINT (R152 to R162). -/

namespace Sys2Proof.Machine
namespace Hub

section
variable {h m t b : Hub} {k : Fin 8} {n : Fin 16} {left : Nat}

theorem freshnessExpires_none (stopped : (h.slot k).timer = none) : h.freshnessExpires k = h := by
  unfold freshnessExpires
  dsimp only
  rw [stopped]

theorem freshnessExpires_cut (runs : (h.slot k).timer.isSome = true) (cut : (h.slot k).cut = true) :
    h.freshnessExpires k = h.setSlot k { h.slot k with cut := false } := by
  obtain ⟨left, timer⟩ := Option.isSome_iff_exists.mp runs
  unfold freshnessExpires
  dsimp only
  rw [timer]
  exact if_pos cut

/-- The part with the slot STALE and its source told, before its setpoints fail (R154). -/
def gonestale (k : Fin 8) (h : Hub) : Hub :=
  (h.giveFlag (h.slotItem k).source .slotStale).setSlot k { h.slot k with state := .stale, timer := none }

theorem freshnessExpires_whole (runs : (h.slot k).timer = some left) (whole : (h.slot k).cut = false) :
    h.freshnessExpires k = ((h.setpointsOn k).foldl failSetpoint (h.gonestale k)).settleSetpoints h [] := by
  have stale : (h.setSlot k { h.slot k with state := .stale, timer := none }).giveFlag (h.slotItem k).source .slotStale =
      h.gonestale k := by
    unfold gonestale giveFlag
    rw [setSlot_attached]
    split <;> rfl
  unfold freshnessExpires
  dsimp only
  rw [runs]
  dsimp only
  rw [if_neg (by simp [whole]), stale]

theorem giveFlag_rest (p : Port) (f : Flag) (h : Hub) : h.giveFlag p f = { h with ports := (h.giveFlag p f).ports } := by
  unfold giveFlag
  split <;> rfl

theorem delayExpires_none (stopped : (h.setpoint n).timer = none) : h.delayExpires n = h := by
  unfold delayExpires
  rw [stopped]

/-- One setpoint is written, the others stay, and what follows is settled. -/
theorem settled_setSetpoint (n : Fin 16) (x : Setpoint) (same : b.setpoints = h.setpoints) :
    b.setSetpoint n x = { b with setpoints := (b.setSetpoint n x).setpoints } ∧ (b.setSetpoint n x).setpoint n = x ∧
      (∀ j, j ≠ n → (b.setSetpoint n x).setpoint j = h.setpoint j) ∧
      Settled h (b.setSetpoint n x) ((b.setSetpoint n x).settleSetpoints b []) := by
  refine ⟨rfl, by rw [setpoint_setSetpoint, if_pos rfl], fun j other => ?_, settled_settleSetpoints same⟩
  rw [setpoint_setSetpoint, if_neg (Ne.symm other), setpoint, same]
  rfl

theorem notLatched_iff {setpoint : Byte} :
    h.notLatched setpoint = true ↔ ∃ n, indexOf 16 setpoint = some n ∧ (h.setpoint n).state ≠ .latched := by
  simp [notLatched, Option.any_eq_true]

/-- The checks of ACK_SETPOINT after the standing ones, without the last. -/
def ackChecks (setpoint : Byte) (h : Hub) : List (Bool × Result) :=
  [(h.mode == .faultHold, .startupFault), ((indexOf 16 setpoint : Option (Fin 16)).isNone, .badValue)]

end
end Hub

open Hub

theorem exec_ackSetpoint (p : Port) (setpoint : Byte) (s : State) :
    exec (.ackSetpoint p setpoint) s = onRequest p (fun h => h.refuseFirst p
      (h.standing p ++ (h.ackChecks setpoint ++ [(h.notLatched setpoint, .notLatched)]))
      (match indexOf 16 setpoint with
       | some n => (h.acknowledge n).respond p .ok []
       | none => h)) s := rfl

/-- Settles O41: by whether the timer runs and is cut; a whole run fails the slot's setpoints. -/
theorem freshnessExpiryFailsTheSetpoints : Obligations.FreshnessExpiryFailsTheSetpoints := by
  unfold Obligations.FreshnessExpiryFailsTheSetpoints
  refine ⟨fun k s => ⟨fun stopped => onEvent_still (freshnessExpires_none stopped),
    fun runs cut => onEvent_of_eq (freshnessExpires_cut runs cut)⟩, fun k left s runs whole => ?_⟩
  obtain ⟨only, wrote⟩ := failAll (s.hub.setpointsOn k) (setpointsOn_nodup k s.hub) (s.hub.gonestale k)
  have told := giveFlag_rest (s.hub.slotItem k).source .slotStale s.hub
  have slots : (s.hub.giveFlag (s.hub.slotItem k).source .slotStale).slots = s.hub.slots := by rw [told]
  have setpoints (n : Fin 16) : (s.hub.gonestale k).setpoint n = s.hub.setpoint n := by
    unfold gonestale
    rw [setSlot_setpoint, told]
    rfl
  have work : (s.hub.gonestale k).work = s.hub.work := by
    unfold gonestale
    rw [setSlot_work, told]
  obtain ⟨own, others⟩ := slotWritten k { s.hub.slot k with state := .stale, timer := none } slots
  refine ⟨_, _, onEvent_of_eq (freshnessExpires_whole runs whole), ?_, ?_, fun j other => ?_, fun n => ?_,
    settled_settleSetpoints rfl⟩
  · rw [only]; rfl
  · rw [only]
    exact own.trans (by simp [whole])
  · rw [only]; exact others j other
  · rw [wrote, setpoints, work]
    by_cases mem : n ∈ s.hub.setpointsOn k
    · rw [if_pos mem, if_pos (mem_setpointsOn.mp mem)]; rfl
    · rw [if_neg mem, if_neg (mt mem_setpointsOn.mpr mem)]

/-- Settles O42: the checks of ACK_SETPOINT; each event by the one setpoint it writes. -/
theorem delaysAndAcknowledgementsMoveOneSetpoint : Obligations.DelaysAndAcknowledgementsMoveOneSetpoint := by
  unfold Obligations.DelaysAndAcknowledgementsMoveOneSetpoint
  refine ⟨fun p setpoint s asks => ?refused, fun n s => ⟨fun stopped => onEvent_still (delayExpires_none stopped),
      fun runs cut => ?_⟩, fun n left s runs whole => ?expires,
    fun p setpoint n s asks open_ named => ⟨fun other => ?other, fun latched => ?taken⟩⟩
  case refused =>
    refine refusedInOrder_all asks (exec_ackSetpoint p setpoint s) ?_
    simp only [ackChecks, List.cons_append, List.nil_append, checksFor_cons, checksFor_nil, and_true, indexOf_isNone,
      notLatched_iff, restartLease_setpoint, restartLease_mode, beq_iff_eq]
    exact ⟨trivial, Nat.succ_le_iff⟩
  · obtain ⟨left, timer⟩ := Option.isSome_iff_exists.mp runs
    exact onEvent_of_eq (delayExpires_cut timer cut)
  case expires =>
    obtain ⟨only, own, others, settled⟩ := settled_setSetpoint (h := s.hub) n
      ((s.hub.setpoint n).delayEnds (s.hub.setpointItem n)) rfl
    refine ⟨_, _, onEvent_of_eq (delayExpires_whole runs whole), only, others, fun making => ?_, fun breaking => ?_, settled⟩
    · rw [own, Setpoint.delayEnds, making]
      dsimp only
      rw [whole]
    · rw [own, Setpoint.delayEnds, breaking]
      dsimp only
      rw [whole]
      rfl
  case other =>
    have answered := exec_asked asks (exec_ackSetpoint p setpoint s)
    have stays : (restartLease p s.hub).notLatched setpoint = true :=
      notLatched_iff.mpr ⟨n, named, by rw [restartLease_setpoint]; exact other⟩
    rw [answered, refuseFirst_first (x := (true, .notLatched))]
    simp [ackChecks, open_, named, stays]
  case taken =>
    have goes : (restartLease p s.hub).notLatched setpoint = false := by
      rw [Bool.eq_false_iff, Ne, notLatched_iff]
      rintro ⟨j, there, away⟩
      obtain rfl : n = j := Option.some.inj (named.symm.trans there)
      rw [restartLease_setpoint] at away
      exact away latched
    have taken := exec_taken asks (exec_ackSetpoint p setpoint s) (by simp [ackChecks, open_, named, goes])
    obtain ⟨only, own, others, settled⟩ := settled_setSetpoint (h := s.hub) (b := restartLease p s.hub) n .inactive
      (restartLease_setpoints ..)
    exact ⟨_, (restartLease p s.hub).acknowledge n, by rw [taken, named], only, own, others, settled⟩

end Sys2Proof.Machine
end

section
/-! HOLD: what the entry of HOLDING does to each engine (R106, R123, R125, R144, R167, R168). -/

namespace Sys2Proof.Machine
namespace Hub

/-! ## Ports that are told without a channel -/

/-- The ports have been given flags, and nothing else. -/
def FlagsOnly (h t : Hub) : Prop := ∀ q, t.port q = { h.port q with flags := (t.port q).flags }

section
variable {h t v : Hub} {u w : Fin 2}

theorem FlagsOnly.trans (a : FlagsOnly h t) (b : FlagsOnly t v) : FlagsOnly h v := fun q => by rw [b q, a q]

theorem FlagsOnly.of_ports (same : t.ports = h.ports) : FlagsOnly h t := fun q => by rw [port, same]; rfl

theorem flagsOnly_giveFlag (p : Port) (f : Flag) (h : Hub) : FlagsOnly h (h.giveFlag p f) := fun q => by
  rw [port_giveFlag]
  split <;> rfl

theorem flagsOnly_giveAll (f : Flag) (h : Hub) : FlagsOnly h (h.giveAll f) := fun q => by
  rw [port_giveAll]
  split <;> rfl

theorem flagsOnly_giveChimesDone (xs : List Chime) (h : Hub) : FlagsOnly h (h.giveChimesDone xs) :=
  List.foldlRecOn (motive := FlagsOnly h) xs _ (.of_ports rfl) fun t so d _ => so.trans (flagsOnly_giveFlag d.port .chimeDone t)

theorem flagsOnly_checkHeld (h : Hub) : FlagsOnly h h.checkHeld := by
  rcases checkHeld_cases h with same | ⟨_, _, passed⟩
  · rw [same]; exact .of_ports rfl
  · rw [passed]; exact flagsOnly_giveAll .holdEffective { h with mode := .held }

/-! ## The engines -/

theorem giveChimesDone_rest (xs : List Chime) (h : Hub) :
    h.giveChimesDone xs = { h with ports := (h.giveChimesDone xs).ports } := by
  refine List.foldlRecOn (motive := fun t : Hub => t = { h with ports := t.ports }) xs _ rfl fun t so d _ => ?_
  refine (giveFlag_rest d.port .chimeDone t).trans ?_
  generalize (t.giveFlag d.port .chimeDone).ports = v
  rw [so]

/-- A sounder that is FROZEN: silent, its chimes cut (R144). -/
def frozenSounder (x : Sounder) : Sounder :=
  { x with queue := [], engine := .ready, tone := .silent, decay := none, cond := .frozen }

theorem freezeSounder_eq (h : Hub) :
    h.freezeSounder = { h with
      ports := (h.giveChimesDone h.sounder.queue).ports, sounder := frozenSounder h.sounder } := by
  unfold freezeSounder silenceTone emptyChimes
  rw [giveChimesDone_rest]
  rfl

/-- A stepper at rest for a hold. -/
def Stepper.rested (x : Stepper) : Stepper :=
  { x with engine := .idle, lastDir := none, refReq := false, cond := .stopped }

/-- A stepper of a hub that enters HOLDING: in a step it drains, else it stops, a run that stands being aborted (R123, R125). -/
def Stepper.drained (x : Stepper) : Stepper :=
  match x.engine with
  | .idle => Stepper.rested x
  | .moving _ _ => { x with cond := .draining }
  | .referencing _ => { x with cond := .draining }
  | .paused => if x.ref == .referencing then Stepper.rested { x with ref := .unreferenced, runCount := 0 } else Stepper.rested x
  | .reversing _ => if x.ref == .referencing then Stepper.rested { x with ref := .unreferenced, runCount := 0 } else Stepper.rested x

theorem stepper_drainUnit (u : Fin 2) (h : Hub) : (h.drainUnit u).stepper u = Stepper.drained (h.stepper u) := by
  have rest (x : Hub) : (x.comeToRest u).stepper u = Stepper.rested (x.stepper u) := stepper_modStepper_same ..
  have abort : (h.abortRun u).stepper u = { h.stepper u with ref := .unreferenced, runCount := 0 } :=
    stepper_modStepper_same ..
  unfold drainUnit Stepper.drained
  cases e : (h.stepper u).engine with
  | idle => exact rest h
  | moving d k =>
    dsimp only
    rw [stepper_modStepper_same, e]
  | referencing k =>
    dsimp only
    rw [stepper_modStepper_same, e]
  | paused =>
    dsimp only
    split
    · rw [rest, abort]; rfl
    · exact rest h
  | reversing k =>
    dsimp only
    split
    · rw [rest, abort]; rfl
    · exact rest h

/-- The part with its relays and its sounder FROZEN for HOLDING. -/
def frozenForHold (h : Hub) : Hub := { h with mode := .holding }.freezeRelays.freezeSounder

/-- The part in HOLDING, before the hub may pass to HELD. -/
def inHolding (h : Hub) : Hub := (h.frozenForHold.drainUnit 0).drainUnit 1

theorem enterHolding_eq (h : Hub) : h.enterHolding = h.inHolding.checkHeld := rfl

theorem frozenForHold_eq (h : Hub) :
    h.frozenForHold = { h with
      mode := .holding, ports := h.frozenForHold.ports, relayCond := .frozen, relays := h.relays.map freezeRelay
      sounder := frozenSounder h.sounder } := by
  unfold frozenForHold
  rw [freezeSounder_eq]
  rfl

theorem frozenForHold_ports (h : Hub) :
    h.frozenForHold.ports = ({ h with mode := .holding }.freezeRelays.giveChimesDone h.sounder.queue).ports := by
  unfold frozenForHold
  rw [freezeSounder_eq]
  rfl

theorem inHolding_eq (h : Hub) :
    h.inHolding = { h.frozenForHold with
      steppers := h.inHolding.steppers, sounder := { h.frozenForHold.sounder with mute := h.inHolding.sounder.mute } } := by
  have first := (stepperOnly_drainUnit 0 h.frozenForHold).rest
  have second := (stepperOnly_drainUnit 1 (h.frozenForHold.drainUnit 0)).rest
  have ports : (h.frozenForHold.drainUnit 0).ports = h.frozenForHold.ports := drainUnit_ports ..
  have last : ((h.frozenForHold.drainUnit 0).drainUnit 1).ports = (h.frozenForHold.drainUnit 0).ports := drainUnit_ports ..
  unfold inHolding
  generalize (h.frozenForHold.drainUnit 0).drainUnit 1 = t at second last ⊢
  generalize h.frozenForHold.drainUnit 0 = m at first second ports last
  conv => lhs; rw [second, last, ports, first]

theorem stepper_inHolding (h : Hub) : ∀ w, h.inHolding.stepper w = Stepper.drained (h.stepper w) := by
  have frozen (w : Fin 2) : h.frozenForHold.stepper w = h.stepper w := by rw [frozenForHold_eq]; rfl
  have first := stepperOnly_drainUnit 0 h.frozenForHold
  have second := stepperOnly_drainUnit 1 (h.frozenForHold.drainUnit 0)
  intro w
  match w with
  | 0 => exact (second.others 0 (by decide)).trans (by rw [stepper_drainUnit, frozen])
  | 1 => exact (stepper_drainUnit 1 _).trans (by rw [first.others 1 (by decide), frozen])

theorem drained_step {x : Stepper}
    (steps : (∃ d k, x.engine = .moving d k) ∨ ∃ k, x.engine = .referencing k) :
    (Stepper.drained x).engine = x.engine ∧ (Stepper.drained x).cond = .draining := by
  unfold Stepper.drained
  rcases steps with ⟨d, k, e⟩ | ⟨k, e⟩ <;> rw [e] <;> exact ⟨rfl, rfl⟩

theorem drained_rests {x : Stepper} (rests : x.engine = .idle ∨ x.engine = .paused ∨ ∃ k, x.engine = .reversing k) :
    (Stepper.drained x).engine = .idle ∧ (Stepper.drained x).cond = .stopped ∧ (Stepper.drained x).refReq = false ∧ (Stepper.drained x).lastDir = none := by
  unfold Stepper.drained
  rcases rests with e | e | ⟨k, e⟩ <;> rw [e]
  · exact ⟨rfl, rfl, rfl, rfl⟩
  · dsimp only
    split <;> exact ⟨rfl, rfl, rfl, rfl⟩
  · dsimp only
    split <;> exact ⟨rfl, rfl, rfl, rfl⟩

theorem drained_aborts {x : Stepper} (stands : x.engine = .paused ∨ ∃ k, x.engine = .reversing k)
    (runs : x.ref = .referencing) : (Stepper.drained x).ref = .unreferenced ∧ (Stepper.drained x).runCount = 0 := by
  unfold Stepper.drained
  rcases stands with e | ⟨k, e⟩ <;> rw [e] <;> simp [runs, Stepper.rested]

theorem drained_pos (x : Stepper) : (Stepper.drained x).pos = x.pos := by
  unfold Stepper.drained
  cases x.engine <;> dsimp only <;> first | rfl | (split <;> rfl)

theorem drained_ref {x : Stepper} (away : x.ref ≠ .referencing) : (Stepper.drained x).ref = x.ref := by
  unfold Stepper.drained
  cases x.engine <;> simp [away, Stepper.rested]

/-! ## The entry -/

/-- What HOLDING leaves of the part. -/
theorem enterHolding_rest (h : Hub) :
    h.enterHolding = { h with
      mode := h.enterHolding.mode, ports := h.enterHolding.ports, relayCond := h.enterHolding.relayCond
      relays := h.enterHolding.relays, sounder := h.enterHolding.sounder, steppers := h.enterHolding.steppers } := by
  have passed : h.inHolding.checkHeld =
      { h.inHolding with mode := h.inHolding.checkHeld.mode, ports := h.inHolding.checkHeld.ports } := by
    rcases checkHeld_cases h.inHolding with same | ⟨_, _, passed⟩
    · rw [same]
    · rw [passed, giveAll_rest]
  have holding := inHolding_eq h
  have frozen := frozenForHold_eq h
  rw [enterHolding_eq]
  generalize h.inHolding.checkHeld = t at passed ⊢
  generalize h.inHolding = m at passed holding
  generalize h.frozenForHold = a at frozen holding
  rw [passed, holding, frozen]

theorem enterHolding_relays (h : Hub) :
    h.enterHolding.relayCond = .frozen ∧ ∀ r, h.enterHolding.relay r = freezeRelay (h.relay r) := by
  have relays : h.enterHolding.relays = h.inHolding.relays ∧ h.enterHolding.relayCond = h.inHolding.relayCond := by
    rw [enterHolding_eq]
    rcases checkHeld_cases h.inHolding with same | ⟨_, _, passed⟩
    · rw [same]; exact ⟨rfl, rfl⟩
    · rw [passed, giveAll_rest]; exact ⟨rfl, rfl⟩
  rw [inHolding_eq, frozenForHold_eq] at relays
  obtain ⟨relays, cond⟩ := relays
  refine ⟨cond, fun r => ?_⟩
  unfold relay
  rw [relays]
  simp

theorem enterHolding_sounder (h : Hub) :
    h.enterHolding.sounder = { frozenSounder h.sounder with mute := h.enterHolding.sounder.mute } := by
  have same : h.enterHolding.sounder = h.inHolding.sounder := by
    rw [enterHolding_eq]
    rcases checkHeld_cases h.inHolding with same | ⟨_, _, passed⟩
    · rw [same]
    · rw [passed, giveAll_rest]
  rw [same]
  conv => lhs; rw [inHolding_eq, frozenForHold_eq]

theorem stepper_enterHolding (h : Hub) (w : Fin 2) : h.enterHolding.stepper w = Stepper.drained (h.stepper w) :=
  ((checkHeld_keeps h.inHolding).1 w).trans (stepper_inHolding h w)

theorem inHolding_ports (h : Hub) :
    h.inHolding.ports = ({ h with mode := .holding }.freezeRelays.giveChimesDone h.sounder.queue).ports := by
  rw [inHolding_eq]
  exact frozenForHold_ports h

theorem enterHolding_ports (h : Hub) : FlagsOnly h h.enterHolding := by
  have told : FlagsOnly h ({ h with mode := .holding }.freezeRelays.giveChimesDone h.sounder.queue) :=
    flagsOnly_giveChimesDone h.sounder.queue { h with mode := .holding }.freezeRelays
  have holding : FlagsOnly h h.inHolding := told.trans (.of_ports (inHolding_ports h))
  exact holding.trans (flagsOnly_checkHeld _)

theorem enterHolding_chimes {d : Chime} (mem : d ∈ h.sounder.queue) (live : h.attached d.port = true) :
    h.enterHolding.hasFlag d.port .chimeDone = true := by
  have told : ({ h with mode := .holding }.freezeRelays.giveChimesDone h.sounder.queue).hasFlag d.port .chimeDone = true :=
    hasFlag_giveChimesDone mem live
  rw [enterHolding_eq, (checkHeld_keeps h.inHolding).2.1 _ _ (by decide), hasFlag, port, inHolding_ports]
  exact told

theorem enterHolding_mode (h : Hub) :
    h.enterHolding.mode =
      (if (h.enterHolding.stepper 0).engine = .idle ∧ (h.enterHolding.stepper 1).engine = .idle then .held
       else .holding) ∧
      (h.enterHolding.mode = .held → ∀ q, h.attached q = true → h.enterHolding.hasFlag q .holdEffective = true) := by
  have holding : h.inHolding.mode = .holding := by rw [inHolding_eq, frozenForHold_eq]
  have live (q : Port) : h.inHolding.attached q = h.attached q := by
    have told := (tells_giveChimesDone h.sounder.queue { h with mode := .holding }.freezeRelays).attached q
    rw [attached, port, inHolding_ports]
    exact told
  have rest : h.inHolding.atRest = true ↔ (h.enterHolding.stepper 0).engine = .idle ∧ (h.enterHolding.stepper 1).engine = .idle := by
    rw [atRest_of_pair (u := 0) (v := 1) (by decide), stepper_enterHolding, stepper_enterHolding, stepper_inHolding,
      stepper_inHolding]
  rw [enterHolding_eq] at rest ⊢
  by_cases passes : h.inHolding.atRest = true
  · rw [if_pos (rest.mp passes), checkHeld_passes holding passes]
    refine ⟨by rw [giveAll_rest], fun _ q attached_ => hasFlag_giveAll ?_⟩
    exact (live q).trans attached_
  · rw [if_neg (mt rest.mpr passes), checkHeld_stays (.inr (Bool.eq_false_iff.mpr passes))]
    exact ⟨holding, fun held => by rw [holding] at held; cases held⟩

/-- The checks of HOLD after the standing ones. -/
def holdChecks (p : Port) (h : Hub) : List (Bool × Result) :=
  [(!(h.portItem p).configGrant, .noGrant), (h.mode == .faultHold, .wrongMode), (h.onHold, .already)]

end
end Hub

open Hub

theorem exec_hold (p : Port) (s : State) :
    exec (.hold p) s = onRequest p (fun h => h.refuseFirst p (h.standing p ++ h.holdChecks p)
      (h.enterHolding.respond p .started [])) s := rfl

/-- Settles O44: the refusals by the checks; the entry of HOLDING engine by engine. -/
theorem holdFreezesTheOutputs : Obligations.HoldFreezesTheOutputs := by
  unfold Obligations.HoldFreezesTheOutputs
  refine ⟨fun p s asks => ?refused, fun p s asks run => ?taken⟩
  case refused =>
    refine refusedInOrder_all asks (exec_hold p s) ?_
    simp [holdChecks, onHold_iff]
  case taken =>
    obtain ⟨asks, granted⟩ := asks
    have taken := exec_taken asks (exec_hold p s) (by simp [holdChecks, granted, run, onHold])
    generalize e : restartLease p s.hub = a at taken ⊢
    have relay (r : Fin 12) : a.relay r = s.hub.relay r := by rw [← e, restartLease_relay]
    have stepper (u : Fin 2) : a.stepper u = s.hub.stepper u := by rw [← e, restartLease_stepper]
    have sounder : a.sounder = s.hub.sounder := by rw [← e, restartLease_sounder]
    have live (q : Port) : a.attached q = s.hub.attached q := by rw [← e, restartLease_attached_iff]
    obtain ⟨cond, relays⟩ := enterHolding_relays a
    have sound := enterHolding_sounder a
    obtain ⟨mode, told⟩ := enterHolding_mode a
    refine ⟨a.enterHolding, taken, cond, fun r => ?_, ?_, ?_, ?_, ?_, ?_, fun d mem live_ => ?_, fun u => ⟨?_, fun steps => ?_,
      fun rests => ?_, fun stands runs => ?_, fun away => ?_⟩, mode, fun held q live_ => ?_, enterHolding_ports a,
      enterHolding_rest a⟩
    · rw [relays, relay]
      have frozen := freezeRelay_state (s.hub.relay r)
      refine ⟨frozen.1, ?_, frozen.2.imp And.left And.left⟩
      unfold freezeRelay
      cases (s.hub.relay r).state <;> rfl
    all_goals first | (rw [sound]; rfl) | skip
    · exact enterHolding_chimes (by rw [sounder]; exact mem) (by rw [live]; exact live_)
    · rw [stepper_enterHolding, drained_pos, stepper]
    · rw [stepper_enterHolding, stepper]; exact drained_step steps
    · rw [stepper_enterHolding, stepper]; exact drained_rests rests
    · rw [stepper_enterHolding, stepper]; exact drained_aborts stands runs
    · rw [stepper_enterHolding, stepper]; exact drained_ref away
    · exact told held q (by rw [live]; exact live_)

end Sys2Proof.Machine
end

section
/-! The entry into RUN: the hand-overs, then the thaws engine by engine (R15, R107, R123, R126, R127, R145, R168). -/

namespace Sys2Proof.Machine
namespace Hub

/-! ## The two halves of the entry -/

/-- The part with what waited handed over, before the thaws. -/
def handed (h : Hub) : Hub := (List.finRange 23).foldl (handWaiting h.starting) { h with mode := .run }

/-- The thaws, with the auto-reference runs of an entry from STARTUP or FAULT_HOLD. -/
def thawFrom (starting : Bool) (changed : Fin 2 → Bool) (h : Hub) : Hub :=
  if starting then ((h.thaw changed).autoReference 0).autoReference 1 else h.thaw changed

theorem enterRun_eq (h : Hub) : h.enterRun = h.handed.thawFrom h.starting (h.waitingChange h.starting) := rfl

/-- Only ports, steppers and the mute mark differ. -/
def UnitsOnly (h t : Hub) : Prop :=
  t = { h with ports := t.ports, steppers := t.steppers, sounder := { h.sounder with mute := t.sounder.mute } }

section
variable {h t m n v : Hub} {u w : Fin 2} {starting : Bool} {changed : Fin 2 → Bool}

theorem UnitsOnly.trans (a : UnitsOnly h t) (b : UnitsOnly t v) : UnitsOnly h v := by
  refine Eq.trans b ?_
  generalize v.ports = ports
  generalize v.steppers = steppers
  generalize v.sounder.mute = mute
  rw [a]

theorem StepperOnly.units (a : StepperOnly u h t) : UnitsOnly h t := a.rest

theorem unitsOnly_thawFrom (starting : Bool) (changed : Fin 2 → Bool) (h : Hub) :
    UnitsOnly h.thawRelays.thawSounder (h.thawFrom starting changed) := by
  have thawed : UnitsOnly h.thawRelays.thawSounder (h.thaw changed) :=
    (stepperOnly_thawUnit 0 _ _).units.trans (stepperOnly_thawUnit 1 _ _).units
  unfold thawFrom
  split
  · exact (thawed.trans (stepperOnly_autoReference 0 _).units).trans (stepperOnly_autoReference 1 _).units
  · exact thawed

theorem thawSounder_cond (h : Hub) : h.thawSounder.sounder.cond = .running := by
  unfold thawSounder startTone
  split <;> rfl

/-- Beside the engines the thaws touch ports alone. -/
theorem thawFrom_rest (starting : Bool) (changed : Fin 2 → Bool) (h : Hub) :
    h.thawFrom starting changed = { h with
      ports := (h.thawFrom starting changed).ports, relayCond := .running
      relays := (h.thawFrom starting changed).relays, dead := (h.thawFrom starting changed).dead
      sounder := (h.thawFrom starting changed).sounder, steppers := (h.thawFrom starting changed).steppers } := by
  have units := unitsOnly_thawFrom starting changed h
  have sounder := (sounderOnly_thawSounder h.thawRelays).rest
  have relays := (relaySide_thawRelays h).rest
  unfold UnitsOnly at units
  generalize h.thawFrom starting changed = t at units ⊢
  generalize h.thawRelays.thawSounder = a at units sounder
  generalize h.thawRelays = b at sounder relays
  rw [units, sounder, relays]

theorem thawFrom_cond (starting : Bool) (changed : Fin 2 → Bool) (h : Hub) :
    (h.thawFrom starting changed).sounder.cond = .running := by
  rw [unitsOnly_thawFrom starting changed h]
  exact thawSounder_cond _

theorem thawFrom_relays (starting : Bool) (changed : Fin 2 → Bool) (h : Hub) :
    (h.thawFrom starting changed).relays = h.thawRelays.relays ∧ (h.thawFrom starting changed).dead = h.thawRelays.dead := by
  have units := unitsOnly_thawFrom starting changed h
  have sounder := (sounderOnly_thawSounder h.thawRelays).rest
  unfold UnitsOnly at units
  generalize h.thawFrom starting changed = t at units ⊢
  generalize h.thawRelays.thawSounder = a at units sounder
  rw [units, sounder]
  exact ⟨rfl, rfl⟩

/-! ## A unit's view of the thaws -/

/-- A part that unit `u` reads as another: the unit, STEP_INHIBIT, the configuration, what the channels have taken, who is
ATTACHED. -/
structure SeenAs (u : Fin 2) (h m : Hub) : Prop where
  inhibit : m.stepInhibit = h.stepInhibit
  stepper : m.stepper u = h.stepper u
  work : m.work = h.work
  channels : m.channels = h.channels
  attached : ∀ p, m.attached p = h.attached p

theorem SeenAs.trans (a : SeenAs u h m) (b : SeenAs u m n) : SeenAs u h n :=
  ⟨b.inhibit.trans a.inhibit, b.stepper.trans a.stepper, b.work.trans a.work, b.channels.trans a.channels,
    fun p => (b.attached p).trans (a.attached p)⟩

theorem SeenAs.modStepper (a : SeenAs u h m) (f : Stepper → Stepper) : SeenAs u (h.modStepper u f) (m.modStepper u f) :=
  ⟨a.inhibit, by rw [stepper_modStepper_same, stepper_modStepper_same, a.stepper], a.work, a.channels, a.attached⟩

theorem SeenAs.pursued (a : SeenAs u h m) : m.pursued u = h.pursued u ∧ m.takenRate u = h.takenRate u := by
  unfold Hub.pursued takenRate stepperItem
  rw [chan_of_channels a.channels, a.work, a.stepper]
  exact ⟨rfl, rfl⟩

/-- A decision as the unit sees it, on a later part that keeps it. -/
theorem SeenAs.decided (a : SeenAs u h m) (decided : Decided u m n) (same : t.stepper u = n.stepper u)
    (flags : ∀ p f, n.hasFlag p f = true → t.hasFlag p f = true)
    (change : ∀ p c, n.hasChange p c = true → t.hasChange p c = true) : Decided u h t := by
  obtain ⟨arrival, pause, reversal, step⟩ := decided
  rw [a.stepper, a.pursued.1] at arrival pause reversal step
  rw [a.inhibit] at pause reversal step
  rw [a.pursued.2] at step
  rw [chan_of_channels a.channels] at arrival
  refine ⟨fun there => ?_, fun away inhibited => same.trans (pause away inhibited),
    fun d away free toward reverses => same.trans (reversal d away free toward reverses),
    fun d away free toward on => same.trans (step d away free toward on)⟩
  obtain ⟨rests, told⟩ := arrival there
  refine ⟨same.trans rests, fun x q level taken live => ?_⟩
  obtain ⟨flag, set⟩ := told x q level taken (by rw [a.attached]; exact live)
  exact ⟨flags q _ flag, change q _ set⟩

theorem StepperOnly.seenAs (a : StepperOnly w h t) (other : u ≠ w) : SeenAs u h t where
  inhibit := by rw [a.rest]
  stepper := a.others u other
  work := a.work
  channels := by rw [a.rest]
  attached := a.told.attached

/-- The relays and the sounder thaw beside the units. -/
theorem seenAs_thawSounder (u : Fin 2) (h : Hub) : SeenAs u h h.thawRelays.thawSounder := by
  have relays := relaySide_thawRelays h
  have sounder := sounderOnly_thawSounder h.thawRelays
  have first : SeenAs u h h.thawRelays := by
    refine ⟨?_, ?_, ?_, ?_, relays.told.attached⟩ <;> rw [relays.rest]
    rfl
  refine first.trans ⟨?_, ?_, ?_, ?_, sounder.told.attached⟩ <;> rw [sounder.rest]
  rfl

theorem drive_thawUnit {C : Fin 23 → Bool} (i : C (stepperChannel u) = true) (changed : Bool) (h : Hub) :
    Drive C h (h.thawUnit u changed) := by
  unfold thawUnit
  dsimp only
  split
  · exact .refl C h
  · exact drive_modStepper i _ h
  · split
    · exact (drive_modStepper i _ h).trans (drive_decision i _)
    · exact drive_modStepper i _ h

theorem drive_autoReference {C : Fin 23 → Bool} (i : C (stepperChannel u) = true) (h : Hub) :
    Drive C h (h.autoReference u) := by
  unfold autoReference
  split
  · exact drive_startRun i h
  · exact .refl C h

/-- What the relays' contests tell stays told. -/
theorem reach_thawFrom_relays (starting : Bool) (changed : Fin 2 → Bool) (h : Hub) :
    (∀ p f, h.thawRelays.hasFlag p f = true → (h.thawFrom starting changed).hasFlag p f = true) ∧
      ∀ p c, h.thawRelays.hasChange p c = true → (h.thawFrom starting changed).hasChange p c = true := by
  have ports : h.thawRelays.thawSounder.ports = h.thawRelays.ports := by
    unfold thawSounder
    rw [startTone_sounder_only]
    rfl
  have units (u : Fin 2) (x : Bool) (m : Hub) : Drive (fun _ => true) m (m.thawUnit u x) := drive_thawUnit rfl x m
  have runs (u : Fin 2) (m : Hub) : Drive (fun _ => true) m (m.autoReference u) := drive_autoReference rfl m
  have thawed : Drive (fun _ => true) h.thawRelays.thawSounder (h.thaw changed) :=
    (units 0 (changed 0) _).trans (units 1 (changed 1) _)
  have all : Drive (fun _ => true) h.thawRelays.thawSounder (h.thawFrom starting changed) := by
    unfold thawFrom
    split
    · exact (thawed.trans (runs 0 _)).trans (runs 1 _)
    · exact thawed
  refine ⟨fun p f given => all.flagsGain p f.bit ?_, fun p c given => all.changeGains p c ?_⟩
  · rw [port, ports]; exact given
  · rw [port, ports]; exact given

/-- Each unit thaws on a part it reads as the part before, and then makes its auto-reference on what that leaves. -/
theorem thawFrom_at (u : Fin 2) (starting : Bool) (changed : Fin 2 → Bool) (h : Hub) :
    ∃ m n, SeenAs u h m ∧ SeenAs u (m.thawUnit u (changed u)) n ∧
      (h.thawFrom starting changed).stepper u = (if starting then n.autoReference u else n).stepper u ∧
      (∀ p f, (m.thawUnit u (changed u)).hasFlag p f = true → (h.thawFrom starting changed).hasFlag p f = true) ∧
      ∀ p c, (m.thawUnit u (changed u)).hasChange p c = true → (h.thawFrom starting changed).hasChange p c = true := by
  have seen := seenAs_thawSounder u h
  unfold thawFrom thaw
  generalize h.thawRelays.thawSounder = a at seen
  have first := stepperOnly_thawUnit 0 a (changed 0)
  have second := stepperOnly_thawUnit 1 (a.thawUnit 0 (changed 0)) (changed 1)
  have third := stepperOnly_autoReference 0 ((a.thawUnit 0 (changed 0)).thawUnit 1 (changed 1))
  have fourth := stepperOnly_autoReference 1 (((a.thawUnit 0 (changed 0)).thawUnit 1 (changed 1)).autoReference 0)
  have later : Drive (fun _ => true) (a.thawUnit 0 (changed 0)) ((a.thawUnit 0 (changed 0)).thawUnit 1 (changed 1)) :=
    drive_thawUnit rfl _ _
  have runs : Drive (fun _ => true) ((a.thawUnit 0 (changed 0)).thawUnit 1 (changed 1))
      (if starting = true then (((a.thawUnit 0 (changed 0)).thawUnit 1 (changed 1)).autoReference 0).autoReference 1
        else (a.thawUnit 0 (changed 0)).thawUnit 1 (changed 1)) := by
    split
    · exact (drive_autoReference rfl _).trans (drive_autoReference rfl _)
    · exact .refl _ _
  match u with
  | 0 =>
    refine ⟨a, _, seen, second.seenAs (by decide), ?_, fun p f given => ?_, fun p c given => ?_⟩
    · cases starting with
      | true => exact fourth.others 0 (by decide)
      | false => rfl
    · exact (later.trans runs).flagsGain p f.bit given
    · exact (later.trans runs).changeGains p c given
  | 1 =>
    refine ⟨_, if starting then ((a.thawUnit 0 (changed 0)).thawUnit 1 (changed 1)).autoReference 0
      else (a.thawUnit 0 (changed 0)).thawUnit 1 (changed 1), seen.trans (first.seenAs (by decide)), ?_, ?_,
      fun p f given => runs.flagsGain p f.bit given, fun p c given => runs.changeGains p c given⟩
    · cases starting with
      | true => exact third.seenAs (by decide)
      | false => exact ⟨rfl, rfl, rfl, rfl, fun _ => rfl⟩
    · cases starting <;> rfl

/-! ## One unit -/

/-- A unit that runs. -/
def Stepper.running (x : Stepper) : Stepper := { x with cond := .running }

theorem thawUnit_stays (halted : (h.stepper u).cond ≠ .running)
    (rests : (h.stepper u).cond = .draining ∨ (h.stepper u).ref ≠ .referenced ∨
      (changed u = false ∧ (h.stepper u).pos = h.pursued u)) :
    h.thawUnit u (changed u) = h.modStepper u Stepper.running := by
  unfold thawUnit
  dsimp only
  cases cond : (h.stepper u).cond with
  | running => exact absurd cond halted
  | draining => rfl
  | stopped =>
    refine if_neg ?_
    rcases rests with drains | away | ⟨still, there⟩
    · rw [cond] at drains; cases drains
    · simp [away]
    · simp [still, there]

theorem thawUnit_decides (stopped : (h.stepper u).cond = .stopped) (referenced : (h.stepper u).ref = .referenced)
    (moves : changed u = true ∨ (h.stepper u).pos ≠ h.pursued u) :
    h.thawUnit u (changed u) = (h.modStepper u Stepper.running).decision u := by
  unfold thawUnit
  dsimp only
  rw [stopped]
  refine if_pos ?_
  rcases moves with change | away
  · simp [referenced, change]
  · simp [referenced, away]

theorem thawUnit_cond (u : Fin 2) (change : Bool) (h : Hub) : ((h.thawUnit u change).stepper u).cond = .running := by
  unfold thawUnit
  dsimp only
  split
  · next running => exact running
  · rw [stepper_modStepper_same]
  · split
    · rw [(decision_keeps u _).2.2.1, stepper_modStepper_same]
    · rw [stepper_modStepper_same]

theorem autoReference_still (still : (h.stepperItem u).autoRef = false ∨ (h.stepper u).ref ≠ .unreferenced) :
    h.autoReference u = h := by
  refine if_neg ?_
  rcases still with off | bound
  · simp [off]
  · simp [bound]

theorem autoReference_cond (u : Fin 2) (h : Hub) : ((h.autoReference u).stepper u).cond = (h.stepper u).cond := by
  unfold autoReference
  split
  · exact (startRun_keeps u h).2.2.2.1
  · rfl

theorem thawFrom_runs (u : Fin 2) (starting : Bool) (changed : Fin 2 → Bool) (h : Hub) :
    ((h.thawFrom starting changed).stepper u).cond = .running := by
  obtain ⟨m, n, _, after, same, _, _⟩ := thawFrom_at u starting changed h
  have runs : (n.stepper u).cond = .running := by rw [after.stepper, thawUnit_cond]
  rw [same]
  split
  · rw [autoReference_cond, runs]
  · exact runs

/-- A unit that makes no decision and no run has just its condition back. -/
theorem thawFrom_stays (halted : (h.stepper u).cond ≠ .running)
    (rests : (h.stepper u).cond = .draining ∨ (h.stepper u).ref ≠ .referenced ∨
      (changed u = false ∧ (h.stepper u).pos = h.pursued u))
    (still : starting = false ∨ (h.stepperItem u).autoRef = false ∨ (h.stepper u).ref ≠ .unreferenced) :
    (h.thawFrom starting changed).stepper u = Stepper.running (h.stepper u) := by
  obtain ⟨m, n, before, after, same, _, _⟩ := thawFrom_at u starting changed h
  have thawed := thawUnit_stays (changed := changed) (h := m) (by rw [before.stepper]; exact halted)
    (by rw [before.stepper, before.pursued.1]; exact rests)
  have stepper : n.stepper u = Stepper.running (h.stepper u) := by
    rw [after.stepper, thawed, stepper_modStepper_same, before.stepper]
  have work : n.work = h.work := by rw [after.work, thawed]; exact before.work
  rw [same]
  rcases still with off | still
  · rw [off]; exact stepper
  · rw [autoReference_still (h := n) (u := u) (by rw [stepper, stepperItem, work]; exact still), ite_self]
    exact stepper

theorem thawFrom_decides (stopped : (h.stepper u).cond = .stopped) (referenced : (h.stepper u).ref = .referenced)
    (moves : changed u = true ∨ (h.stepper u).pos ≠ h.pursued u) :
    Decided u (h.modStepper u fun x => { x with cond := .running }) (h.thawFrom starting changed) := by
  obtain ⟨m, n, before, after, same, flags, change⟩ := thawFrom_at u starting changed h
  have thawed := thawUnit_decides (changed := changed) (h := m) (by rw [before.stepper]; exact stopped)
    (by rw [before.stepper]; exact referenced) (by rw [before.stepper, before.pursued.1]; exact moves)
  rw [thawed] at after flags change
  have bound : ((m.modStepper u Stepper.running).stepper u).ref = .referenced := by
    rw [stepper_modStepper_same, before.stepper]; exact referenced
  have still : n.autoReference u = n :=
    autoReference_still (.inr (by rw [after.stepper, (decision_keeps u _).1, bound]; simp))
  rw [still, ite_self] at same
  exact (before.modStepper Stepper.running).decided (decided_decision bound) (same.trans after.stepper) flags change

theorem thawFrom_references (halted : (h.stepper u).cond ≠ .running) (auto : (h.stepperItem u).autoRef = true)
    (loose : (h.stepper u).ref = .unreferenced) :
    ∃ n : Hub, n.stepper u = Stepper.running (h.stepper u) ∧ n.work = h.work ∧ n.stepInhibit = h.stepInhibit ∧
      (h.thawFrom true changed).stepper u = (n.startRun u).stepper u := by
  obtain ⟨m, n, before, after, same, _, _⟩ := thawFrom_at u true changed h
  have thawed := thawUnit_stays (changed := changed) (h := m) (by rw [before.stepper]; exact halted)
    (.inr (.inl (by rw [before.stepper, loose]; simp)))
  rw [thawed] at after
  have stepper : n.stepper u = Stepper.running (h.stepper u) := by
    rw [after.stepper, stepper_modStepper_same, before.stepper]
  have work : n.work = h.work := after.work.trans before.work
  refine ⟨n, stepper, work, after.inhibit.trans before.inhibit, same.trans ?_⟩
  rw [if_pos rfl, autoReference, if_pos (by
    rw [stepper, show n.stepperItem u = h.stepperItem u by rw [stepperItem, work]; rfl]
    simp [Stepper.running, loose, auto])]

/-! ## The relays outside groups -/

theorem relayChannel_inj {q r : Fin 12} (same : relayChannel q = relayChannel r) : q = r := by
  simp only [relayChannel, Fin.mk.injEq] at same
  omega

/-- The relays of a group, as channels. -/
def grouped (h : Hub) (c : Fin 23) : Bool := (List.finRange 12).any fun r => relayChannel r == c && (h.groupOf r).isSome

theorem groupOf_named {g : Fin 4} {r : Fin 12} (named : h.namesRelay g r = true) : (h.groupOf r).isSome = true := by
  unfold groupOf
  rw [List.find?_isSome]
  exact ⟨g, List.mem_finRange g, named⟩

theorem grouped_relay {r : Fin 12} : h.grouped (relayChannel r) = (h.groupOf r).isSome := by
  rw [Bool.eq_iff_iff]
  simp only [grouped, List.any_eq_true, Bool.and_eq_true, beq_iff_eq]
  refine ⟨fun ⟨q, _, same, mine⟩ => relayChannel_inj same ▸ mine, fun mine => ⟨r, List.mem_finRange r, rfl, mine⟩⟩

/-- No contest reaches a relay outside the groups. -/
theorem reachesRelay_grouped {r : Fin 12} (alone : h.groupOf r = none) : h.reachesRelay h.grouped r = false := by
  rw [Bool.eq_false_iff]
  simp only [reachesRelay, Ne, List.any_eq_true, not_exists, not_and]
  intro q _ reaches
  simp only [Bool.and_eq_true, Bool.or_eq_true, beq_iff_eq, grouped_relay, Option.any_eq_true] at reaches
  obtain ⟨mine, same | ⟨g, _, named⟩⟩ := reaches
  · rw [same, alone] at mine; cases mine
  · have named := groupOf_named named
    rw [alone] at named; cases named

theorem drive_contests (h before : Hub) (xs : List (Fin 4)) :
    Drive h.grouped h (xs.foldl (fun x g => x.contest g before) h) := by
  refine drive_foldl (fun x g => x.contest g before) (fun x g => GroupReached h.grouped g x)
    (fun e x => x.of_work e) (fun x g reached => drive_contest reached before) xs h fun g _ r mem => ?_
  refine reachesRelay_own ?_
  rw [grouped_relay]
  exact groupOf_named (mem_members.mp mem)

/-- The relays but one have followed. -/
def Beside (r : Fin 12) (h t : Hub) : Prop := RelayOnly h t ∧ t.relay r = h.relay r

theorem beside_follow {q r : Fin 12} (alone : h.groupOf q = none) (other : q ≠ r) : Beside r h (h.follow q) := by
  refine ⟨relayOnly_follow q h, (drive_follow (C := only (relayChannel q)) (reachesRelay_own (only_self _))).relays r ?_⟩
  rw [Bool.eq_false_iff]
  simp only [reachesRelay, Ne, List.any_eq_true, not_exists, not_and]
  intro k _ reaches
  simp only [only, Bool.and_eq_true, Bool.or_eq_true, beq_iff_eq, Option.any_eq_true] at reaches
  obtain ⟨same, mine | ⟨g, named, _⟩⟩ := reaches
  · exact other ((relayChannel_inj same).symm.trans mine)
  · rw [relayChannel_inj same, alone] at named; cases named

theorem beside_follows {r : Fin 12} {xs : List (Fin 12)} (alone : ∀ q ∈ xs, h.groupOf q = none) (apart : r ∉ xs) :
    Beside r h (xs.foldl (fun x q => x.follow q) h) := by
  refine List.foldlRecOn (motive := Beside r h) xs _ ⟨rfl, rfl⟩ fun t so q mem => ?_
  have one := beside_follow (h := t) (by rw [so.1.groupOf]; exact alone q mem) (r := r) fun same => apart (same ▸ mem)
  exact ⟨so.1.trans one.1, one.2.trans so.2⟩

/-- Each relay outside the groups follows at a moment of its own. -/
theorem follows_at {r : Fin 12} {xs : List (Fin 12)} (alone : ∀ q ∈ xs, h.groupOf q = none) (nodup : xs.Nodup)
    (mem : r ∈ xs) : ∃ m, Beside r h m ∧ (xs.foldl (fun x q => x.follow q) h).relay r = (m.follow r).relay r := by
  obtain ⟨pre, post, rfl⟩ := List.append_of_mem mem
  obtain ⟨before, after⟩ := not_mem_around nodup
  have first : Beside r h (pre.foldl (fun x q => x.follow q) h) :=
    beside_follows (fun q m => alone q (List.mem_append_left _ m)) before
  refine ⟨_, first, ?_⟩
  rw [List.foldl_append, List.foldl_cons]
  refine (beside_follows (fun q m => ?_) after).2
  rw [(relayOnly_follow r _).groupOf, first.1.groupOf]
  exact alone q (List.mem_append_right _ (List.mem_cons_of_mem _ m))

/-- At the thaw an ungrouped relay follows its taken command. -/
theorem relay_thawRelays {r : Fin 12} (alone : h.groupOf r = none) :
    ∃ m, Beside r { h with relayCond := .running } m ∧ h.thawRelays.relay r = (m.follow r).relay r := by
  have ungrouped : ∀ q ∈ (List.finRange 12).filter fun r => (h.groupOf r).isNone,
      ({ h with relayCond := .running } : Hub).groupOf q = none := fun q mem => by
    have free : h.groupOf q = none := by simpa using (List.mem_filter.mp mem).2
    exact free
  obtain ⟨m, beside, same⟩ := follows_at ungrouped ((List.nodup_finRange 12).filter _)
    (List.mem_filter.mpr ⟨List.mem_finRange r, by simp [alone]⟩)
  refine ⟨m, beside, Eq.trans ?_ same⟩
  have followed : RelayOnly { h with relayCond := .running } (((List.finRange 12).filter fun r => (h.groupOf r).isNone).foldl
      (fun x r => x.follow r) { h with relayCond := .running }) :=
    List.foldlRecOn (motive := RelayOnly _) _ _ rfl fun t so q _ => so.trans (relayOnly_follow q t)
  refine (drive_contests _ h _).relays r (reachesRelay_grouped ?_)
  rw [followed.groupOf]
  exact alone

/-- What it comes to from the states a FROZEN relay has (R95, R106). -/
theorem relay_thawRelays_frozen {r : Fin 12} (alone : h.groupOf r = none) :
    ((h.relay r).state = .off → h.thawRelays.relay r =
      if h.asksOn r then
        if h.minOffRunning r then { h.relay r with state := .waitMinOff, leave := none }
        else ⟨.on, none, true, minOnRun (Config.ms (100 * h.work.relays[r].minOn))⟩
      else h.relay r) ∧
    ((h.relay r).state = .on → h.thawRelays.relay r =
      if h.asksOn r then h.relay r
      else if h.minOnRunning r then { h.relay r with state := .waitMinOn, leave := some .command }
      else ⟨.off, none, false, minOffRun (Config.ms (100 * h.work.relays[r].minOff))⟩) := by
  obtain ⟨m, ⟨beside, relay⟩, same⟩ := relay_thawRelays alone
  have relay : m.relay r = h.relay r := relay
  have free : m.groupOf r = none := (beside.groupOf r).trans alone
  have running : m.relayCond = .running := by rw [beside]
  have asks : m.asksOn r = h.asksOn r := beside.asksOn r
  have work : m.work = h.work := beside.work
  have follows := ungroupedRelayFollowsItsCommand r m m running free
  dsimp only at follows
  rw [relayTakes_ungrouped m running free, minOffRunning, minOnRunning, relay, asks, work] at follows
  rw [same, follows, relay_modRelay, if_pos rfl, minOffRunning, minOnRunning]
  refine ⟨fun off => ?_, fun on => ?_⟩
  · rw [off]
  · rw [on]

end
end Hub
end Sys2Proof.Machine
end

section
/-! HELD, RESUME and ACCEPT_FAULT (R15, R168). -/

namespace Sys2Proof.Machine
namespace Hub

section
variable {h t m : Hub} {u : Fin 2}

/-! ## What waits is recorded only, while the engines stand FROZEN -/

/-- Only channels and lamps differ. -/
def Recorded (h t : Hub) : Prop := t = { h with channels := t.channels, lamps := t.lamps }

theorem Recorded.trans {v : Hub} (a : Recorded h t) (b : Recorded t v) : Recorded h v := by
  refine Eq.trans b ?_
  generalize v.channels = channels
  generalize v.lamps = lamps
  rw [a]

/-- No engine takes a command: the relays and the sounder are FROZEN and no Stepper unit is RUNNING. -/
structure Frozen (h : Hub) : Prop where
  relays : h.relayCond = .frozen
  sounder : h.sounder.cond = .frozen
  steppers : ∀ u, (h.stepper u).cond ≠ .running

theorem Frozen.recorded (frozen : h.Frozen) (a : Recorded h t) : t.Frozen := by
  rw [a]
  exact ⟨frozen.relays, frozen.sounder, frozen.steppers⟩

theorem Frozen.handOverAs (frozen : h.Frozen) (c : Fin 23) (change : Bool) (pair : Pair) :
    Recorded h (h.handOverAs c change pair) := by
  have taken := frozen.recorded (t := h.modChan c fun x => { x with taken := some pair }) rfl
  rcases outputOf_cases c with ⟨r, _, rfl⟩ | ⟨l, _, rfl⟩ | ⟨_, rfl⟩ | ⟨u, _, rfl⟩
  · rw [handOverAs_relay, relayTakes_frozen r change taken.relays]
    rfl
  · rw [handOverAs_lamp]
    split <;> rfl
  · rw [handOverAs_sound, sounderTakes_frozen change taken.sounder]
    rfl
  · rw [handOverAs_stepper]
    cases change with
    | true =>
      rw [stepperTakes_recorded (.inl (taken.steppers u))]
      rfl
    | false => rfl

theorem Frozen.handWaiting (frozen : h.Frozen) (everyChannel : Bool) (c : Fin 23) :
    Recorded h (h.handWaiting everyChannel c) := by
  unfold Hub.handWaiting
  split
  · exact (frozen.handOverAs c true _).trans rfl
  · split
    · exact (frozen.handOverAs c _ _).trans rfl
    · rfl

theorem Frozen.handed (frozen : h.Frozen) : Recorded { h with mode := .run } h.handed := by
  have before : ({ h with mode := .run } : Hub).Frozen := ⟨frozen.relays, frozen.sounder, frozen.steppers⟩
  exact List.foldlRecOn (motive := Recorded { h with mode := .run }) _ _ rfl fun t so c _ =>
    so.trans ((before.recorded so).handWaiting h.starting c)

/-! ## The thaws of an entry into RUN -/

theorem thawRelays_sound (h : Hub) : h.thawRelays.sounder = h.sounder ∧ h.thawRelays.soundCommand = h.soundCommand := by
  rw [(relaySide_thawRelays h).rest]
  exact ⟨rfl, rfl⟩

theorem thawFrom_sounder (starting : Bool) (changed : Fin 2 → Bool) (h : Hub) :
    (h.thawFrom starting changed).sounder = { h.thawRelays.thawSounder.sounder with
      mute := (h.thawFrom starting changed).sounder.mute } := by
  have units := unitsOnly_thawFrom starting changed h
  unfold UnitsOnly at units
  generalize h.thawFrom starting changed = t at units ⊢
  rw [units]

theorem thawSounder_tone {pitch loudness : Nat} {d : Decay} (tone : h.soundCommand = some (.tone pitch loudness d)) :
    h.thawSounder.sounder = { h.sounder with
      cond := .running, tone := .sounding, level := loudness, decay := decayTimer d loudness
      decayCut := h.sounder.decay.isSome } := by
  have same : (h.modSounder fun x => { x with cond := .running }).soundCommand = some (.tone pitch loudness d) := tone
  unfold thawSounder
  rw [startTone_tone same]
  rfl

theorem thawSounder_off (off : h.soundCommand = some .off) : h.thawSounder.sounder = { h.sounder with cond := .running } := by
  have same : (h.modSounder fun x => { x with cond := .running }).soundCommand = some .off := off
  unfold thawSounder startTone
  rw [same]
  rfl

theorem thawSounder_chimes (h : Hub) :
    h.thawSounder.sounder.queue = h.sounder.queue ∧ h.thawSounder.sounder.engine = h.sounder.engine := by
  unfold thawSounder startTone
  split <;> exact ⟨rfl, rfl⟩

/-- The engines thaw from the part with the hand-overs made. -/
theorem thawed_thawFrom (frozen : h.Frozen) (recorded : Recorded { h with mode := .run } m) :
    Thawed h (m.thawFrom h.starting (h.waitingChange h.starting)) := by
  have rest := thawFrom_rest h.starting (h.waitingChange h.starting) m
  have at_ : h.atThaw (m.thawFrom h.starting (h.waitingChange h.starting)) = m := by
    unfold atThaw
    rw [rest]
    exact recorded.symm
  have relays := thawFrom_relays h.starting (h.waitingChange h.starting) m
  have told := reach_thawFrom_relays h.starting (h.waitingChange h.starting) m
  have sounder := thawFrom_sounder h.starting (h.waitingChange h.starting) m
  have sound : (m.thawFrom h.starting (h.waitingChange h.starting)).soundCommand = m.thawRelays.soundCommand := by
    rw [rest, (thawRelays_sound m).2]
    rfl
  have asks (r : Fin 12) : (m.thawFrom h.starting (h.waitingChange h.starting)).asksOn r = m.asksOn r := by
    rw [rest]
    rfl
  have stepper (u : Fin 2) : m.stepper u = h.stepper u := by rw [recorded]; rfl
  have relay (r : Fin 12) : m.relay r = h.relay r := by rw [recorded]; rfl
  have work : m.work = h.work := by rw [recorded]
  have inhibit : m.stepInhibit = h.stepInhibit := by rw [recorded]
  have before : m.sounder = h.sounder := by rw [recorded]
  have stays (u : Fin 2) (rests : (h.stepper u).cond = .draining ∨ (h.stepper u).ref ≠ .referenced ∨
      (h.waitingChange h.starting u = false ∧ (h.stepper u).pos = m.pursued u))
      (still : h.starting = false ∨ (h.stepperItem u).autoRef = false ∨ (h.stepper u).ref ≠ .unreferenced) :
      (m.thawFrom h.starting (h.waitingChange h.starting)).stepper u = { h.stepper u with cond := .running } := by
    rw [thawFrom_stays (by rw [stepper]; exact frozen.steppers u) (by rw [stepper]; exact rests)
      (by rw [stepper, stepperItem, work]; exact still), stepper]
    rfl
  refine ⟨fun r alone => ?relays, ?groups, fun p c => ?told, fun pitch loudness d tone => ?tone, fun off => ?silence, ?chimes,
    fun u drains later => stays u (.inl drains) (.inl later), fun u stopped bound moves => ?decides, fun u stopped rests => ?stays,
    fun u first auto loose => ?references⟩
  case relays =>
    have closed := relay_thawRelays_frozen (h := m) (r := r) ((groupOf_of_work work r).trans alone)
    rw [minOffRunning, minOnRunning, relay, work] at closed
    have same : (m.thawFrom h.starting (h.waitingChange h.starting)).relay r = m.thawRelays.relay r := by
      rw [Hub.relay, relays.1]
      rfl
    rw [asks, same]
    exact closed
  case groups => rw [at_]; exact relays
  case told => rw [at_]; exact fun flag set => ⟨told.1 p _ flag, told.2 p c set⟩
  case tone =>
    rw [sound] at tone
    rw [sounder, thawSounder_tone tone]
    exact ⟨rfl, rfl, rfl⟩
  case silence =>
    rw [sound] at off
    rw [sounder, thawSounder_off off, (thawRelays_sound m).1, before]
  case chimes =>
    rw [sounder, ← before, ← (thawRelays_sound m).1]
    exact thawSounder_chimes _
  case decides =>
    rw [at_] at moves ⊢
    exact thawFrom_decides (by rw [stepper]; exact stopped) (by rw [stepper]; exact bound) (by rw [stepper]; exact moves)
  case stays =>
    rw [at_] at rests
    rcases rests with ⟨bound, still, there⟩ | ⟨loose, still⟩
    · exact stays u (.inr (.inr ⟨still, there⟩)) (.inr (.inr (by simp [bound])))
    · exact stays u (.inr (.inl (by simp [loose]))) (still.imp_right .inl)
  case references =>
    rw [first]
    obtain ⟨n, running, same, inhibited, run⟩ := thawFrom_references (changed := h.waitingChange true) (h := m) (u := u)
      (by rw [stepper]; exact frozen.steppers u) (by rw [stepperItem, work]; exact auto) (by rw [stepper]; exact loose)
    have item : n.stepperItem u = h.stepperItem u := by rw [stepperItem, same, work]; rfl
    rw [stepper] at running
    rw [inhibit] at inhibited
    rw [run]
    by_cases up : (h.stepper u).lastDir = some .up
    · rw [stepper_startRun_up (by rw [running]; exact up), running, item, if_pos up]
      exact ⟨rfl, rfl, rfl, rfl⟩
    · rw [stepper_startRun_step (by rw [running]; exact up), running, item, inhibited, if_neg up]
      unfold Hub.Stepper.runStep
      split <;> exact ⟨rfl, rfl, rfl, rfl⟩

theorem thawed_enterRun (frozen : h.Frozen) : Thawed h h.enterRun := thawed_thawFrom frozen frozen.handed

/-! ## The entry -/

theorem chan_handed (h : Hub) (c : Fin 23) : h.handed.chan c = handedOver h.starting (h.chan c) := by
  rw [handed, chan_handWaitings _ _ _ _ (List.nodup_finRange 23), if_pos (List.mem_finRange c)]
  rfl

theorem enteredRun_enterRun (h : Hub) : EnteredRun h h.enterRun := by
  have handed := (reach_handWaitings h.starting (List.finRange 23) { h with mode := .run }).rest
  have rest := thawFrom_rest h.starting (h.waitingChange h.starting) h.handed
  have whole : h.enterRun = { h with
      mode := .run, ports := h.enterRun.ports, channels := h.handed.channels, relayCond := .running
      relays := h.enterRun.relays, dead := h.enterRun.dead, lamps := h.enterRun.lamps, sounder := h.enterRun.sounder
      steppers := h.enterRun.steppers } := by
    rw [enterRun_eq]
    change h.handed = _ at handed
    generalize h.handed.thawFrom h.starting (h.waitingChange h.starting) = t at rest ⊢
    generalize h.handed = m at rest handed ⊢
    rw [rest, handed]
  have mode : h.enterRun.mode = .run := by rw [whole]
  have cond : h.enterRun.relayCond = .running := by rw [whole]
  have channels : h.enterRun.channels = h.handed.channels := by rw [whole]
  refine ⟨mode, cond, ?_, fun u => ?_, fun c => ?_, (tells_enterRun h).ports, ?_⟩
  · rw [enterRun_eq]; exact thawFrom_cond ..
  · rw [enterRun_eq]; exact thawFrom_runs ..
  · rw [chan_of_channels channels, chan_handed]
    rfl
  · rw [mode, cond, channels]
    exact whole

/-! ## The requests -/

/-- The checks of RESUME after the standing ones. -/
def resumeChecks (p : Port) (h : Hub) : List (Bool × Result) :=
  [(!(h.portItem p).configGrant, .noGrant), (!h.onHold, .wrongMode), (h.storeOp.isSome, .storeBusy)]

/-- The checks of ACCEPT_FAULT after the standing ones. -/
def acceptChecks (p : Port) (h : Hub) : List (Bool × Result) :=
  [(!(h.portItem p).configGrant, .noGrant), (h.mode != .faultHold, .wrongMode), (h.storeOp.isSome, .storeBusy)]

theorem exec_resume (p : Port) (s : State) :
    exec (.resume p) s = onRequest p (fun h => h.refuseFirst p (h.standing p ++ h.resumeChecks p)
      (h.enterRun.respond p .ok [])) s := rfl

theorem exec_acceptFault (p : Port) (s : State) :
    exec (.acceptFault p) s = onRequest p (fun h => h.refuseFirst p (h.standing p ++ h.acceptChecks p)
      (h.enterRun.respond p .ok [])) s := rfl

end
end Hub

open Hub

theorem Hub.Frozen.restartLease {h : Hub} (frozen : h.Frozen) (p : Port) : (Hub.restartLease p h).Frozen :=
  ⟨by rw [restartLease_relayCond]; exact frozen.relays, by rw [restartLease_sounder]; exact frozen.sounder,
    fun u => by rw [restartLease_stepper]; exact frozen.steppers u⟩

/-- A request that enters RUN: past its grant and its mode, a store in progress refuses it, and else the entry is made. -/
theorem entersRun {i : Instr} {p : Port} {s : State} {modeCheck : Hub → Bool} (asks : s.hub.MayAskGranted p)
    (runs : exec i s = onRequest p (fun h => h.refuseFirst p (h.standing p ++
      [(!(h.portItem p).configGrant, .noGrant), (modeCheck h, .wrongMode), (h.storeOp.isSome, .storeBusy)])
      (h.enterRun.respond p .ok [])) s) (passes : modeCheck (Hub.restartLease p s.hub) = false) :
    (s.hub.storeOp.isSome = true →
      exec i s = .next { s with hub := (Hub.restartLease p s.hub).respond p .storeBusy [] }) ∧
    (s.hub.storeOp = none →
      ∃ t : Hub, exec i s = .next { s with hub := t.respond p .ok [] } ∧
        Hub.EnteredRun (Hub.restartLease p s.hub) t ∧
        (s.hub.relayCond = .frozen → s.hub.sounder.cond = .frozen → (∀ u, (s.hub.stepper u).cond ≠ .running) →
          Hub.Thawed (Hub.restartLease p s.hub) t)) := by
  obtain ⟨asks, granted⟩ := asks
  refine ⟨fun busy => ?_, fun free => ⟨_, ?_, enteredRun_enterRun _, fun relays sounder steppers => ?_⟩⟩
  · rw [exec_asked asks runs]
    simp [refuseFirst, granted, passes, busy]
  · exact exec_taken asks runs (by simp [granted, passes, free])
  · exact thawed_enterRun (Frozen.restartLease ⟨relays, sounder, steppers⟩ p)

/-- Settles O45: ENTER_HELD by the passage to HELD, the two requests by the entry into RUN. -/
theorem heldIsEnteredAtRestAndRunOnRequest : Obligations.HeldIsEnteredAtRestAndRunOnRequest := by
  unfold Obligations.HeldIsEnteredAtRestAndRunOnRequest
  refine ⟨fun s => ⟨fun stays => onEvent_still (checkHeld_stays stays), fun holding rest => ?held⟩,
    fun p s asks => ⟨fun hold => ?resume, fun fault => ?accept⟩, fun p s asks => ⟨?refusedResume, ?refusedAccept⟩⟩
  case held =>
    refine ⟨_, onEvent_of_eq (checkHeld_passes holding rest), ?_, fun q => ?_, ?_⟩
    · rw [giveAll_rest]
    · exact port_giveAll ..
    · exact giveAll_rest ..
  case resume =>
    refine entersRun asks (exec_resume p s) ?_
    rcases hold with mode | mode <;> simp [onHold, mode]
  case accept => exact entersRun asks (exec_acceptFault p s) (by simp [fault])
  case refusedResume =>
    refine refusedInOrder_all asks (exec_resume p s) ?_
    simp [resumeChecks, onHold, -Bool.or_eq_false_iff]
  case refusedAccept =>
    refine refusedInOrder_all asks (exec_acceptFault p s) ?_
    simp [acceptChecks]

end Sys2Proof.Machine
end

section
/-! The hub resets (R169). -/

namespace Sys2Proof.Machine
namespace Hub

section
variable {cause : ResetCause} {h t : Hub} {c : Fin 23} {u : Fin 2}

/-! ## What a reset leaves -/

/-- Abandoning the write marks its stored copy, and nothing else. -/
theorem abandonWrite_rest (h : Hub) : h.abandonWrite = { h with storedGood := h.abandonWrite.storedGood } := by
  unfold abandonWrite
  split <;> rfl

theorem storedGood_markStored (d b : Block) (good : Bool) (h : Hub) :
    (h.markStored d good).storedGood[b.idx] = if d == b then good else h.storedGood[b.idx] := by
  have same : d.idx.val = b.idx.val ↔ (d == b) = true := by cases d <;> cases b <;> decide
  unfold markStored
  simp only [Fin.getElem_fin, Vector.getElem_set, same]

theorem abandonWrite_storedGood (b : Block) (h : Hub) :
    h.abandonWrite.storedGood[b.idx] = if h.writingBlock b then false else h.storedGood[b.idx] := by
  unfold abandonWrite writingBlock
  split
  · next x _ => exact storedGood_markStored x.1 b false h
  · rfl

/-- Beside the records the reset writes, the part stands as it was. -/
theorem hubReset_rest (cause : ResetCause) (h : Hub) :
    h.hubReset cause = { h with
      ports := (h.hubReset cause).ports, channels := (h.hubReset cause).channels, relayCond := .frozen
      relays := Vector.replicate 12 ⟨.off, none, false, .fromReset⟩, dead := Vector.replicate 4 .fromReset
      lamps := Vector.replicate 8 .dark, flash := none, sounder := (h.hubReset cause).sounder
      steppers := (h.hubReset cause).steppers, slots := Vector.replicate 8 ⟨.empty, 0, none, false⟩
      setpoints := Vector.replicate 16 .inactive, mode := .startup, cause := cause, faults := 0
      marks := Vector.replicate 6 .unread, storeOp := none, lastStore := none, loadElapsed := 0
      storedGood := h.abandonWrite.storedGood } := by
  have abandoned := abandonWrite_rest h
  unfold hubReset
  generalize h.abandonWrite = a at abandoned ⊢
  rw [abandoned]
  rfl

theorem hubReset_sounder (cause : ResetCause) (h : Hub) :
    (h.hubReset cause).sounder = Sounder.afterReset (h.hubReset cause).muteValue := rfl

theorem muteValue_idle (idle : ∀ u, (h.stepper u).engine = .idle) : h.muteValue = false := by
  simp [muteValue, stepperMutes, idle]

/-- Each stepper as the reset of the channels finds it. -/
theorem stepper_stoppedForReset (cause : ResetCause) (h : Hub) (u : Fin 2) :
    (h.stoppedForReset cause).stepper u = (h.hubReset cause).stepper u := by
  have channels (x : Hub) : x.resetChannels.stepper u = x.stepper u := by simp only [stepper, resetChannels]
  have later (x : Hub) : x.resetRelays.resetLamps.resetSounder.resetSetpoints.stepper u = x.stepper u := rfl
  exact ((later _).trans (channels _)).symm

theorem stayNow_stoppedForReset (cause : ResetCause) (h : Hub) (u : Fin 2) :
    (h.stoppedForReset cause).stayNow (stepperChannel u) =
      .target (if ((h.hubReset cause).stepper u).ref = .referenced then ((h.hubReset cause).stepper u).pos else 0)
        h.work.steppers[u].refRate := by
  have rate : (h.stoppedForReset cause).refRateOf (stepperChannel u) = h.work.steppers[u].refRate := by
    unfold refRateOf
    rw [outputOf_stepperChannel]
    unfold stepperItem
    rw [work_stoppedForReset]
  have place : (h.stoppedForReset cause).stayPosition u =
      if ((h.hubReset cause).stepper u).ref = .referenced then ((h.hubReset cause).stepper u).pos else 0 := by
    unfold stayPosition
    rw [stepper_stoppedForReset, stepper_hubReset]
    simp
  unfold stayNow
  rw [outputOf_stepperChannel]
  dsimp only
  rw [place, rate]

theorem factoryFallback_stepper (u : Fin 2) : factoryFallback (stepperChannel u) = .stay := by
  rw [factoryFallback, kindOf, outputOf_stepperChannel]

theorem factoryFallback_other (other : kindOf c ≠ .stepper) : factoryFallback c = .command .off := by
  unfold factoryFallback
  cases kind : kindOf c with
  | stepper => exact absurd kind other
  | relay | lamp | sounder => rfl

/-- R169 chapter by chapter. -/
theorem wasReset_hubReset (cause : ResetCause) (h : Hub) : WasReset cause h (h.hubReset cause) := by
  have chan (c : Fin 23) := chan_hubReset cause h c
  have stepper (u : Fin 2) := stepper_hubReset cause h u
  have rest := hubReset_rest cause h
  refine ⟨⟨rfl, rfl, rfl, ?_, rfl, rfl, rfl⟩, ⟨(hubReset_copies cause h).1, (hubReset_copies cause h).2, fun b => ?_⟩,
    port_hubReset cause h, fun c => ?_, fun c other => ?_, fun u => ?_,
    ⟨rfl, fun r => ?_⟩, fun g => Vector.getElem_replicate .., ⟨fun l => Vector.getElem_replicate .., rfl⟩, ?_, fun u => ?_, rfl,
    ⟨fun k => Vector.getElem_replicate .., fun n => Vector.getElem_replicate ..⟩, ?_⟩
  · rw [rest]
  · rw [rest]
    exact abandonWrite_storedGood b h
  · rw [chan]
    exact ⟨rfl, rfl, rfl, rfl, rfl, rfl, rfl⟩
  · rw [chan, channelAfterReset, factoryFallback_other other]
    exact ⟨rfl, rfl⟩
  · dsimp only
    rw [chan, channelAfterReset, factoryFallback_stepper]
    exact ⟨stayNow_stoppedForReset cause h u, congrArg some (stayNow_stoppedForReset cause h u)⟩
  · rw [relay_hubReset]
    exact ⟨rfl, rfl, rfl⟩
  · rw [hubReset_sounder, muteValue_idle fun u => by rw [stepper]]
    exact ⟨rfl, rfl, rfl, rfl, rfl, rfl⟩
  · rw [stepper]
    refine ⟨rfl, rfl, rfl, rfl, rfl, ?_, fun _ => rfl⟩
    simp
  · rw [rest]
    exact ⟨rfl, rfl, rfl, rfl⟩

/-- What R169 says of the part does not speak of RESET_N and the address. -/
theorem WasReset.beside (a : WasReset cause h t) (low : Bool) (addr : BitVec 7) :
    WasReset cause h { t with resetNLow := low, i2cAddr := addr } :=
  ⟨a.controller, a.store, a.ports, a.channels, a.commands, a.stays, a.relays, a.dead, a.lamps, a.sounder, a.steppers,
    a.elapsed, a.measurement, a.pins⟩

theorem hubReset_pins (cause : ResetCause) (h : Hub) :
    (h.hubReset cause).resetNLow = h.resetNLow ∧ (h.hubReset cause).i2cAddr = h.i2cAddr ∧
      (h.hubReset cause).addressOfPins = h.addressOfPins := by
  rw [hubReset_rest]
  exact ⟨rfl, rfl, rfl⟩

theorem readAddress_eq (h : Hub) :
    h.readAddress = { h with
      resetNLow := h.resetNLow, i2cAddr := if h.resetNLow then h.i2cAddr else h.addressOfPins } := by
  unfold readAddress
  split <;> rfl

/-- A reset that ends within its event. -/
theorem wasReset_readAddress (cause : ResetCause) (h : Hub) :
    WasReset cause h (h.hubReset cause).readAddress ∧ (h.hubReset cause).readAddress.resetNLow = h.resetNLow ∧
      (h.hubReset cause).readAddress.i2cAddr = if h.resetNLow then h.i2cAddr else h.addressOfPins := by
  obtain ⟨low, addr, pins⟩ := hubReset_pins cause h
  rw [readAddress_eq]
  refine ⟨(wasReset_hubReset cause h).beside _ _, low, ?_⟩
  dsimp only
  rw [low, addr, pins]

end
end Hub

open Hub

theorem exec_resetHub (p : Port) (s : State) :
    exec (.resetHub p) s = onRequest p (fun h => h.refuseFirst p (h.standing p ++ [(!(h.portItem p).configGrant, .noGrant)])
      (h.hubReset .software).readAddress) s := rfl

/-- Settles O47: the resets by what they leave, chapter by chapter, and by their pins. -/
theorem hubResetsResetThePart : Obligations.HubResetsResetThePart := by
  unfold Obligations.HubResetsResetThePart
  refine fun s => ⟨⟨_, rfl, wasReset_readAddress .powerOn s.hub⟩, fun low => onEvent_still (if_pos low),
    fun high => ⟨_, onEvent_of_eq (if_neg (by simp [high])), ?pin⟩, fun p asks => ⟨((restartLease p s.hub).hubReset .software).readAddress, ?software⟩, fun p asks => ?refused,
    fun high => onEvent_still (if_neg (by simp [high])), fun low => onEvent_of_eq ?released⟩
  case pin =>
    exact ⟨(wasReset_hubReset .pin s.hub).beside true _, rfl, (hubReset_pins .pin s.hub).2.1⟩
  case software =>
    obtain ⟨asks, granted⟩ := asks
    obtain ⟨reset, low, addr⟩ := wasReset_readAddress .software (restartLease p s.hub)
    have high : (restartLease p s.hub).resetNLow = false := by
      rw [restartLease_resetNLow]
      have heard := asks.1
      simp only [takesFrames, Bool.and_eq_true, Bool.not_eq_true'] at heard
      exact heard.1
    refine ⟨exec_taken asks (exec_resetHub p s) (by simp [granted]), reset, low.trans high, addr.trans ?_⟩
    rw [high, restartLease_ports_only]
    rfl
  case refused => exact refusedInOrder_all asks (exec_resetHub p s) (by simp)
  case released =>
    unfold resetNRises readAddress
    rw [if_pos low]
    rfl

end Sys2Proof.Machine
end

section
/-! The results of the start-up load: working copies, marks, fault set and first-fault record (R170). -/

namespace Sys2Proof.Machine
namespace Hub

section
variable {answers : Bool} {h t : Hub} {b : Block}

/-! ## The blocks -/

/-- Where a block of the load comes from: its stored copy, or its factory defaults. -/
def loadSource (answers : Bool) (h : Hub) (b : Block) : Blocks :=
  if h.blockPasses answers b then h.stored else factoryBlocks

/-- The mark a block of the load takes. -/
def loadMark (answers : Bool) (h : Hub) (b : Block) : BlockMark := if h.blockPasses answers b then .good else .bad

theorem loadBlock_eq (answers : Bool) (h : Hub) (b : Block) :
    h.loadBlock answers b =
      { h with
        work := Blocks.copyBlock b (h.loadSource answers b) h.work, marks := h.marks.set b.idx (h.loadMark answers b) } := by
  unfold loadBlock loadSource loadMark
  split <;> rfl

/-- The blocks of a list are loaded one after another, each from the same copies. -/
theorem loadBlocks_eq (answers : Bool) : ∀ (xs : List Block) (h : Hub),
    xs.foldl (loadBlock answers) h = { h with
      work := xs.foldl (fun w b => Blocks.copyBlock b (h.loadSource answers b) w) h.work
      marks := xs.foldl (fun m b => m.set b.idx (h.loadMark answers b)) h.marks }
  | [], _ => rfl
  | b :: xs, h => by
    rw [List.foldl_cons, loadBlocks_eq answers xs, loadBlock_eq]
    rfl

theorem recordFaults_rest (codes : List Nat) (h : Hub) :
    codes.foldl recordFault h = { h with
      faults := (codes.foldl recordFault h).faults, firstFault := (codes.foldl recordFault h).firstFault } := by
  refine List.foldlRecOn (motive := fun t : Hub => t = { h with faults := t.faults, firstFault := t.firstFault }) codes _ rfl
    fun t so code _ => ?_
  refine Eq.trans (b := { t with faults := (t.recordFault code).faults, firstFault := (t.recordFault code).firstFault })
    rfl ?_
  generalize (t.recordFault code).faults = faults
  generalize (t.recordFault code).firstFault = first
  rw [so]

theorem loadResults_rest (answers : Bool) (h : Hub) :
    h.loadResults answers = { h with
      work := (h.loadResults answers).work, marks := (h.loadResults answers).marks
      faults := (h.loadResults answers).faults, firstFault := (h.loadResults answers).firstFault
      sounder := { h.sounder with mute := (h.loadResults answers).muteValue } } := by
  have loaded := loadOnly_loadedBlocks answers h
  rw [loadResults_eq]
  unfold LoadOnly at loaded
  generalize h.loadedBlocks answers = a at loaded ⊢
  rw [loaded]
  rfl

theorem loadResults_blocks (answers : Bool) (h : Hub) :
    (h.loadResults answers).work =
        Block.all.foldl (fun w b => Blocks.copyBlock b (h.loadSource answers b) w) h.work ∧
      (h.loadResults answers).marks = Block.all.foldl (fun m b => m.set b.idx (h.loadMark answers b)) h.marks := by
  have faults := recordFaults_rest (h.faultsFound answers) (Block.all.foldl (loadBlock answers) h)
  rw [loadBlocks_eq] at faults
  have same : (h.loadResults answers).work = (h.loadedBlocks answers).work ∧
      (h.loadResults answers).marks = (h.loadedBlocks answers).marks := ⟨rfl, rfl⟩
  rw [same.1, same.2, loadedBlocks, loadBlocks_eq, faults]
  exact ⟨rfl, rfl⟩

/-- Each field of the working copy comes from the source of its block. -/
theorem loadResults_work (answers : Bool) (h : Hub) :
    (h.loadResults answers).work =
      { ports := (h.loadSource answers .ports).ports, fallbacks := (h.loadSource answers .channels).fallbacks
        handovers := (h.loadSource answers .channels).handovers, relays := (h.loadSource answers .channels).relays
        soundMotion := (h.loadSource answers .channels).soundMotion, steppers := (h.loadSource answers .channels).steppers
        groups := (h.loadSource answers .groups).groups, slots := (h.loadSource answers .slots).slots
        setpoints := (h.loadSource answers .setpoints).setpoints
        calibration := (h.loadSource answers .calibration).calibration } := (loadResults_blocks answers h).1

theorem loadResults_marks (answers : Bool) (h : Hub) (b : Block) :
    (h.loadResults answers).marks[b.idx] = h.loadMark answers b := by
  rw [(loadResults_blocks answers h).2]
  have low : (3 : Fin 6).val = 3 ∧ (4 : Fin 6).val = 4 ∧ (5 : Fin 6).val = 5 := ⟨rfl, rfl, rfl⟩
  cases b <;> simp [Block.all, Block.idx, low]

/-! ## The fault set -/

theorem recordFaults_faults (codes : List Nat) (h : Hub) (n : Fin 8) :
    (codes.foldl recordFault h).faults.getLsbD n = (h.faults.getLsbD n || decide (n.val ∈ codes)) := by
  induction codes generalizing h with
  | nil => simp
  | cons code more ih =>
    have took : (h.recordFault code).faults = h.faults ||| BitVec.twoPow 8 code := rfl
    rw [List.foldl_cons, ih, took, BitVec.getLsbD_or, BitVec.getLsbD_twoPow]
    by_cases own : code = n.val
    · simp [own]
    · simp [own, Ne.symm own]

theorem loadResults_faults (answers : Bool) (n : Fin 8) (free : h.faults = 0) :
    (h.loadResults answers).faults.getLsbD n = decide (n.val ∈ h.faultsFound answers) := by
  have same : (h.loadResults answers).faults = (h.loadedBlocks answers).faults := rfl
  rw [same, loadedBlocks, recordFaults_faults, loadBlocks_eq]
  simp [free]

theorem mem_faultsFound (n : Fin 8) (h : Hub) :
    decide (n.val ∈ h.faultsFound answers) =
      if answers then Block.all.any fun b => !h.blockPasses answers b && b.code == n.val else n == 7 := by
  unfold faultsFound
  cases answers with
  | true =>
    rw [Bool.eq_iff_iff]
    simp [List.mem_map, List.mem_filter, and_assoc]
  | false =>
    rw [Bool.eq_iff_iff]
    simp [Fin.ext_iff, show (7 : Fin 8).val = 7 from rfl]

/-- A record of 0 takes the lowest code; another keeps its own. -/
theorem loadResults_record (answers : Bool) (h : Hub) :
    (h.loadResults answers).firstFault =
      if h.firstFault ≠ 0 then h.firstFault
      else if answers then ((Block.all.find? fun b => !h.blockPasses answers b).map (·.code)).getD 0 else 7 := by
  have same : (h.loadResults answers).firstFault =
      ((h.faultsFound answers).foldl recordFault (Block.all.foldl (loadBlock answers) h)).firstFault := rfl
  have before : (Block.all.foldl (loadBlock answers) h).firstFault = h.firstFault :=
    firstFault_foldl _ (loadBlock_firstFault answers) _ h
  by_cases held : h.firstFault = 0
  · rw [if_neg (by simpa using held)]
    have first : (if answers then ((Block.all.find? fun b => !h.blockPasses answers b).map (·.code)).getD 0 else 7) =
        ((h.faultsFound answers).head?).getD 0 := by
      unfold faultsFound
      cases answers with
      | true => rw [if_pos rfl, if_pos rfl, List.head?_map, List.head?_filter]
      | false => rfl
    rw [first]
    cases found : h.faultsFound answers with
    | nil =>
      rw [same, found]
      exact before.trans held
    | cons code more =>
      have ascending := h.faultsFound_ascending answers
      rw [found, List.pairwise_cons] at ascending
      exact loadResults_firstFault held found (Nat.ne_of_gt (ascending.1 code List.mem_cons_self))
  · rw [if_pos held, same, recordFaults_firstFault_held (by rwa [before]), before]

/-- Any code but 6 is a hard fault. -/
theorem hardFault_iff : h.hardFault = true ↔ ∃ n : Fin 8, n ≠ 6 ∧ h.faults.getLsbD n = true := by
  have bits (x : BitVec 8) : (x &&& ~~~(BitVec.twoPow 8 6) != 0) = true ↔ ∃ n : Fin 8, n ≠ 6 ∧ x.getLsbD n = true := by
    revert x
    decide +kernel
  exact bits h.faults

/-- The load ends with no code but 6 where every block but that of the calibration passes. -/
theorem faultsFound_hard (answers : Bool) (h : Hub) :
    (∃ n : Fin 8, n ≠ 6 ∧ decide (n.val ∈ h.faultsFound answers) = true) ↔
      (answers && Block.all.all fun b => h.blockPasses answers b || b == .calibration) = false := by
  simp only [mem_faultsFound]
  cases answers with
  | false => simp
  | true =>
    simp only [if_true, Bool.true_and, List.any_eq_true, Bool.and_eq_true, Bool.not_eq_true', beq_iff_eq, List.all_eq_false,
      Bool.or_eq_false_iff, Bool.not_eq_true, beq_eq_false_iff_ne]
    constructor
    · rintro ⟨n, other, b, mem, fails, code⟩
      refine ⟨b, mem, fails, fun same => other (Fin.ext ?_)⟩
      rw [← code, same]
      rfl
    · rintro ⟨b, mem, fails, other⟩
      have within : b.code < 8 := by cases b <;> decide
      refine ⟨⟨b.code, within⟩, fun same => other ?_, b, mem, fails, rfl⟩
      have named (k : Block) : k.code = 6 → k = .calibration := by cases k <;> decide
      exact named b (congrArg Fin.val same)

end
end Hub
end Sys2Proof.Machine
end

section
/-! The end of the start-up load (R16, R34, R108, R128, R170). -/

namespace Sys2Proof.Machine
namespace Hub

section
variable {answers : Bool} {h t : Hub} {c : Fin 23} {u : Fin 2}

/-! ## The references compared -/

/-- The part as the load compares the references. -/
def compared (answers : Bool) (h : Hub) : Hub := ((h.loadResults answers).readRelayRuns.checkReference 0).checkReference 1

theorem afterLoad_eq (answers : Bool) (h : Hub) : h.afterLoad answers = (h.compared answers).passAll.litOnce := rfl

theorem checkReference_rest (u : Fin 2) (h : Hub) :
    h.checkReference u = { h with
      steppers := (h.checkReference u).steppers
      sounder := { h.sounder with mute := (h.checkReference u).sounder.mute } } := by
  unfold checkReference
  split <;> rfl

theorem stepper_checkReference (u : Fin 2) (h : Hub) :
    (h.checkReference u).stepper u = { h.stepper u with
      ref := if (h.stepper u).ref = .referenced ∧ h.work.steppers[u].travel < (h.stepper u).pos then .unreferenced
        else (h.stepper u).ref } := by
  unfold checkReference
  split
  · next lost =>
    simp only [Bool.and_eq_true, beq_iff_eq, decide_eq_true_eq] at lost
    change _ ∧ h.work.steppers[u].travel < _ at lost
    rw [stepper_modStepper_same, if_pos lost]
  · next kept =>
    simp only [Bool.and_eq_true, beq_iff_eq, decide_eq_true_eq] at kept
    change ¬ (_ ∧ h.work.steppers[u].travel < _) at kept
    rw [if_neg kept]

theorem compared_rest (answers : Bool) (h : Hub) :
    h.compared answers = { h with
      work := (h.loadResults answers).work, marks := (h.loadResults answers).marks
      faults := (h.loadResults answers).faults, firstFault := (h.loadResults answers).firstFault
      relays := (h.loadResults answers).readRelayRuns.relays, dead := (h.loadResults answers).readRelayRuns.dead
      steppers := (h.compared answers).steppers
      sounder := { h.sounder with mute := (h.compared answers).sounder.mute } } := by
  have second := checkReference_rest 1 ((h.loadResults answers).readRelayRuns.checkReference 0)
  have first := checkReference_rest 0 (h.loadResults answers).readRelayRuns
  have results := loadResults_rest answers h
  have runs (x : Hub) : x.readRelayRuns = { x with relays := x.readRelayRuns.relays, dead := x.readRelayRuns.dead } := rfl
  have runs := runs (h.loadResults answers)
  unfold compared
  generalize ((h.loadResults answers).readRelayRuns.checkReference 0).checkReference 1 = d at second ⊢
  generalize (h.loadResults answers).readRelayRuns.checkReference 0 = b at first second
  generalize (h.loadResults answers).readRelayRuns = a at runs first ⊢
  generalize h.loadResults answers = r at results runs ⊢
  rw [second, first, runs, results]

theorem stepper_compared (answers : Bool) (h : Hub) (u : Fin 2) :
    (h.compared answers).stepper u = { h.stepper u with
      ref := if (h.stepper u).ref = .referenced ∧ (h.loadResults answers).work.steppers[u].travel < (h.stepper u).pos then
          .unreferenced
        else (h.stepper u).ref } := by
  have before (w : Fin 2) : (h.loadResults answers).readRelayRuns.stepper w = h.stepper w := by
    have same : (h.loadResults answers).readRelayRuns.steppers = h.steppers := (loadResults_steppers answers h).1
    rw [stepper, same]
    rfl
  have first := stepperOnly_checkReference 0 (h.loadResults answers).readRelayRuns
  have second := stepperOnly_checkReference 1 ((h.loadResults answers).readRelayRuns.checkReference 0)
  have work : ((h.loadResults answers).readRelayRuns.checkReference 0).work = (h.loadResults answers).work := first.work
  match u with
  | 0 => exact (second.others 0 (by decide)).trans (by rw [stepper_checkReference, before]; rfl)
  | 1 =>
    refine (stepper_checkReference 1 _).trans ?_
    rw [first.others 1 (by decide), before, work]

theorem compared_mute (answers : Bool) (h : Hub) : (h.compared answers).sounder.mute = (h.compared answers).muteValue := by
  have fresh : (h.loadResults answers).readRelayRuns.sounder.mute = (h.loadResults answers).readRelayRuns.muteValue := rfl
  exact (stepperOnly_checkReference 1 _).mute ((stepperOnly_checkReference 0 _).mute fresh)

/-! ## The local layers passed -/

/-- Outside RUN a forming writes ports and channels alone. -/
theorem form_rest (halted : h.mode ≠ .run) (c : Fin 23) (cause : FormCause) :
    h.form c cause = { h with ports := (h.form c cause).ports, channels := (h.form c cause).channels } := by
  have mode : (h.formedUp c cause).mode = h.mode := by rw [formedUp_rest]
  rw [form_eq, passOn, mode, if_neg halted, formedUp_rest]
  rfl

/-- From STARTUP on, the layers passed move ports and channels alone, and of a channel neither its claims nor what it has
taken nor its handover. -/
structure LayersPassed (h t : Hub) : Prop where
  rest : t = { h with ports := t.ports, channels := t.channels }
  ports : ∀ p, t.port p = { h.port p with flags := (t.port p).flags, change := (t.port p).change }
  channels : ∀ c, (t.chan c).claims = (h.chan c).claims ∧ (t.chan c).taken = (h.chan c).taken ∧
    (t.chan c).handover = (h.chan c).handover

theorem LayersPassed.refl (h : Hub) : LayersPassed h h := ⟨rfl, fun _ => rfl, fun _ => ⟨rfl, rfl, rfl⟩⟩

theorem LayersPassed.mode (a : LayersPassed h t) : t.mode = h.mode := by rw [a.rest]

theorem LayersPassed.trans {v : Hub} (a : LayersPassed h t) (b : LayersPassed t v) : LayersPassed h v where
  rest := by
    refine Eq.trans b.rest ?_
    have first := a.rest
    generalize v.ports = ports
    generalize v.channels = channels
    rw [first]
  ports p := by rw [b.ports p, a.ports p]
  channels c :=
    ⟨(b.channels c).1.trans (a.channels c).1, (b.channels c).2.1.trans (a.channels c).2.1,
      (b.channels c).2.2.trans (a.channels c).2.2⟩

theorem layersPassed_passLoaded (startup : h.mode = .startup) (c : Fin 23) : LayersPassed h (h.passLoaded c) := by
  have halted : (h.modChan c fun x => { x with input := h.localLayer c }).mode ≠ .run := by
    rw [show (h.modChan c fun x => { x with input := h.localLayer c }).mode = h.mode from rfl, startup]
    simp
  refine ⟨?_, (tells_passInput c _ .load h).ports, fun k => ?_⟩
  · unfold passLoaded passInput
    rw [form_rest halted]
    rfl
  · unfold passLoaded passInput
    rw [chan_form]
    split
    · next same =>
      subst same
      unfold formedChannel
      dsimp only
      refine ⟨?_, (if_neg halted).trans ?_, ?_⟩
      all_goals rw [chan_modChan, if_pos rfl]
    · next other =>
      rw [chan_modChan, if_neg other]
      exact ⟨rfl, rfl, rfl⟩

theorem layersPassed_passAll (startup : h.mode = .startup) : LayersPassed h h.passAll :=
  List.foldlRecOn (motive := LayersPassed h) _ passLoaded (.refl h) fun _ so c _ =>
    so.trans (layersPassed_passLoaded (so.mode.trans startup) c)

/-- A local input of STAY is a fallback. -/
theorem localLayer_stay (stay : (h.localLayer c).value = .stay) : h.localLayer c = ⟨.stay, false⟩ := by
  unfold localLayer at stay ⊢
  split
  · next undriven =>
    rw [if_pos undriven] at stay
    rw [show h.work.fallbacks[c] = .stay from stay]
  · next driven =>
    rw [if_neg driven] at stay
    cases stay

/-- The stay value of a stepper at rest as the load leaves it (R11, R49). -/
theorem passAll_stay (u : Fin 2) (h : Hub) :
    ((h.passAll.chan (stepperChannel u)).claims = [] ∧ (h.localLayer (stepperChannel u)).value = .stay →
      (h.stepper u).engine = .idle → (h.passAll.chan (stepperChannel u)).stay = some (.target
        (if (h.stepper u).ref = .referenced then (h.stepper u).pos else 0) h.work.steppers[u].refRate)) ∧
    (¬ ((h.passAll.chan (stepperChannel u)).claims = [] ∧ (h.localLayer (stepperChannel u)).value = .stay) →
      (h.passAll.chan (stepperChannel u)).stay = none) := by
  obtain ⟨m, since, till⟩ := foldl_moment (c := stepperChannel u)
    (fun x k => reach_passInput (only_self k) (x.localLayer k) .load x) (List.nodup_finRange 23)
    (List.mem_finRange (stepperChannel u)) h
  have last : h.passAll.chan (stepperChannel u) = (m.passLoaded (stepperChannel u)).chan (stepperChannel u) :=
    till.channels _ (others_self _)
  have layer : m.localLayer (stepperChannel u) = h.localLayer (stepperChannel u) := localLayer_of_reach since _
  have stepper : m.stepper u = h.stepper u := since.steppers u (others_self _)
  generalize e : (m.modChan (stepperChannel u) fun x => { x with input := m.localLayer (stepperChannel u) }) = a
  have formed := stayFormed_form u .load a
  have passed : m.passLoaded (stepperChannel u) = a.form (stepperChannel u) .load := by rw [← e]; rfl
  have input : (a.chan (stepperChannel u)).input = h.localLayer (stepperChannel u) := by
    rw [← e, chan_modChan, if_pos rfl, layer]
  have claims : ((a.form (stepperChannel u) .load).chan (stepperChannel u)).claims = (a.chan (stepperChannel u)).claims := by
    rw [chan_form, if_pos rfl]
    rfl
  have unit : a.stepper u = h.stepper u := by rw [← e]; exact stepper
  have work : a.work = h.work := by rw [← e]; exact since.work
  rw [last, passed, claims]
  refine ⟨fun ⟨empty, stay⟩ idle => ?_, fun away => formed.absent fun ⟨empty, stay⟩ => away ⟨empty, ?_⟩⟩
  · rw [formed.passed ⟨empty, input.trans (localLayer_stay stay)⟩ (.inr rfl), stayOf, unit, work, idle]
  · rw [← input, stay]

/-! ## The load up to its decision -/

theorem loadResults_mode (answers : Bool) (startup : h.mode = .startup) : (h.compared answers).mode = .startup := by
  rw [compared_rest]
  exact startup

theorem afterLoad_rest (answers : Bool) (startup : h.mode = .startup) :
    h.afterLoad answers = { h.compared answers with
      ports := (h.afterLoad answers).ports, channels := (h.afterLoad answers).channels
      lamps := (h.afterLoad answers).lamps, flash := some 0 } := by
  have passed := (layersPassed_passAll (loadResults_mode answers startup)).rest
  rw [afterLoad_eq]
  generalize (h.compared answers).passAll = a at passed ⊢
  generalize h.compared answers = b at passed ⊢
  rw [passed]
  rfl

theorem stepper_of_steppers (same : t.steppers = h.steppers) (u : Fin 2) : t.stepper u = h.stepper u := by
  rw [stepper, same]
  rfl

theorem relay_of_relays (same : t.relays = h.relays) (r : Fin 12) : t.relay r = h.relay r := by
  rw [relay, same]
  rfl

theorem deadTimer_of_dead (same : t.dead = h.dead) (g : Fin 4) : t.deadTimer g = h.deadTimer g := by
  rw [deadTimer, same]
  rfl

theorem port_of_ports (same : t.ports = h.ports) (p : Port) : t.port p = h.port p := by
  rw [port, same]
  rfl

theorem litOnce_rest (h : Hub) : h.litOnce = { h with lamps := h.litOnce.lamps, flash := some 0 } := rfl

theorem lamp_litOnce (l : Fin 8) (h : Hub) : h.litOnce.lamp l = lampDrive (some 0) (h.chan (lampChannel l)).taken :=
  Vector.getElem_ofFn ..

/-- The runs the reset started, with their loaded lengths (R108). -/
theorem readRelayRuns_reads (h : Hub) :
    (∀ r, h.readRelayRuns.relay r =
      { h.relay r with mark := minOffRun (Config.ms (100 * h.work.relays[r].minOff) - h.loadElapsed) }) ∧
    ∀ g, h.readRelayRuns.deadTimer g =
      if h.groupInUse g then deadRun (Config.ms (10 * h.work.groups[g].deadTime) - h.loadElapsed) false else .expired := by
  constructor
  · intro r
    simp [readRelayRuns, relay, Config.tenths]
  · intro g
    simp [readRelayRuns, deadTimer, Config.hundredths]

/-- R170, steps 1 to 4. -/
theorem loaded_afterLoad (answers : Bool) (startup : h.mode = .startup) : Loaded h (h.afterLoad answers) := by
  have mode := loadResults_mode answers startup
  have compared := compared_rest answers h
  have steppers := stepper_compared answers h
  have mute := compared_mute answers h
  obtain ⟨runs, dead⟩ := readRelayRuns_reads (h.loadResults answers)
  have results := loadResults_rest answers h
  have elapsed : (h.loadResults answers).loadElapsed = h.loadElapsed := by rw [results]
  have relays : (h.loadResults answers).relays = h.relays := by rw [results]
  rw [elapsed] at runs dead
  have passed := layersPassed_passAll mode
  have lit := litOnce_rest (h.compared answers).passAll
  have lamps (l : Fin 8) := lamp_litOnce l (h.compared answers).passAll
  obtain ⟨after, formed⟩ := arbitrated_passAll mode
  have alike := arbitrationAlike_litOnce (h.compared answers).passAll
  have stays (u : Fin 2) := passAll_stay u (h.compared answers)
  rw [afterLoad_eq]
  generalize (h.compared answers).passAll.litOnce = m at lit lamps alike ⊢
  generalize (h.compared answers).passAll = a at passed lit lamps formed alike stays
  generalize h.compared answers = b at compared steppers mute passed stays
  have ran : (h.loadResults answers).readRelayRuns.work = (h.loadResults answers).work := rfl
  generalize (h.loadResults answers).readRelayRuns = d at compared runs dead
  generalize h.loadResults answers = r at compared steppers runs dead relays
  have rest := passed.rest
  have work : m.work = r.work := by rw [lit, rest, compared]
  have layer (c : Fin 23) : a.localLayer c = b.localLayer c :=
    localLayer_congr (fun n => by rw [setpointItem, rest]; rfl) (fun n => by rw [driving, rest]; rfl) (by rw [rest])
  have before (c : Fin 23) : b.chan c = h.chan c := chan_of_channels (by rw [compared]) c
  have now (c : Fin 23) : m.chan c = a.chan c := chan_of_channels (by rw [lit]) c
  have unit (u : Fin 2) : m.stepper u = b.stepper u := stepper_of_steppers (by rw [lit, rest]) u
  refine ⟨?rest, fun p => ?ports, fun r => ?relays, fun g => ?dead, fun u => ?steppers, ?sounder, fun c => ?channels,
    fun u => ?stays, ?lamps⟩
  case rest => rw [lit, rest, compared]
  case ports =>
    rw [port_of_ports (t := m) (h := a) (by rw [lit]), passed.ports p, port_of_ports (t := b) (h := h) (by rw [compared])]
  case relays =>
    rw [relay_of_relays (t := m) (h := d) (by rw [lit, rest, compared]), runs, work, relay_of_relays relays]
  case dead =>
    rw [deadTimer_of_dead (t := m) (h := d) (by rw [lit, rest, compared]), dead, groupInUse, groupInUse, work]
  case steppers => rw [unit, steppers, work]
  case sounder =>
    have same : m.sounder = b.sounder := by rw [lit, rest]
    have muted : m.muteValue = b.muteValue := muteValue_of_steppers (by rw [lit, rest]) (by rw [lit, rest])
    rw [same, muted, ← mute]
    conv => lhs; rw [compared]
  case channels =>
    obtain ⟨claims, taken, handover⟩ := passed.channels c
    rw [before] at claims taken handover
    rw [now]
    refine ⟨claims, taken, handover, ?_, (formed c).1.alike (alike.chan c) alike.mode (alike.rate c)⟩
    rw [← now]
    exact alike.layered (formed c).2
  case stays =>
    have input : (a.chan (stepperChannel u)).input = b.localLayer (stepperChannel u) := (formed _).2.trans (layer _)
    have stay := stays u
    have worked : b.work = r.work := by rw [compared]
    rw [← input, steppers, worked] at stay
    rw [now, unit, steppers, work]
    exact stay
  case lamps =>
    refine ⟨by rw [lit], fun l => ?_⟩
    rw [lamps, (passed.channels (lampChannel l)).2.1, before]

/-! ## The decision -/

theorem endLoad_holds (hard : (h.afterLoad answers).hardFault = true) :
    h.endLoad answers = { h.afterLoad answers with mode := .faultHold } := by rw [endLoad_eq, if_pos hard]

theorem endLoad_runs (soft : (h.afterLoad answers).hardFault = false) : h.endLoad answers = (h.afterLoad answers).enterRun := by
  rw [endLoad_eq, if_neg (by simp [soft])]

/-- Neither decision writes the configuration, the store, the faults or the flash clock. -/
structure RecordsKept (h t : Hub) : Prop where
  work : t.work = h.work
  marks : t.marks = h.marks
  stored : t.stored = h.stored
  storedGood : t.storedGood = h.storedGood
  faults : t.faults = h.faults
  firstFault : t.firstFault = h.firstFault
  flash : t.flash = h.flash

theorem recordsKept_endLoad (answers : Bool) (h : Hub) : RecordsKept (h.afterLoad answers) (h.endLoad answers) := by
  cases hard : (h.afterLoad answers).hardFault with
  | true =>
    have held := endLoad_holds hard
    generalize h.afterLoad answers = m at held ⊢
    generalize h.endLoad answers = t at held ⊢
    constructor <;> rw [held]
  | false =>
    rw [endLoad_runs hard]
    have rest := (enteredRun_enterRun (h.afterLoad answers)).rest
    generalize (h.afterLoad answers).enterRun = t at rest ⊢
    constructor <;> rw [rest]

/-- The results stand to the decision. -/
theorem afterLoad_results (answers : Bool) (startup : h.mode = .startup) :
    (h.afterLoad answers).work = (h.loadResults answers).work ∧ (h.afterLoad answers).marks = (h.loadResults answers).marks ∧
      (h.afterLoad answers).faults = (h.loadResults answers).faults ∧
      (h.afterLoad answers).firstFault = (h.loadResults answers).firstFault ∧ (h.afterLoad answers).flash = some 0 ∧
      (h.afterLoad answers).stored = h.stored ∧ (h.afterLoad answers).storedGood = h.storedGood := by
  have after := afterLoad_rest answers startup
  have compared := compared_rest answers h
  generalize h.afterLoad answers = m at after ⊢
  generalize h.compared answers = b at after compared
  rw [after, compared]
  exact ⟨rfl, rfl, rfl, rfl, rfl, rfl, rfl⟩

theorem hardFault_afterLoad (answers : Bool) (startup : h.mode = .startup) (free : h.faults = 0) :
    (h.afterLoad answers).hardFault =
      !(answers && Block.all.all fun b => h.blockPasses answers b || b == .calibration) := by
  have faults := (afterLoad_results answers startup).2.2.1
  have hard := faultsFound_hard answers h
  rw [Bool.eq_iff_iff, hardFault_iff, faults]
  simp only [loadResults_faults answers _ free]
  rw [hard, Bool.not_eq_true']

theorem Loaded.frozen {m : Hub} (loaded : Loaded h m) (frozen : h.Frozen) : m.Frozen where
  relays := by rw [loaded.rest]; exact frozen.relays
  sounder := by rw [loaded.sounder]; exact frozen.sounder
  steppers u := by rw [loaded.steppers]; exact frozen.steppers u

theorem endLoad_mode (answers : Bool) (startup : h.mode = .startup) (free : h.faults = 0) :
    (h.endLoad answers).mode =
      if answers && (Block.all.all fun b => h.blockPasses answers b || b == .calibration) then .run else .faultHold := by
  have hard := hardFault_afterLoad answers startup free
  cases passes : answers && (Block.all.all fun b => h.blockPasses answers b || b == .calibration) with
  | true => rw [endLoad_runs (by rw [hard, passes]; rfl), (enteredRun_enterRun _).mode, if_pos rfl]
  | false => rw [endLoad_holds (by rw [hard, passes]; rfl), if_neg (by simp)]

/-- What the decision makes of the part the load leaves. -/
theorem endLoad_decides (answers : Bool) (h : Hub) :
    ((h.endLoad answers).mode = .faultHold → h.endLoad answers = { h.afterLoad answers with mode := .faultHold }) ∧
      ((h.endLoad answers).mode = .run → h.endLoad answers = (h.afterLoad answers).enterRun) := by
  cases hard : (h.afterLoad answers).hardFault with
  | true =>
    rw [endLoad_holds hard]
    exact ⟨fun _ => rfl, fun run => by cases run⟩
  | false =>
    rw [endLoad_runs hard]
    refine ⟨fun hold => ?_, fun _ => rfl⟩
    rw [(enteredRun_enterRun _).mode] at hold
    cases hold

end
end Hub

open Hub

/-- Settles O48: the results block by block, the part before the decision, and the decision by the codes found. -/
theorem endOfLoadFillsTheWorkingCopies : Obligations.EndOfLoadFillsTheWorkingCopies := by
  unfold Obligations.EndOfLoadFillsTheWorkingCopies
  intro answers s
  refine ⟨fun away => onEvent_still (if_neg ?_), fun startup released free => ?_⟩
  · rcases away with mode | low
    · simp [loading, mode]
    · simp [loading, low]
  dsimp only
  have kept := recordsKept_endLoad answers s.hub
  obtain ⟨work, marks, faults, first, flash, stored, good⟩ := afterLoad_results answers startup
  have mode := endLoad_mode answers startup free
  have decides := endLoad_decides answers s.hub
  have arbitrated : (s.hub.endLoad answers).Arbitrated := arbitrated_endLoad answers startup
  have loaded := loaded_afterLoad answers startup
  have sources := loadResults_work answers s.hub
  have ended := exec_endOfLoad_loading answers startup released
  generalize s.hub.endLoad answers = t at *
  have copies : t.work = (s.hub.loadResults answers).work := kept.work.trans work
  refine ⟨t, ended, fun b => ?marks, ?_, ?_, ?_, ?_, ?_, ?_, ?_, ?_, ?_, ?_, kept.stored.trans stored,
    kept.storedGood.trans good, fun n => ?faults, ?first, mode, kept.flash.trans flash, fun c => ⟨?layer, arbitrated.1.formed c⟩,
    s.hub.afterLoad answers, loaded, kept.work.symm, decides.1, fun run => ⟨?entered, fun relays sounder steppers => ?thawed⟩⟩
  case marks =>
    rw [kept.marks, marks, loadResults_marks]
    rfl
  case faults =>
    rw [kept.faults, faults, loadResults_faults answers n free]
    exact mem_faultsFound n s.hub
  case first =>
    rw [kept.firstFault, first]
    exact loadResults_record answers s.hub
  case layer =>
    refine arbitrated.2 ?_ c
    rw [mode]
    split <;> simp
  case entered =>
    rw [decides.2 run]
    exact enteredRun_enterRun _
  case thawed =>
    rw [decides.2 run]
    exact thawed_enterRun (loaded.frozen ⟨relays, sounder, steppers⟩)
  all_goals
    rw [copies, sources]
    rfl

end Sys2Proof.Machine
end

section
/-! CONFIG_WRITE: what it refuses (R177). -/

namespace Sys2Proof.Machine
namespace Hub

section
variable {h t : Hub} {b : Block} {field : Byte} {v : BitVec 32}

/-! ## The checks -/

/-- Of a list without repetition, two members are distinct where it has two. -/
theorem two_le_length_iff {α : Type} {xs : List α} (nodup : xs.Nodup) : 2 ≤ xs.length ↔ ∃ x ∈ xs, ∃ y ∈ xs, x ≠ y := by
  match xs, nodup with
  | [], _ => simp
  | [x], _ => simp
  | x :: y :: xs, nodup =>
    have apart : x ≠ y := fun same => (List.nodup_cons.mp nodup).1 (same ▸ List.mem_cons_self)
    exact ⟨fun _ => ⟨x, List.mem_cons_self, y, List.mem_cons_of_mem x List.mem_cons_self, apart⟩, fun _ => by simp⟩

/-- Check 7: the list names two relays physically ON. -/
theorem closesTwo_iff :
    h.closesTwo b field v = true ↔ b = .groups ∧ field = 0 ∧ ∃ q r : Fin 12, q ≠ r ∧ v.getLsbD q.val = true ∧
      v.getLsbD r.val = true ∧ (h.relay q).output = true ∧ (h.relay r).output = true := by
  unfold closesTwo
  simp only [Bool.and_eq_true, beq_iff_eq, decide_eq_true_eq, and_assoc]
  rw [two_le_length_iff ((List.nodup_finRange 12).filter _)]
  simp only [List.mem_filter, List.mem_finRange, true_and, Bool.and_eq_true]
  refine and_congr_right fun _ => and_congr_right fun _ => ?_
  exact ⟨fun ⟨q, ⟨nq, oq⟩, r, ⟨nr, orr⟩, apart⟩ => ⟨q, r, apart, nq, nr, oq, orr⟩,
    fun ⟨q, r, apart, nq, nr, oq, orr⟩ => ⟨q, ⟨nq, oq⟩, r, ⟨nr, orr⟩, apart⟩⟩

theorem ofByte_groups : ∀ block : Byte, Block.ofByte block = some .groups ↔ block = 3 := by decide +kernel

theorem writingBlock_iff : h.writingBlock b = true ↔ ∃ q, h.storeOp = some (b, q) := by
  unfold writingBlock
  cases h.storeOp with
  | none => simp
  | some x => obtain ⟨d, q⟩ := x; simp

/-- The checks of CONFIG_WRITE before that of its field. -/
def writeChecks (p : Port) (block : Byte) (h : Hub) : List (Bool × Result) :=
  [(!(h.portItem p).configGrant, .noGrant), (h.notWritable, .wrongMode),
    ((Block.ofByte block).any h.writingBlock, .storeBusy)]

/-- The check of the field, or of what it closes. -/
def fieldChecks (block item field : Byte) (v : BitVec 32) (h : Hub) : List (Bool × Result) :=
  match h.fieldWritten block item field v with
  | some _ => [((Block.ofByte block).any fun b => h.closesTwo b field v, .interlockConflict)]
  | none => [(true, .badConfig)]

/-- The part a CONFIG_WRITE taken leaves. -/
def configWritten (p : Port) (block item field : Byte) (v : BitVec 32) (h : Hub) : Hub :=
  match h.fieldWritten block item field v with
  | some written => written.respond p .ok []
  | none => h

theorem decideConfigWrite_eq (p : Port) (block item field : Byte) (v : BitVec 32) (h : Hub) :
    h.decideConfigWrite p block item field v =
      h.refuseFirst p (h.standing p ++ (h.writeChecks p block ++ h.fieldChecks block item field v))
        (h.configWritten p block item field v) := by
  unfold decideConfigWrite fieldChecks configWritten
  cases h.fieldWritten block item field v <;> simp [writeChecks, granted, List.append_assoc]

end
end Hub

open Hub

theorem exec_configWrite (p : Port) (block item field : Byte) (v : BitVec 32) (s : State) :
    exec (.configWrite p block item field v) s = onRequest p (fun h => h.refuseFirst p
      (h.standing p ++ (h.writeChecks p block ++ h.fieldChecks block item field v))
      (h.configWritten p block item field v)) s := by
  have decided : exec (.configWrite p block item field v) s = onRequest p (decideConfigWrite p block item field v) s := rfl
  rw [decided]
  congr 1
  funext h
  exact decideConfigWrite_eq p block item field v h

/-- Past the first five checks that of the field decides. -/
theorem exec_configWrite_allowed {p : Port} {block item field : Byte} {v : BitVec 32} {s : State}
    (asks : s.hub.MayAskGranted p) (mode : s.hub.mode = .held ∨ s.hub.mode = .faultHold)
    (free : ∀ b, Block.ofByte block = some b → s.hub.writingBlock b = false) :
    exec (.configWrite p block item field v) s = .next { s with
      hub := (restartLease p s.hub).refuseFirst p ((restartLease p s.hub).fieldChecks block item field v)
        ((restartLease p s.hub).configWritten p block item field v) } := by
  obtain ⟨asks, granted⟩ := asks
  have writable : (restartLease p s.hub).notWritable = false := by
    rcases mode with e | e <;> simp [notWritable, e]
  have idle : (Block.ofByte block).any (restartLease p s.hub).writingBlock = false := by
    cases named : Block.ofByte block with
    | none => rfl
    | some b =>
      have same : (restartLease p s.hub).writingBlock b = s.hub.writingBlock b := by
        rw [writingBlock, restartLease_storeOp]
        rfl
      rw [Option.any_some, same]
      exact free b named
  rw [exec_asked asks (exec_configWrite p block item field v s), writeChecks, List.cons_append, List.cons_append,
    List.cons_append, refuseFirst_cons, refuseFirst_cons, refuseFirst_cons, restartLease_portItem, granted, writable, idle]
  rfl

/-- Settles O50: the checks in their order, and the writes that a field's rule refuses. -/
theorem configWritesAreTakenOrRefused : Obligations.ConfigWritesAreTakenOrRefused := by
  unfold Obligations.ConfigWritesAreTakenOrRefused
  refine ⟨fun p block item field v s asks mode free => ?taken, fun v h => ?rules, fun p block item field v s asks => ?refused,
    fun block item field v h => ?blocks, fun b item field v h => write_none b item field v h⟩
  case taken =>
    have decided := exec_configWrite_allowed (item := item) (field := field) (v := v) asks mode free
    have closes : ((Block.ofByte block).any fun b => (restartLease p s.hub).closesTwo b field v) = true ↔
        (block = 3 ∧ field = 0 ∧ ∃ q r : Fin 12, q ≠ r ∧ v.getLsbD q.val = true ∧ v.getLsbD r.val = true ∧
          (s.hub.relay q).output = true ∧ (s.hub.relay r).output = true) := by
      simp only [Option.any_eq_true, closesTwo_iff, restartLease_relay, ← ofByte_groups]
      exact ⟨fun ⟨b, named, groups, rest⟩ => ⟨groups ▸ named, rest⟩, fun ⟨named, rest⟩ => ⟨_, named, rfl, rest⟩⟩
    refine ⟨fun none => ?_, fun t written => ⟨fun closing => ?_, fun open_ => ?_⟩⟩
    · rw [decided, fieldChecks, none]
      rfl
    · rw [decided, fieldChecks, written]
      dsimp only
      rw [closes.mpr closing]
      rfl
    · rw [decided, fieldChecks, configWritten, written]
      dsimp only
      rw [Bool.eq_false_iff.mpr fun closing => open_ (closes.mp closing)]
      rfl
  case rules =>
    refine ⟨fun p low => (writePort_none p 2 v h).mpr (.inr low), fun p last => (writePort_none p 0 0 h).mpr (.inr ⟨rfl, last⟩),
      fun g refused => ?_, fun u bound low => ?_⟩
    · have none : h.membersOf g v = none := by
        rcases refused with bad | wide | shared
        · simp [membersOf, bad]
        · simp [membersOf, Nat.not_lt.mpr wide]
        · exact (membersOf_none g v h).mpr (.inr (.inr (.inr shared)))
      unfold writeGroup
      rw [none]
      rfl
    · have tooLow : h.travelTooLow u v.toNat = true := by simp [travelTooLow, bound, low]
      simp [writeStepper, natIn, tooLow]
  case refused =>
    refine refusedInOrder_asked asks (exec_configWrite p block item field v s) ?_
    simp [writeChecks, notWritable_iff, Option.any_eq_true, writingBlock_iff]
  case blocks =>
    refine ⟨fun b code => ?_, fun outside => ?_⟩
    · have named : Block.ofByte block = some b := by
        revert code
        revert block
        cases b <;> decide +kernel
      simp [fieldWritten, named]
    · have none : Block.ofByte block = none := by
        rw [← Option.isNone_iff_eq_none]
        exact (blockOfByte_isNone block).mpr outside
      simp [fieldWritten, none]

end Sys2Proof.Machine
end

section
/-! The configuration fields: a value written is the value read, and the other fields stay (R176, R177, R193). -/

namespace Sys2Proof.Machine
namespace Hub

section
variable {v : BitVec 32}

/-! ## Values -/

theorem boolOf_back {x : Bool} (given : boolOf v = some x) : ofBool x = v := by
  unfold boolOf at given
  split at given
  · next zero => cases given; exact zero.symm
  · split at given
    · next one => cases given; exact one.symm
    · cases given

theorem natIn_back {low high x : Nat} (given : natIn low high v = some x) : ofNat32 x = v := by
  unfold natIn at given
  split at given
  · cases given
    simp [ofNat32]
  · cases given

theorem finOf_back {n : Nat} {x : Fin n} (given : finOf n v = some x) : ofNat32 x.val = v := by
  unfold finOf at given
  split at given
  · cases given
    simp [ofNat32]
  · cases given

theorem intWithin_back {limit x : Int} (given : intWithin limit v = some x) : BitVec.ofInt 32 x = v := by
  unfold intWithin at given
  split at given
  · cases given
    exact BitVec.ofInt_toInt
  · cases given

theorem decayOf_code {n : Nat} {d : Decay} (given : decayOf n = some d) : d.code = n := by
  unfold decayOf at given
  split at given <;> cases given <;> rfl

/-- The three bytes a value was read from are those it is written as (R191). -/
theorem parseValue_back {w : BitVec 24} {x : Fallback} (given : parseValue w = some x) : x.bits = w := by
  refine BitVec.eq_of_toNat_eq ?_
  have bound := w.isLt
  unfold parseValue at given
  dsimp only at given
  split at given
  · next form =>
    split at given
    · cases given; simp [Fallback.bits, Command.bits]; omega
    · cases given
  · next form =>
    split at given
    · cases given; simp [Fallback.bits, Command.bits]; omega
    · cases given
  · next form =>
    split at given
    · cases given; simp [Fallback.bits, Command.bits]; omega
    · cases given
  · next form =>
    split at given
    · cases given; simp [Fallback.bits, Command.bits]; omega
    · cases given
  · next form =>
    split at given
    · cases given; simp [Fallback.bits, Command.bits]; omega
    · cases given
  · next form =>
    obtain ⟨d, decay, rfl⟩ := Option.map_eq_some_iff.mp given
    have code := decayOf_code decay
    simp only [Fallback.bits, Command.bits, BitVec.toNat_ofNat]
    omega
  · next form => cases given; simp [Fallback.bits, Command.bits]; omega
  · next form =>
    split at given
    · cases given; simp [Fallback.bits]; omega
    · cases given
  · next form =>
    split at given
    · cases given; simp [Fallback.bits]; omega
    · cases given
  · cases given

theorem valueOf_back {x : Fallback} (given : valueOf v = some x) : x.bits.setWidth 32 = v := by
  unfold valueOf at given
  split at given
  · next low =>
    rw [parseValue_back given]
    exact BitVec.eq_of_toNat_eq (by simp; omega)
  · cases given

theorem setpointCommandOf_back {i : SetpointItem} {x : Command} (given : setpointCommandOf i v = some x) :
    x.bits.setWidth 32 = v := by
  unfold setpointCommandOf at given
  split at given
  · next y value =>
    split at given
    · cases given
      exact valueOf_back value
    · cases given
  all_goals cases given

theorem membersOf_back {g : Fin 4} {x : BitVec 12} {h : Hub} (given : h.membersOf g v = some x) :
    x = v.setWidth 12 ∧ x.setWidth 32 = v := by
  unfold membersOf at given
  dsimp only at given
  split at given
  · next low =>
    split at given
    · cases given
      exact ⟨rfl, BitVec.eq_of_toNat_eq (by simp; omega)⟩
    · cases given
  · cases given

end

/-! ## One field put -/

/-- A write to `field` may move field `f` of its item: a target moves its setpoint's command (R156). -/
def MovesBeside (b : Block) (field f : Byte) : Prop := b = .setpoints ∧ field = 7 ∧ f = 8

/-- Of the working copies one field has been written, and is read as written. -/
structure Put (b : Block) (item field : Byte) (v : BitVec 32) (w x : Blocks) : Prop where
  back : x.read b item field = some v
  kept : ∀ d i f, (d, i, f) ≠ (b, item, field) → ¬ (d = b ∧ i = item ∧ MovesBeside b field f) → x.read d i f = w.read d i f

theorem indexOf_inj {n : Nat} {i j : Byte} {k : Fin n} (one : indexOf n i = some k) (two : indexOf n j = some k) : i = j := by
  unfold indexOf at one two
  split at one
  · split at two
    · cases one
      exact BitVec.eq_of_toNat_eq (Fin.mk.inj (Option.some.inj two).symm)
    · cases two
  · cases one

section
variable {α : Type} {n : Nat} {item field : Byte} {k : Fin n} {xs : Vector α n} {x : α}
  {read : α → Nat → Option (BitVec 32)} {b : Block}

/-- A field of a list of items, of which one has been replaced. -/
theorem indexed_set_own (named : indexOf n item = some k) (f : Nat) :
    ((indexOf n item).bind fun j => read (xs.set k x)[j] f) = read x f := by
  rw [named]
  simp

theorem indexed_set_other (named : indexOf n item = some k)
    (rest : ∀ f : Byte, f ≠ field → ¬ MovesBeside b field f → read x f.toNat = read xs[k] f.toNat) {i f : Byte}
    (other : (i, f) ≠ (item, field)) (still : ¬ (i = item ∧ MovesBeside b field f)) :
    ((indexOf n i).bind fun j => read (xs.set k x)[j] f.toNat) = (indexOf n i).bind fun j => read xs[j] f.toNat := by
  cases e : indexOf n i with
  | none => rfl
  | some j =>
    by_cases same : k = j
    · subst same
      have mine := indexOf_inj e named
      subst mine
      simpa using rest f (fun same => other (by rw [same])) fun moves => still ⟨rfl, moves⟩
    · have apart : k.val ≠ j.val := fun e => same (Fin.ext e)
      simp [apart]

end

section
variable {item field : Byte} {v : BitVec 32} {w : Blocks}

theorem put_ports {k : Fin 3} {x : PortItem} (named : indexOf 3 item = some k) (back : x.field field.toNat = some v)
    (rest : ∀ f : Byte, f ≠ field → x.field f.toNat = w.ports[k].field f.toNat) :
    Put .ports item field v w { w with ports := w.ports.set k x } where
  back := (indexed_set_own named field.toNat).trans back
  kept d i f other still := by
    cases d
    case ports =>
      exact indexed_set_other (read := PortItem.field) (b := .ports) named (fun f away _ => rest f away)
        (fun same => other (by rw [Prod.mk.injEq] at same; rw [same.1, same.2])) fun moves => still ⟨rfl, moves⟩
    all_goals rfl

theorem put_groups {k : Fin 4} {x : GroupItem} (named : indexOf 4 item = some k) (back : x.field field.toNat = some v)
    (rest : ∀ f : Byte, f ≠ field → x.field f.toNat = w.groups[k].field f.toNat) :
    Put .groups item field v w { w with groups := w.groups.set k x } where
  back := (indexed_set_own named field.toNat).trans back
  kept d i f other still := by
    cases d
    case groups =>
      exact indexed_set_other (read := GroupItem.field) (b := .groups) named (fun f away _ => rest f away)
        (fun same => other (by rw [Prod.mk.injEq] at same; rw [same.1, same.2])) fun moves => still ⟨rfl, moves⟩
    all_goals rfl

theorem put_slots {k : Fin 8} {x : SlotItem} (named : indexOf 8 item = some k) (back : x.field field.toNat = some v)
    (rest : ∀ f : Byte, f ≠ field → x.field f.toNat = w.slots[k].field f.toNat) :
    Put .slots item field v w { w with slots := w.slots.set k x } where
  back := (indexed_set_own named field.toNat).trans back
  kept d i f other still := by
    cases d
    case slots =>
      exact indexed_set_other (read := SlotItem.field) (b := .slots) named (fun f away _ => rest f away)
        (fun same => other (by rw [Prod.mk.injEq] at same; rw [same.1, same.2])) fun moves => still ⟨rfl, moves⟩
    all_goals rfl

theorem put_setpoints {k : Fin 16} {x : SetpointItem} (named : indexOf 16 item = some k) (back : x.field field.toNat = some v)
    (rest : ∀ f : Byte, f ≠ field → ¬ MovesBeside .setpoints field f → x.field f.toNat = w.setpoints[k].field f.toNat) :
    Put .setpoints item field v w { w with setpoints := w.setpoints.set k x } where
  back := (indexed_set_own named field.toNat).trans back
  kept d i f other still := by
    cases d
    case setpoints =>
      exact indexed_set_other (read := SetpointItem.field) (b := .setpoints) named rest
        (fun same => other (by rw [Prod.mk.injEq] at same; rw [same.1, same.2])) fun moves => still ⟨rfl, moves⟩
    all_goals rfl

theorem put_calibration {k : Fin 8} {x : CalibrationItem} (named : indexOf 8 item = some k)
    (back : x.field field.toNat = some v)
    (rest : ∀ f : Byte, f ≠ field → x.field f.toNat = w.calibration[k].field f.toNat) :
    Put .calibration item field v w { w with calibration := w.calibration.set k x } where
  back := (indexed_set_own named field.toNat).trans back
  kept d i f other still := by
    cases d
    case calibration =>
      exact indexed_set_other (read := CalibrationItem.field) (b := .calibration) named (fun f away _ => rest f away)
        (fun same => other (by rw [Prod.mk.injEq] at same; rw [same.1, same.2])) fun moves => still ⟨rfl, moves⟩
    all_goals rfl

/-! ## The fields of a channel -/

theorem channelField_relay (w : Blocks) (r : Fin 12) (n : Nat) :
    w.channelField (relayChannel r) (n + 3) =
      match n with
      | 0 => some (ofNat32 w.relays[r].minOn)
      | 1 => some (ofNat32 w.relays[r].minOff)
      | _ => none := by
  unfold Blocks.channelField
  rw [outputOf_relayChannel]
  rcases n with _ | _ | n <;> rfl

theorem channelField_lamp (w : Blocks) (l : Fin 8) (n : Nat) : w.channelField (lampChannel l) (n + 3) = none := by
  unfold Blocks.channelField
  rw [outputOf_lampChannel]
  rcases n with _ | n <;> rfl

theorem channelField_sound (w : Blocks) (n : Nat) :
    w.channelField soundChannel (n + 3) = match n with
      | 0 => some (ofBool w.soundMotion)
      | _ => none := by
  unfold Blocks.channelField
  rcases n with _ | n <;> rfl

theorem channelField_stepper (w : Blocks) (u : Fin 2) (n : Nat) :
    w.channelField (stepperChannel u) (n + 3) =
      match n with
      | 0 => some (ofNat32 w.steppers[u].travel)
      | 1 => some (ofNat32 w.steppers[u].overtravel)
      | 2 => some (ofNat32 w.steppers[u].refRate)
      | 3 => some (ofBool w.steppers[u].autoRef)
      | _ => none := by
  unfold Blocks.channelField
  rw [outputOf_stepperChannel]
  rcases n with _ | _ | _ | _ | n <;> rfl

/-- Beside the fields every channel has, what a field reads is told by the channel's output. -/
theorem channelField_congr {x : Blocks} {c : Fin 23} {n : Nat} (fallback : n = 0 → x.fallbacks[c] = w.fallbacks[c])
    (timeout : n = 1 → x.handovers[c].timeout = w.handovers[c].timeout)
    (grant : n = 2 → x.handovers[c].grant = w.handovers[c].grant)
    (minOn : ∀ r, c = relayChannel r → n = 3 → x.relays[r].minOn = w.relays[r].minOn)
    (minOff : ∀ r, c = relayChannel r → n = 4 → x.relays[r].minOff = w.relays[r].minOff)
    (motion : c = soundChannel → n = 3 → x.soundMotion = w.soundMotion)
    (travel : ∀ u, c = stepperChannel u → n = 3 → x.steppers[u].travel = w.steppers[u].travel)
    (overtravel : ∀ u, c = stepperChannel u → n = 4 → x.steppers[u].overtravel = w.steppers[u].overtravel)
    (refRate : ∀ u, c = stepperChannel u → n = 5 → x.steppers[u].refRate = w.steppers[u].refRate)
    (autoRef : ∀ u, c = stepperChannel u → n = 6 → x.steppers[u].autoRef = w.steppers[u].autoRef) :
    x.channelField c n = w.channelField c n := by
  match n with
  | 0 => simp only [Blocks.channelField, fallback rfl]
  | 1 => simp only [Blocks.channelField, timeout rfl]
  | 2 => simp only [Blocks.channelField, grant rfl]
  | n + 3 =>
    rcases outputOf_cases c with ⟨r, _, rfl⟩ | ⟨l, _, rfl⟩ | ⟨_, rfl⟩ | ⟨u, _, rfl⟩
    · rw [channelField_relay, channelField_relay]
      match n with
      | 0 => exact congrArg (some ∘ ofNat32) (minOn r rfl rfl)
      | 1 => exact congrArg (some ∘ ofNat32) (minOff r rfl rfl)
      | _ + 2 => rfl
    · rw [channelField_lamp, channelField_lamp]
    · rw [channelField_sound, channelField_sound]
      match n with
      | 0 => exact congrArg (some ∘ ofBool) (motion rfl rfl)
      | _ + 1 => rfl
    · rw [channelField_stepper, channelField_stepper]
      match n with
      | 0 => exact congrArg (some ∘ ofNat32) (travel u rfl rfl)
      | 1 => exact congrArg (some ∘ ofNat32) (overtravel u rfl rfl)
      | 2 => exact congrArg (some ∘ ofNat32) (refRate u rfl rfl)
      | 3 => exact congrArg (some ∘ ofBool) (autoRef u rfl rfl)
      | _ + 4 => rfl

/-- A write to the CHANNELS block, field by field. -/
theorem put_channels {c : Fin 23} {x : Blocks} (named : indexOf 23 item = some c) (back : x.channelField c field.toNat = some v)
    (rest : ∀ k n, (k, n) ≠ (c, field.toNat) → x.channelField k n = w.channelField k n)
    (ports : x.ports = w.ports) (groups : x.groups = w.groups) (slots : x.slots = w.slots)
    (setpoints : x.setpoints = w.setpoints) (calibration : x.calibration = w.calibration) :
    Put .channels item field v w x where
  back := by
    unfold Blocks.read
    dsimp only
    rw [named]
    exact back
  kept d i f other _ := by
    unfold Blocks.read
    cases d
    case channels =>
      dsimp only
      cases e : indexOf 23 i with
      | none => rfl
      | some k =>
        refine rest k f.toNat fun same => other ?_
        rw [Prod.mk.injEq] at same
        rw [indexOf_inj e (by rw [same.1]; exact named), BitVec.eq_of_toNat_eq same.2]
    case ports => dsimp only; rw [ports]
    case groups => dsimp only; rw [groups]
    case slots => dsimp only; rw [slots]
    case setpoints => dsimp only; rw [setpoints]
    case calibration => dsimp only; rw [calibration]

end
end Hub
end Sys2Proof.Machine
end

section
/-! A configuration write that is taken is read back as written (R177). -/

namespace Sys2Proof.Machine
namespace Hub

section
variable {h t : Hub} {v : BitVec 32} {n : Nat}

/-! ## Items -/

theorem idx_ofIdx : ∀ k : Fin 3, (Port.ofIdx k).idx = k := by decide

theorem writePort_field {p : Port} (taken : h.writePort p n v = some t) :
    ∃ x : PortItem, t = h.modPortItem p (fun _ => x) ∧ x.field n = some v ∧
      ∀ m, m ≠ n → x.field m = (h.portItem p).field m := by
  unfold writePort at taken
  split at taken
  · obtain ⟨x, given, taken⟩ := Option.bind_eq_some_iff.mp taken
    split at taken
    · cases taken
    · cases taken
      refine ⟨{ h.portItem p with configGrant := x }, rfl, congrArg some (boolOf_back given), fun m other => ?_⟩
      unfold PortItem.field
      split <;> first | rfl | exact absurd rfl other
  · obtain ⟨x, given, rfl⟩ := Option.map_eq_some_iff.mp taken
    refine ⟨{ h.portItem p with protectedGrant := x }, rfl, congrArg some (boolOf_back given), fun m other => ?_⟩
    unfold PortItem.field
    split <;> first | rfl | exact absurd rfl other
  · obtain ⟨x, given, taken⟩ := Option.bind_eq_some_iff.mp taken
    split at taken
    · cases taken
    · cases taken
      refine ⟨{ h.portItem p with quota := x }, rfl, congrArg some (natIn_back given), fun m other => ?_⟩
      unfold PortItem.field
      split <;> first | rfl | exact absurd rfl other
  · obtain ⟨x, given, rfl⟩ := Option.map_eq_some_iff.mp taken
    refine ⟨{ h.portItem p with lease := x }, rfl, congrArg some (natIn_back given), fun m other => ?_⟩
    unfold PortItem.field
    split <;> first | rfl | exact absurd rfl other
  · cases taken

/-- The field written of a setpoint's item reads as written. -/
theorem writtenSetpoint_back {i x : SetpointItem} (given : writtenSetpoint i n v = some x) : x.field n = some v := by
  unfold writtenSetpoint at given
  split at given
  case h_5 =>
    obtain ⟨y, value, taken⟩ := Option.bind_eq_some_iff.mp given
    split at taken <;> cases taken
    exact congrArg some (intWithin_back value)
  case h_12 => cases given
  all_goals
    obtain ⟨y, value, rfl⟩ := Option.map_eq_some_iff.mp given
  case h_1 | h_10 | h_11 => exact congrArg some (boolOf_back value)
  case h_2 | h_8 => exact congrArg some (finOf_back value)
  case h_3 => exact congrArg some (Eq.trans (by cases y <;> rfl) (boolOf_back value))
  case h_4 => exact congrArg some (intWithin_back value)
  case h_6 | h_7 => exact congrArg some (natIn_back value)
  case h_9 => exact congrArg some (setpointCommandOf_back value)

/-- The others stay, but for the command beside a target. -/
theorem writtenSetpoint_kept {i x : SetpointItem} (given : writtenSetpoint i n v = some x) {m : Nat} (other : m ≠ n)
    (still : ¬ (n = 7 ∧ m = 8)) : x.field m = i.field m := by
  unfold writtenSetpoint at given
  split at given
  case h_5 =>
    obtain ⟨y, value, taken⟩ := Option.bind_eq_some_iff.mp given
    split at taken <;> cases taken
    unfold SetpointItem.field
    split <;> first | rfl | exact absurd rfl other
  case h_12 => cases given
  all_goals
    obtain ⟨y, value, rfl⟩ := Option.map_eq_some_iff.mp given
    unfold SetpointItem.field
    split <;> first | rfl | exact absurd rfl other | exact absurd ⟨rfl, rfl⟩ still

theorem writeGroup_field {g : Fin 4} (taken : h.writeGroup g n v = some t) :
    ∃ x : GroupItem, t.work = { h.work with groups := h.work.groups.set g x } ∧ x.field n = some v ∧
      ∀ m, m ≠ n → x.field m = h.work.groups[g].field m := by
  unfold writeGroup at taken
  split at taken
  · obtain ⟨x, given, rfl⟩ := Option.map_eq_some_iff.mp taken
    refine ⟨{ h.work.groups[g] with members := x }, ?_, congrArg some (membersOf_back given).2, fun m other => ?_⟩
    · unfold writeMembers
      dsimp only
      split <;> rfl
    · unfold GroupItem.field
      split <;> first | rfl | exact absurd rfl other
  · obtain ⟨x, given, rfl⟩ := Option.map_eq_some_iff.mp taken
    refine ⟨{ h.work.groups[g] with deadTime := x }, rfl, congrArg some (natIn_back given), fun m other => ?_⟩
    unfold GroupItem.field
    split <;> first | rfl | exact absurd rfl other
  · obtain ⟨x, given, rfl⟩ := Option.map_eq_some_iff.mp taken
    refine ⟨{ h.work.groups[g] with preempt := x }, rfl, congrArg some (boolOf_back given), fun m other => ?_⟩
    unfold GroupItem.field
    split <;> first | rfl | exact absurd rfl other
  · cases taken

theorem reach_settleSetpoints (m before : Hub) (also : List (Fin 21)) :
    Reach (fun c => (channelsTouched before m also).contains c) m (m.settleSetpoints before also) := by
  unfold settleSetpoints
  dsimp only
  split
  · exact (reach_formLayers _ m).trans (reach_giveAll _ _ _)
  · exact reach_formLayers _ m

/-- The setpoints of the slot have been reset with it, and are to be settled. -/
def emptied (k : Fin 8) (h : Hub) : Hub :=
  (h.setpointsOn k).foldl (fun x n => x.setSetpoint n .inactive) (h.setSlot k ⟨.empty, 0, none, false⟩)

theorem emptySlot_eq (k : Fin 8) (h : Hub) : h.emptySlot k = (h.emptied k).settleSetpoints h [] := rfl

theorem emptied_rest (k : Fin 8) (h : Hub) :
    h.emptied k = { h with slots := (h.setSlot k ⟨.empty, 0, none, false⟩).slots, setpoints := (h.emptied k).setpoints } ∧
      ∀ n, (h.emptied k).setpoint n =
        if h.work.setpoints[n].enabled && h.work.setpoints[n].slot == k then .inactive else h.setpoint n := by
  obtain ⟨rest, setpoints⟩ := foldl_setpoints (fun x n => x.setSetpoint n .inactive) (fun _ _ => .inactive)
    (h.setpointsOn k) (setpointsOn_nodup k h) (h.setSlot k ⟨.empty, 0, none, false⟩) fun _ _ _ => rfl
  refine ⟨rest, fun n => (setpoints n).trans ?_⟩
  by_cases on : (h.work.setpoints[n].enabled && h.work.setpoints[n].slot == k) = true
  · rw [if_pos on, if_pos (mem_setpointsOn.mpr on)]
  · rw [if_neg on, if_neg (mt mem_setpointsOn.mp on)]
    rfl

theorem emptySlot_work (k : Fin 8) (h : Hub) : (h.emptySlot k).work = h.work := by
  rw [emptySlot_eq, (reach_settleSetpoints _ _ _).work, (emptied_rest k h).1]

theorem writeSlot_field {k : Fin 8} (taken : h.writeSlot k n v = some t) :
    ∃ x : SlotItem, t.work = { h.work with slots := h.work.slots.set k x } ∧ x.field n = some v ∧
      ∀ m, m ≠ n → x.field m = h.work.slots[k].field m := by
  unfold writeSlot at taken
  split at taken
  · obtain ⟨x, given, rfl⟩ := Option.map_eq_some_iff.mp taken
    refine ⟨{ h.work.slots[k] with mode := if x then .total else .level }, emptySlot_work .., congrArg some (Eq.trans
      (by cases x <;> rfl) (boolOf_back given)), fun m other => ?_⟩
    unfold SlotItem.field
    split <;> first | rfl | exact absurd rfl other
  · obtain ⟨x, given, rfl⟩ := Option.map_eq_some_iff.mp taken
    refine ⟨{ h.work.slots[k] with source := Port.ofIdx x }, emptySlot_work .., congrArg some (Eq.trans
      (by rw [idx_ofIdx]) (finOf_back given)), fun m other => ?_⟩
    unfold SlotItem.field
    split <;> first | rfl | exact absurd rfl other
  · obtain ⟨x, given, rfl⟩ := Option.map_eq_some_iff.mp taken
    refine ⟨{ h.work.slots[k] with freshness := x }, rfl, congrArg some (natIn_back given), fun m other => ?_⟩
    unfold SlotItem.field
    split <;> first | rfl | exact absurd rfl other
  · cases taken

theorem writeCalibration_field {k : Fin 8} (taken : h.writeCalibration k n v = some t) :
    ∃ x : CalibrationItem, t = h.modCalibrationItem k (fun _ => x) ∧ x.field n = some v ∧
      ∀ m, m ≠ n → x.field m = h.work.calibration[k].field m := by
  unfold writeCalibration at taken
  split at taken
  · obtain ⟨x, given, rfl⟩ := Option.map_eq_some_iff.mp taken
    refine ⟨{ h.work.calibration[k] with gain := x }, rfl, congrArg some (natIn_back given), fun m other => ?_⟩
    unfold CalibrationItem.field
    split <;> first | rfl | exact absurd rfl other
  · obtain ⟨x, given, rfl⟩ := Option.map_eq_some_iff.mp taken
    refine ⟨{ h.work.calibration[k] with offset := x }, rfl, congrArg some (intWithin_back given), fun m other => ?_⟩
    unfold CalibrationItem.field
    split <;> first | rfl | exact absurd rfl other
  · cases taken

theorem writeSetpoint_field {k : Fin 16} (taken : h.writeSetpoint k n v = some t) :
    ∃ x : SetpointItem, writtenSetpoint (h.setpointItem k) n v = some x ∧
      t = (h.modSetpointItem k fun _ => x).setpointChanged k h ∧
      t.work = { h.work with setpoints := h.work.setpoints.set k x } := by
  obtain ⟨x, given, rfl⟩ := Option.map_eq_some_iff.mp taken
  exact ⟨x, given, rfl, (reach_settleSetpoints _ _ _).work⟩

/-! ## Channels -/

/-- Of the CHANNELS block one field is written, beside whatever follows on the running blocks. -/
structure ChannelPut (c : Fin 23) (n : Nat) (v : BitVec 32) (w x : Blocks) : Prop where
  back : x.channelField c n = some v
  rest : ∀ k m, (k, m) ≠ (c, n) → x.channelField k m = w.channelField k m
  ports : x.ports = w.ports
  groups : x.groups = w.groups
  slots : x.slots = w.slots
  setpoints : x.setpoints = w.setpoints
  calibration : x.calibration = w.calibration

section
variable {w : Blocks} {c : Fin 23}

theorem channelPut_fallback {x : Fallback} (given : valueOf v = some x) :
    ChannelPut c 0 v w { w with fallbacks := w.fallbacks.set c x } := by
  refine ⟨?_, fun k m other => ?_, rfl, rfl, rfl, rfl, rfl⟩
  · have read : (w.fallbacks.set c x)[c] = x := by simp
    exact congrArg some ((congrArg (BitVec.setWidth 32 ·.bits) read).trans (valueOf_back given))
  · refine channelField_congr (fun zero => ?_) (fun _ => rfl) (fun _ => rfl) (fun _ _ _ => rfl) (fun _ _ _ => rfl)
      (fun _ _ => rfl) (fun _ _ _ => rfl) (fun _ _ _ => rfl) (fun _ _ _ => rfl) fun _ _ _ => rfl
    have apart : c.val ≠ k.val := fun e => other (by rw [zero, Fin.ext e])
    simp [apart]

/-- A channel's handover fields are written, of which `n` has changed. -/
theorem channelPut_handover {x : HandoverItem} (back : ({ w with handovers := w.handovers.set c x } : Blocks).channelField c n = some v)
    (timeout : n ≠ 1 → x.timeout = w.handovers[c].timeout) (grant : n ≠ 2 → x.grant = w.handovers[c].grant) :
    ChannelPut c n v w { w with handovers := w.handovers.set c x } := by
  refine ⟨back, fun k m other => ?_, rfl, rfl, rfl, rfl, rfl⟩
  refine channelField_congr (fun _ => rfl) (fun one => ?_) (fun two => ?_) (fun _ _ _ => rfl) (fun _ _ _ => rfl)
    (fun _ _ => rfl) (fun _ _ _ => rfl) (fun _ _ _ => rfl) (fun _ _ _ => rfl) fun _ _ _ => rfl
  · by_cases same : c = k
    · subst same
      simpa using timeout fun e => other (by rw [one, e])
    · have apart : c.val ≠ k.val := fun e => same (Fin.ext e)
      simp [apart]
  · by_cases same : c = k
    · subst same
      simpa using grant fun e => other (by rw [two, e])
    · have apart : c.val ≠ k.val := fun e => same (Fin.ext e)
      simp [apart]

/-- A relay's fields are written, of which `n` has changed. -/
theorem channelPut_relay {r : Fin 12} {x : RelayItem}
    (back : ({ w with relays := w.relays.set r x } : Blocks).channelField (relayChannel r) n = some v)
    (minOn : n ≠ 3 → x.minOn = w.relays[r].minOn) (minOff : n ≠ 4 → x.minOff = w.relays[r].minOff) :
    ChannelPut (relayChannel r) n v w { w with relays := w.relays.set r x } := by
  refine ⟨back, fun k m other => ?_, rfl, rfl, rfl, rfl, rfl⟩
  refine channelField_congr (fun _ => rfl) (fun _ => rfl) (fun _ => rfl) (fun q own three => ?_) (fun q own four => ?_)
    (fun _ _ => rfl) (fun _ _ _ => rfl) (fun _ _ _ => rfl) (fun _ _ _ => rfl) fun _ _ _ => rfl
  · by_cases same : r = q
    · subst same
      simpa using minOn fun e => other (by rw [own, three, e])
    · have apart : r.val ≠ q.val := fun e => same (Fin.ext e)
      simp [apart]
  · by_cases same : r = q
    · subst same
      simpa using minOff fun e => other (by rw [own, four, e])
    · have apart : r.val ≠ q.val := fun e => same (Fin.ext e)
      simp [apart]

theorem channelPut_motion {x : Bool} (given : boolOf v = some x) :
    ChannelPut soundChannel 3 v w { w with soundMotion := x } := by
  refine ⟨congrArg some (boolOf_back given), fun k m other => ?_, rfl, rfl, rfl, rfl, rfl⟩
  exact channelField_congr (fun _ => rfl) (fun _ => rfl) (fun _ => rfl) (fun _ _ _ => rfl) (fun _ _ _ => rfl)
    (fun own three => absurd (by rw [own, three]) other) (fun _ _ _ => rfl) (fun _ _ _ => rfl) (fun _ _ _ => rfl)
    fun _ _ _ => rfl

/-- A stepper's fields are written, of which `n` has changed. -/
theorem channelPut_stepper {u : Fin 2} {x : StepperItem}
    (back : ({ w with steppers := w.steppers.set u x } : Blocks).channelField (stepperChannel u) n = some v)
    (travel : n ≠ 3 → x.travel = w.steppers[u].travel) (overtravel : n ≠ 4 → x.overtravel = w.steppers[u].overtravel)
    (refRate : n ≠ 5 → x.refRate = w.steppers[u].refRate) (autoRef : n ≠ 6 → x.autoRef = w.steppers[u].autoRef) :
    ChannelPut (stepperChannel u) n v w { w with steppers := w.steppers.set u x } := by
  have kept {β : Type} {field : StepperItem → β} {m k : Nat} (same : n ≠ k → field x = field w.steppers[u]) (q : Fin 2)
      (other : (stepperChannel q, m) ≠ (stepperChannel u, n)) (at_ : m = k) :
      field (w.steppers.set u x)[q] = field w.steppers[q] := by
    by_cases own : u = q
    · subst own
      simpa using same fun e => other (by rw [at_, e])
    · have apart : u.val ≠ q.val := fun e => own (Fin.ext e)
      simp [apart]
  refine ⟨back, fun k m other => ?_, rfl, rfl, rfl, rfl, rfl⟩
  refine channelField_congr (fun _ => rfl) (fun _ => rfl) (fun _ => rfl) (fun _ _ _ => rfl) (fun _ _ _ => rfl)
    (fun _ _ => rfl) (fun q own at_ => ?_) (fun q own at_ => ?_) (fun q own at_ => ?_) fun q own at_ => ?_
  · exact kept travel q (own ▸ other) at_
  · exact kept overtravel q (own ▸ other) at_
  · exact kept refRate q (own ▸ other) at_
  · exact kept autoRef q (own ▸ other) at_

end

theorem formLayer_work (h : Hub) (c : Fin 23) : (h.formLayer c).work = h.work := (reach_formLayer_any h c).work

theorem writeRelay_put {r : Fin 12} (taken : h.writeRelay r n v = some t) :
    ChannelPut (relayChannel r) n v h.work t.work := by
  unfold writeRelay at taken
  split at taken
  · obtain ⟨x, given, rfl⟩ := Option.map_eq_some_iff.mp taken
    refine channelPut_relay (x := { h.work.relays[r] with minOn := x }) ?_ (absurd rfl) fun _ => rfl
    rw [channelField_relay]
    simpa using natIn_back given
  · obtain ⟨x, given, rfl⟩ := Option.map_eq_some_iff.mp taken
    refine channelPut_relay (x := { h.work.relays[r] with minOff := x }) ?_ (fun _ => rfl) (absurd rfl)
    rw [channelField_relay _ r 1]
    simpa using natIn_back given
  · cases taken

theorem writeSounder_put (taken : h.writeSounder n v = some t) : ChannelPut soundChannel n v h.work t.work := by
  unfold writeSounder at taken
  split at taken
  · obtain ⟨x, given, rfl⟩ := Option.map_eq_some_iff.mp taken
    exact channelPut_motion given
  · cases taken

theorem writeStepper_put {u : Fin 2} (taken : h.writeStepper u n v = some t) :
    ChannelPut (stepperChannel u) n v h.work t.work := by
  unfold writeStepper at taken
  split at taken
  · obtain ⟨x, given, taken⟩ := Option.bind_eq_some_iff.mp taken
    split at taken
    · cases taken
    · cases taken
      refine channelPut_stepper (x := { h.work.steppers[u] with travel := x }) ?_ (absurd rfl) (fun _ => rfl) (fun _ => rfl)
        fun _ => rfl
      rw [channelField_stepper]
      simpa using natIn_back given
  · obtain ⟨x, given, rfl⟩ := Option.map_eq_some_iff.mp taken
    refine channelPut_stepper (x := { h.work.steppers[u] with overtravel := x }) ?_ (fun _ => rfl) (absurd rfl) (fun _ => rfl)
      fun _ => rfl
    rw [channelField_stepper _ u 1]
    simpa using natIn_back given
  · obtain ⟨x, given, rfl⟩ := Option.map_eq_some_iff.mp taken
    rw [form_work]
    refine channelPut_stepper (x := { h.work.steppers[u] with refRate := x }) ?_ (fun _ => rfl) (fun _ => rfl) (absurd rfl)
      fun _ => rfl
    rw [channelField_stepper _ u 2]
    simpa using natIn_back given
  · obtain ⟨x, given, rfl⟩ := Option.map_eq_some_iff.mp taken
    refine channelPut_stepper (x := { h.work.steppers[u] with autoRef := x }) ?_ (fun _ => rfl) (fun _ => rfl) (fun _ => rfl)
      (absurd rfl)
    rw [channelField_stepper _ u 3]
    simpa using boolOf_back given
  · cases taken

theorem writeChannel_put {c : Fin 23} (taken : h.writeChannel c n v = some t) : ChannelPut c n v h.work t.work := by
  unfold writeChannel at taken
  split at taken
  · obtain ⟨x, given, taken⟩ := Option.bind_eq_some_iff.mp taken
    split at taken
    · cases taken
      rw [formLayer_work]
      exact channelPut_fallback given
    · cases taken
  · obtain ⟨x, given, rfl⟩ := Option.map_eq_some_iff.mp taken
    refine channelPut_handover (x := { h.work.handovers[c] with timeout := x }) ?_ (absurd rfl) fun _ => rfl
    simpa [Blocks.channelField] using natIn_back given
  · obtain ⟨x, given, rfl⟩ := Option.map_eq_some_iff.mp taken
    refine channelPut_handover (x := { h.work.handovers[c] with grant := x }) ?_ (fun _ => rfl) (absurd rfl)
    simpa [Blocks.channelField] using boolOf_back given
  · rcases outputOf_cases c with ⟨r, out, rfl⟩ | ⟨l, out, rfl⟩ | ⟨out, rfl⟩ | ⟨u, out, rfl⟩ <;> rw [out] at taken
    · exact writeRelay_put taken
    · cases taken
    · exact writeSounder_put taken
    · exact writeStepper_put taken

/-! ## The whole write -/

theorem toNat_ne {f g : Byte} (other : f ≠ g) : f.toNat ≠ g.toNat := fun same => other (BitVec.eq_of_toNat_eq same)

/-- A write that is taken puts one field of the working copies. -/
theorem write_put {b : Block} {item field : Byte} (taken : h.write b item field v = some t) :
    Put b item field v h.work t.work := by
  unfold write at taken
  cases b
  all_goals obtain ⟨k, named, taken⟩ := Option.bind_eq_some_iff.mp taken
  case ports =>
    obtain ⟨x, rfl, back, rest⟩ := writePort_field taken
    have put := put_ports (w := h.work) (x := x) named back fun f other => by
      rw [rest _ (toNat_ne other)]
      simp [portItem, idx_ofIdx]
    simpa [modPortItem, idx_ofIdx] using put
  case channels =>
    have put := writeChannel_put taken
    exact put_channels named put.back put.rest put.ports put.groups put.slots put.setpoints put.calibration
  case groups =>
    obtain ⟨x, work, back, rest⟩ := writeGroup_field taken
    rw [work]
    exact put_groups named back fun f other => rest _ (toNat_ne other)
  case slots =>
    obtain ⟨x, work, back, rest⟩ := writeSlot_field taken
    rw [work]
    exact put_slots named back fun f other => rest _ (toNat_ne other)
  case setpoints =>
    obtain ⟨x, given, _, work⟩ := writeSetpoint_field taken
    rw [work]
    refine put_setpoints named (writtenSetpoint_back given) fun f other still => ?_
    refine writtenSetpoint_kept given (toNat_ne other) fun ⟨seven, eight⟩ => still ⟨rfl, ?_, ?_⟩
    · exact BitVec.eq_of_toNat_eq seven
    · exact BitVec.eq_of_toNat_eq eight
  case calibration =>
    obtain ⟨x, rfl, back, rest⟩ := writeCalibration_field taken
    exact put_calibration named back fun f other => rest _ (toNat_ne other)

end
end Hub
end Sys2Proof.Machine
end

section
/-! What a configuration write does to the running blocks (R9, R97, R111, R144, R154, R177). -/

namespace Sys2Proof.Machine
namespace Hub

section
variable {h t m : Hub} {v : BitVec 32} {b : Block} {item field : Byte} {c : Fin 23} {u : Fin 2}

/-! ## What no write moves -/

theorem form_claims (c k : Fin 23) (cause : FormCause) (h : Hub) : ((h.form c cause).chan k).claims = (h.chan k).claims := by
  rw [chan_form]
  split
  · next same => rw [← same]; rfl
  · rfl

theorem settleSetpoints_claims (m before : Hub) (also : List (Fin 21)) (c : Fin 23) :
    ((m.settleSetpoints before also).chan c).claims = (m.chan c).claims := by
  unfold settleSetpoints
  dsimp only
  split
  · rw [chan_of_channels (by rw [giveAll_rest])]
    exact (formLayers_claims _ m c).1
  · exact (formLayers_claims _ m c).1

/-- A write moves the working copies and the running blocks alone. -/
def WriteRest (h t : Hub) : Prop :=
  t = { h with
    work := t.work, ports := t.ports, channels := t.channels, relays := t.relays, dead := t.dead, lamps := t.lamps
    sounder := t.sounder, steppers := t.steppers, slots := t.slots, setpoints := t.setpoints }

theorem WriteRest.then {C : Fin 23 → Bool} (a : WriteRest h m) (reach : Reach C m t) : WriteRest h t := by
  have rest := reach.rest
  have work := reach.work
  have slots : t.slots = m.slots := by rw [rest]
  have setpoints : t.setpoints = m.setpoints := reach.setpoints
  unfold WriteRest at a ⊢
  rw [rest, a]

theorem writeRest_written (written : h.Written b field v t) : WriteRest h t := by
  cases written with
  | fallback c x => exact WriteRest.then (m := h.setFallback c x) rfl (reach_formLayer_any _ c)
  | rate u x =>
    exact WriteRest.then (m := h.modStepperItem u fun i => { i with refRate := x }) rfl
      (reach_form (C := fun _ => true) rfl .rateWrite _)
  | slotKind k x =>
    have emptied := (emptied_rest k (h.modSlotItem k fun _ => x)).1
    refine WriteRest.then (m := (h.modSlotItem k fun _ => x).emptied k) ?_ (reach_settleSetpoints _ _ _)
    unfold WriteRest
    rw [emptied]
    rfl
  | setpoint n x =>
    exact WriteRest.then (m := (h.modSetpointItem n fun _ => x).setSetpoint n _) rfl (reach_settleSetpoints _ _ _)
  | members g apart =>
    unfold writeMembers WriteRest
    dsimp only
    split <;> rfl
  | port | handover | relay | soundMotion | travel | motion | group | freshness | calibration => rfl

theorem written_claims (written : h.Written b field v t) (c : Fin 23) : (t.chan c).claims = (h.chan c).claims := by
  cases written with
  | fallback k x => exact (formLayer_claims _ k c).1
  | rate u x => exact form_claims ..
  | slotKind k x =>
    have channels : ((h.modSlotItem k fun _ => x).emptied k).channels = h.channels := by rw [(emptied_rest k _).1]; rfl
    exact (settleSetpoints_claims _ _ _ c).trans (congrArg Channel.claims (chan_of_channels channels c))
  | setpoint n x => exact settleSetpoints_claims _ _ _ c
  | members g apart =>
    refine congrArg Channel.claims (chan_of_channels ?_ c)
    unfold writeMembers
    dsimp only
    split <;> rfl
  | port | handover | relay | soundMotion | travel | motion | group | freshness | calibration => rfl

/-! ## Writes of the working copy alone -/

theorem workOnly_port (taken : h.write .ports item field v = some t) : t = { h with work := t.work } := by
  obtain ⟨k, _, taken⟩ := Option.bind_eq_some_iff.mp taken
  obtain ⟨x, rfl, _⟩ := writePort_field taken
  rfl

theorem workOnly_calibration (taken : h.write .calibration item field v = some t) : t = { h with work := t.work } := by
  obtain ⟨k, _, taken⟩ := Option.bind_eq_some_iff.mp taken
  obtain ⟨x, rfl, _⟩ := writeCalibration_field taken
  rfl

theorem workOnly_group (taken : h.write .groups item field v = some t) (other : field ≠ 0) : t = { h with work := t.work } := by
  obtain ⟨k, _, taken⟩ := Option.bind_eq_some_iff.mp taken
  unfold writeGroup at taken
  split at taken
  · next zero => exact absurd (BitVec.eq_of_toNat_eq zero) other
  · obtain ⟨x, _, rfl⟩ := Option.map_eq_some_iff.mp taken
    rfl
  · obtain ⟨x, _, rfl⟩ := Option.map_eq_some_iff.mp taken
    rfl
  · cases taken

theorem workOnly_freshness (taken : h.write .slots item 2 v = some t) : t = { h with work := t.work } := by
  obtain ⟨k, _, taken⟩ := Option.bind_eq_some_iff.mp taken
  obtain ⟨x, _, rfl⟩ := Option.map_eq_some_iff.mp taken
  rfl

theorem channel_sound (named : indexOf 23 item = some c) : c = soundChannel ↔ item = 20 := by
  unfold indexOf at named
  split at named
  · cases named
    refine ⟨fun same => BitVec.eq_of_toNat_eq (Fin.mk.inj same), fun same => Fin.ext ?_⟩
    subst same
    rfl
  · cases named

theorem workOnly_channel (taken : h.write .channels item field v = some t) (first : field ≠ 0) (rate : field ≠ 5)
    (sound : item ≠ 20) : t = { h with work := t.work } := by
  obtain ⟨c, named, taken⟩ := Option.bind_eq_some_iff.mp taken
  unfold writeChannel at taken
  split at taken
  · next zero => exact absurd (BitVec.eq_of_toNat_eq zero) first
  · obtain ⟨x, _, rfl⟩ := Option.map_eq_some_iff.mp taken
    rfl
  · obtain ⟨x, _, rfl⟩ := Option.map_eq_some_iff.mp taken
    rfl
  · rcases outputOf_cases c with ⟨r, out, rfl⟩ | ⟨l, out, rfl⟩ | ⟨out, same⟩ | ⟨u, out, rfl⟩
    · rw [out] at taken
      dsimp only at taken
      unfold writeRelay at taken
      split at taken
      · obtain ⟨x, _, rfl⟩ := Option.map_eq_some_iff.mp taken
        rfl
      · obtain ⟨x, _, rfl⟩ := Option.map_eq_some_iff.mp taken
        rfl
      · cases taken
    · rw [out] at taken
      cases taken
    · exact absurd ((channel_sound named).mp same) sound
    · rw [out] at taken
      dsimp only at taken
      unfold writeStepper at taken
      split at taken
      · obtain ⟨x, _, taken⟩ := Option.bind_eq_some_iff.mp taken
        split at taken
        · cases taken
        · cases taken
          rfl
      · obtain ⟨x, _, rfl⟩ := Option.map_eq_some_iff.mp taken
        rfl
      · next five => exact absurd (BitVec.eq_of_toNat_eq five) rate
      · obtain ⟨x, _, rfl⟩ := Option.map_eq_some_iff.mp taken
        rfl
      · cases taken

/-- The sounder's own field moves the mute mark with it (R144). -/
theorem write_sound (taken : h.write .channels item field v = some t) (sound : item = 20) (first : field ≠ 0) :
    t = { h with work := t.work, sounder := { h.sounder with mute := t.sounder.mute } } ∧
      (field = 3 → t.sounder.mute = t.muteValue) := by
  obtain ⟨c, named, taken⟩ := Option.bind_eq_some_iff.mp taken
  obtain rfl := (channel_sound named).mpr sound
  unfold writeChannel at taken
  split at taken
  · next zero => exact absurd (BitVec.eq_of_toNat_eq zero) first
  · next one =>
    obtain ⟨x, _, rfl⟩ := Option.map_eq_some_iff.mp taken
    exact ⟨rfl, fun three => by rw [three] at one; cases one⟩
  · next two =>
    obtain ⟨x, _, rfl⟩ := Option.map_eq_some_iff.mp taken
    exact ⟨rfl, fun three => by rw [three] at two; cases two⟩
  · have out : outputOf soundChannel = .sounder := rfl
    rw [out] at taken
    dsimp only at taken
    unfold writeSounder at taken
    split at taken
    · obtain ⟨x, _, rfl⟩ := Option.map_eq_some_iff.mp taken
      exact ⟨rfl, fun _ => rfl⟩
    · cases taken

/-! ## Fallbacks -/

theorem write_fallback (taken : h.write .channels item 0 v = some t) (named : channelNo item = some c) :
    ∃ x, valueOf v = some x ∧ t = (h.setFallback c x).formLayer c := by
  obtain ⟨k, indexed, taken⟩ := Option.bind_eq_some_iff.mp taken
  obtain rfl : c = k := Option.some.inj (named.symm.trans indexed)
  obtain ⟨x, given, taken⟩ := Option.bind_eq_some_iff.mp taken
  split at taken
  · cases taken
    exact ⟨x, given, rfl⟩
  · cases taken

/-- A channel that takes its layer. -/
theorem formLayer_takes (c : Fin 23) (h : Hub) :
    Reach (only c) h (h.formLayer c) ∧ ((h.formLayer c).chan c).input = (h.formLayer c).localLayer c ∧
      ((h.formLayer c).localLayer c = (h.chan c).input → h.formLayer c = h) ∧
      ((h.formLayer c).localLayer c ≠ (h.chan c).input → (h.formLayer c).Formed c) := by
  have reach : Reach (only c) h (h.formLayer c) := reach_formLayer (only_self c) h
  rw [localLayer_of_reach reach]
  refine ⟨reach, by rw [formLayer_input, if_pos rfl], fun same => if_pos same, fun differs => ?_⟩
  unfold formLayer
  dsimp only
  rw [if_neg differs]
  exact formed_form ..

/-- A stepper's layer is its fallback. -/
theorem localLayer_setFallback (u : Fin 2) (x : Fallback) (h : Hub) :
    (h.setFallback (stepperChannel u) x).localLayer (stepperChannel u) = ⟨x, false⟩ := by
  rw [localLayer_undriven (.inl (by rw [kindOf, outputOf_stepperChannel]))]
  simp [setFallback]

/-- A fallback that a stepper with no claims takes, its STAY as R49 says. -/
theorem stayFormed_fallback {x : Fallback} (u : Fin 2) (h : Hub) (differs : (h.chan (stepperChannel u)).input ≠ ⟨x, false⟩) :
    ∃ a : Hub, StayFormed u (passCause (h.chan (stepperChannel u)).input ⟨x, false⟩) a
        ((h.setFallback (stepperChannel u) x).formLayer (stepperChannel u)) ∧
      (a.chan (stepperChannel u)).claims = (h.chan (stepperChannel u)).claims ∧
      (a.chan (stepperChannel u)).input = ⟨x, false⟩ ∧ a.stayOf u = h.stayOf u ∧ a.work.steppers = h.work.steppers := by
  have formed : (h.setFallback (stepperChannel u) x).formLayer (stepperChannel u) =
      form (stepperChannel u) (passCause (h.chan (stepperChannel u)).input ⟨x, false⟩)
        ((h.setFallback (stepperChannel u) x).modChan (stepperChannel u) fun y => { y with input := ⟨x, false⟩ }) := by
    unfold formLayer
    dsimp only
    rw [localLayer_setFallback]
    exact if_neg (Ne.symm differs)
  rw [formed]
  refine ⟨_, stayFormed_form u _ _, ?_, ?_, rfl, rfl⟩
  · rw [chan_modChan, if_pos rfl]
    rfl
  · rw [chan_modChan, if_pos rfl]

theorem valueOf_stay : valueOf 0x070000 = some .stay := rfl

theorem valueOf_position {p : Nat} (spelt : v.toNat = 0x080000 + p) (low : p < 4096) : valueOf v = some (.position p) := by
  have form : (v.setWidth 24).toNat / 65536 = 8 := by simp; omega
  have place : (v.setWidth 24).toNat % 65536 = p := by simp; omega
  unfold valueOf parseValue
  rw [if_pos (by omega)]
  dsimp only
  rw [form, place]
  exact if_pos low

end
end Hub
end Sys2Proof.Machine
end

section
/-! Writes of reference rates, member lists, slots and setpoints (R49, R97, R111, R154, R156, R161 to R164). -/

namespace Sys2Proof.Machine
namespace Hub

section
variable {h t m : Hub} {v : BitVec 32} {item field : Byte} {c : Fin 23} {u : Fin 2}

/-! ## Reference rates -/

theorem write_rate (taken : h.write .channels item 5 v = some t) (named : channelNo item = some (stepperChannel u)) :
    t = form (stepperChannel u) .rateWrite (h.modStepperItem u fun i => { i with refRate := v.toNat }) := by
  obtain ⟨k, indexed, taken⟩ := Option.bind_eq_some_iff.mp taken
  obtain rfl : stepperChannel u = k := Option.some.inj (named.symm.trans indexed)
  change h.writeChannel (stepperChannel u) 5 v = some t at taken
  unfold writeChannel at taken
  rw [outputOf_stepperChannel] at taken
  obtain ⟨x, given, rfl⟩ := Option.map_eq_some_iff.mp taken
  unfold natIn at given
  split at given
  · cases given; rfl
  · cases given

/-! ## Member lists -/

theorem write_members {g : Fin 4} (taken : h.write .groups item 0 v = some t) (named : indexOf 4 item = some g) :
    t = h.writeMembers g (v.setWidth 12) ∧ (v.setWidth 12 = (0 : BitVec 12) ↔ v = 0) := by
  obtain ⟨k, indexed, taken⟩ := Option.bind_eq_some_iff.mp taken
  obtain rfl : g = k := Option.some.inj (named.symm.trans indexed)
  obtain ⟨x, given, rfl⟩ := Option.map_eq_some_iff.mp taken
  obtain ⟨rfl, back⟩ := membersOf_back given
  refine ⟨rfl, fun zero => ?_, fun zero => by rw [zero]; rfl⟩
  rw [← back, zero]
  rfl

theorem writeMembers_dead (g : Fin 4) (x : BitVec 12) (h : Hub) :
    h.writeMembers g x = { h with work := (h.writeMembers g x).work, dead := (h.writeMembers g x).dead } ∧
      (∀ k, k ≠ g → (h.writeMembers g x).deadTimer k = h.deadTimer k) ∧
      (h.writeMembers g x).deadTimer g =
        if x = 0 then .expired else deadRun (Config.ms (10 * h.work.groups[g].deadTime)) (h.deadRunning g) := by
  have time : (h.modGroupItem g fun i => { i with members := x }).work.groups[g].deadTime = h.work.groups[g].deadTime := by
    simp [modGroupItem]
  unfold writeMembers
  dsimp only
  by_cases empty : x = 0
  · rw [if_pos empty, if_pos empty]
    refine ⟨rfl, fun k other => ?_, ?_⟩
    · rw [deadTimer_setDead, if_neg (Ne.symm other)]; rfl
    · rw [deadTimer_setDead, if_pos rfl]
  · rw [if_neg empty, if_neg empty]
    refine ⟨rfl, fun k other => ?_, ?_⟩
    · rw [startDeadTimer, deadTimer_setDead, if_neg (Ne.symm other)]; rfl
    · rw [startDeadTimer, deadTimer_setDead, if_pos rfl, time]; rfl

/-! ## Slots -/

theorem write_slot {k : Fin 8} (taken : h.write .slots item field v = some t) (other : field ≠ 2)
    (named : indexOf 8 item = some k) : ∃ x : SlotItem, t = (h.modSlotItem k fun _ => x).emptySlot k := by
  obtain ⟨j, indexed, taken⟩ := Option.bind_eq_some_iff.mp taken
  obtain rfl : k = j := Option.some.inj (named.symm.trans indexed)
  unfold writeSlot at taken
  split at taken
  · obtain ⟨x, _, rfl⟩ := Option.map_eq_some_iff.mp taken
    exact ⟨{ h.work.slots[k] with mode := if x then .total else .level }, rfl⟩
  · obtain ⟨x, _, rfl⟩ := Option.map_eq_some_iff.mp taken
    exact ⟨{ h.work.slots[k] with source := Port.ofIdx x }, rfl⟩
  · next two => exact absurd (BitVec.eq_of_toNat_eq two) other
  · cases taken

/-- A slot is emptied, its enabled setpoints are reset, and what follows is settled. -/
theorem slot_emptied (k : Fin 8) (x : SlotItem) (h : Hub) :
    ∃ m : Hub, m = { h with work := ((h.modSlotItem k fun _ => x).emptySlot k).work, slots := m.slots, setpoints := m.setpoints } ∧
      m.slot k = ⟨.empty, 0, none, false⟩ ∧ (∀ j, j ≠ k → m.slot j = h.slot j) ∧
      (∀ n : Fin 16, m.setpoint n =
        if h.work.setpoints[n].enabled && h.work.setpoints[n].slot == k then ⟨.inactive, false, none, false⟩
        else h.setpoint n) ∧
      Settled h m ((h.modSlotItem k fun _ => x).emptySlot k) := by
  obtain ⟨rest, setpoints⟩ := emptied_rest k (h.modSlotItem k fun _ => x)
  have same : ((h.modSlotItem k fun _ => x).emptied k).slots = (h.setSlot k ⟨.empty, 0, none, false⟩).slots := by
    rw [rest]; rfl
  have slots (j : Fin 8) : ((h.modSlotItem k fun _ => x).emptied k).slot j =
      if k = j then ⟨.empty, 0, none, false⟩ else h.slot j := by
    rw [slot, same]
    exact slot_setSlot ..
  refine ⟨(h.modSlotItem k fun _ => x).emptied k, ?_, by rw [slots, if_pos rfl], fun j other => by rw [slots, if_neg (Ne.symm other)],
    setpoints, settled_settleSetpoints rfl⟩
  rw [emptySlot_work, same]
  exact rest

/-! ## Setpoints -/

theorem write_setpoint {n : Fin 16} (taken : h.write .setpoints item field v = some t) (named : indexOf 16 item = some n) :
    ∃ x, writtenSetpoint (h.setpointItem n) field.toNat v = some x ∧
      t = (h.modSetpointItem n fun _ => x).setpointChanged n h := by
  obtain ⟨k, indexed, taken⟩ := Option.bind_eq_some_iff.mp taken
  obtain rfl : n = k := Option.some.inj (named.symm.trans indexed)
  obtain ⟨x, given, same, _⟩ := writeSetpoint_field taken
  exact ⟨x, given, same⟩

/-- A target of another kind sets the command to OFF (R156). -/
theorem writtenSetpoint_target {i x : SetpointItem} (given : writtenSetpoint i 7 v = some x) :
    x.command = if kindOf (targetChannel x.target) = kindOf (targetChannel i.target) then i.command else .off := by
  obtain ⟨y, _, rfl⟩ := Option.map_eq_some_iff.mp given
  rfl

/-- The state a setpoint with configuration `i` takes from its slot (R161). -/
def entered (i : SetpointItem) (x : Slot) : Setpoint :=
  if i.enabled = false then ⟨.inactive, false, none, false⟩
  else
    match x.state with
    | .empty => ⟨.inactive, false, none, false⟩
    | .fresh => (Setpoint.mk .inactive false none false).evaluated i x.value
    | .stale => if i.failActive then ⟨.active, true, none, false⟩ else ⟨.inactive, false, none, false⟩

theorem enterFromSlot_eq (n : Fin 16) (h : Hub) :
    h.enterFromSlot n = entered (h.setpointItem n) (h.slot (h.setpointItem n).slot) := by
  unfold enterFromSlot entered
  dsimp only
  cases (h.setpointItem n).enabled with
  | false => rfl
  | true => cases (h.slot (h.setpointItem n).slot).state <;> rfl

/-- The part with one setpoint written, before it is settled. -/
def setpointWritten (n : Fin 16) (x : SetpointItem) (h : Hub) : Hub :=
  (h.modSetpointItem n fun _ => x).setSetpoint n { entered x (h.slot x.slot) with
    cut := (h.setpoint n).timer.isSome && (entered x (h.slot x.slot)).timer.isSome }

theorem setpointItem_written (n : Fin 16) (x : SetpointItem) (h : Hub) : (h.setpointWritten n x).setpointItem n = x := by
  simp [setpointWritten, setpointItem, modSetpointItem]

theorem setpointChanged_eq (n : Fin 16) (x : SetpointItem) (h : Hub) :
    (h.modSetpointItem n fun _ => x).setpointChanged n h =
      (h.setpointWritten n x).settleSetpoints h [(h.setpointItem n).target, x.target] := by
  have item : (h.modSetpointItem n fun _ => x).setpointItem n = x := by rw [setpointItem_modSetpointItem, if_pos rfl]
  unfold setpointChanged setpointWritten
  dsimp only
  rw [enterFromSlot_eq, item]
  rfl

theorem driving_apart {n j : Fin 16} (other : j ≠ n) (x : SetpointItem) (h : Hub) :
    (h.setpointWritten n x).driving j = h.driving j := by
  unfold driving setpointWritten
  rw [setpoint_setSetpoint, if_neg (Ne.symm other)]
  rfl

/-- The channels touched are the old target and the new. -/
theorem mem_channelsTouched (n : Fin 16) (x : SetpointItem) (h : Hub) (c : Fin 23) :
    c ∈ channelsTouched h (h.setpointWritten n x) [(h.setpointItem n).target, x.target] ↔
      c = targetChannel (h.setpointItem n).target ∨ c = targetChannel x.target := by
  unfold channelsTouched
  simp only [List.mem_map, List.mem_filter, List.mem_finRange, true_and]
  constructor
  · rintro ⟨target, touched, rfl⟩
    simp only [Bool.or_eq_true, List.contains_eq_mem, List.mem_cons, List.not_mem_nil, or_false, decide_eq_true_eq,
      List.any_eq_true, List.mem_finRange, true_and, Bool.and_eq_true, beq_iff_eq] at touched
    rcases touched with (rfl | rfl) | ⟨j, rfl, moved⟩
    · exact .inl rfl
    · exact .inr rfl
    · by_cases own : j = n
      · subst own
        exact .inr (by rw [setpointItem_written])
      · rw [drivingChanged, driving_apart own] at moved
        simp at moved
  · rintro (rfl | rfl)
    · exact ⟨_, by simp, rfl⟩
    · exact ⟨_, by simp, rfl⟩

theorem settleSetpoints_input (m before : Hub) (also : List (Fin 21)) {c : Fin 23}
    (touched : c ∈ channelsTouched before m also) : ((m.settleSetpoints before also).chan c).input = m.localLayer c := by
  unfold settleSetpoints
  dsimp only
  split
  · have channels (x : Hub) : (x.giveAll .setpoint).channels = x.channels := by rw [giveAll_rest]
    rw [chan_of_channels (channels _), formLayers_input, if_pos touched]
  · rw [formLayers_input, if_pos touched]

theorem settleSetpoints_told {before : Hub} {also : List (Fin 21)} {n : Fin 16} (moved : before.driving n ≠ m.driving n)
    {q : Port} (live : m.attached q = true) : (m.settleSetpoints before also).hasFlag q .setpoint = true := by
  unfold settleSetpoints
  dsimp only
  rw [if_pos (List.any_eq_true.mpr ⟨n, List.mem_finRange n, by simpa [drivingChanged] using moved⟩)]
  exact hasFlag_giveAll (((reach_formLayers _ m).attached q).trans live)

/-- What a write of a setpoint leaves. -/
theorem setpoint_written (n : Fin 16) (x : SetpointItem) (h : Hub) :
    let t := (h.modSetpointItem n fun _ => x).setpointChanged n h
    let aimed (c : Fin 23) : Bool := c == targetChannel h.work.setpoints[n].target || c == targetChannel x.target
    t.work.setpoints[n] = x ∧
      t.setpoint n = { entered x (h.slot x.slot) with
        cut := (h.setpoint n).timer.isSome && (entered x (h.slot x.slot)).timer.isSome } ∧
      (∀ j, j ≠ n → t.setpoint j = h.setpoint j) ∧ (∀ c, aimed c = true → (t.chan c).input = t.localLayer c) ∧
      Reach aimed { h with work := t.work, setpoints := t.setpoints } t ∧
      (h.driving n ≠ t.driving n → ∀ q, h.attached q = true → t.hasFlag q .setpoint = true) := by
  intro t aimed
  have same : t = (h.setpointWritten n x).settleSetpoints h [(h.setpointItem n).target, x.target] := setpointChanged_eq n x h
  have reach : Reach (fun c => (channelsTouched h (h.setpointWritten n x) [(h.setpointItem n).target, x.target]).contains c)
      (h.setpointWritten n x) t := by rw [same]; exact reach_settleSetpoints ..
  have touched (c : Fin 23) (aim : aimed c = true) :
      c ∈ channelsTouched h (h.setpointWritten n x) [(h.setpointItem n).target, x.target] := by
    rw [mem_channelsTouched]
    simpa [aimed, setpointItem] using aim
  have setpoints (j : Fin 16) : t.setpoint j = (h.setpointWritten n x).setpoint j := by rw [setpoint, reach.setpoints]; rfl
  refine ⟨?_, ?_, fun j other => ?_, fun c aim => ?_, ?_, fun moved q live => ?_⟩
  · rw [reach.work]
    exact setpointItem_written n x h
  · rw [setpoints, setpointWritten, setpoint_setSetpoint, if_pos rfl]
  · rw [setpoints, setpointWritten, setpoint_setSetpoint, if_neg (Ne.symm other)]
    rfl
  · rw [localLayer_of_reach reach, same]
    exact settleSetpoints_input _ _ _ (touched c aim)
  · rw [reach.work, reach.setpoints]
    refine Reach.mono (fun c mem => ?_) reach
    have mem := (mem_channelsTouched n x h c).mp (by simpa using mem)
    simpa [aimed, setpointItem] using mem
  · rw [same]
    refine settleSetpoints_told (n := n) ?_ live
    have drives : t.driving n = (h.setpointWritten n x).driving n := by rw [driving, setpoints]; rfl
    rwa [drives] at moved

end
end Hub
end Sys2Proof.Machine
end

section
/-! CONFIG_WRITE: what is read back, and what follows on the running blocks (R177). -/

namespace Sys2Proof.Machine
namespace Hub

section
variable {h t : Hub} {v : BitVec 32} {b : Block} {item field : Byte} {c : Fin 23} {u : Fin 2}

/-- What a fallback written does to its channel. -/
theorem fallback_written (taken : h.write .channels item 0 v = some t) (named : channelNo item = some c) :
    Reach (only c) { h with work := t.work } t ∧ (t.chan c).input = t.localLayer c ∧
      (t.localLayer c = (h.chan c).input → t = { h with work := t.work }) ∧
      (t.localLayer c ≠ (h.chan c).input → t.Formed c) := by
  obtain ⟨x, _, rfl⟩ := write_fallback taken named
  obtain ⟨reach, input, still, formed⟩ := formLayer_takes c (h.setFallback c x)
  rw [formLayer_work]
  exact ⟨reach, input, still, formed⟩

theorem rate_written (taken : h.write .channels item 5 v = some t) (named : channelNo item = some (stepperChannel u)) :
    Reach (only (stepperChannel u)) { h with work := t.work } t ∧ t.Formed (stepperChannel u) := by
  obtain rfl := write_rate taken named
  rw [form_work]
  exact ⟨reach_form (only_self _) .rateWrite (h.modStepperItem u fun i => { i with refRate := v.toNat }), formed_form ..⟩

/-- A fallback of a stepper that goes from POSITION to STAY (R49, case 2). -/
theorem stay_taken (taken : h.write .channels item 0 v = some t) (stays : v = 0x070000)
    (named : channelNo item = some (stepperChannel u)) (empty : (h.chan (stepperChannel u)).claims = [])
    (from_ : ∃ p, (h.chan (stepperChannel u)).input = ⟨.position p, false⟩) :
    (t.chan (stepperChannel u)).stay = some (h.stayOf u) ∧
      (t.chan (stepperChannel u)).eff = ⟨h.stayOf u, .fallback⟩ := by
  obtain ⟨p, from_⟩ := from_
  obtain ⟨x, given, rfl⟩ := write_fallback taken named
  obtain rfl : x = .stay := by
    rw [stays, valueOf_stay] at given
    exact (Option.some.inj given).symm
  obtain ⟨a, formed, claims, input, stay, _⟩ := stayFormed_fallback (x := .stay) u h (by rw [from_]; simp)
  rw [from_] at formed
  have rests : a.RestsOnStay (stepperChannel u) := ⟨claims.trans empty, input⟩
  have took := formed.passed rests (.inl rfl)
  rw [stay] at took
  exact ⟨took, formed.supplies rests _ took⟩

/-- The other way it loses its stay value (R49, case 4). -/
theorem stay_lost {p : Nat} (taken : h.write .channels item 0 v = some t) (spelt : v.toNat = 0x080000 + p) (low : p < 4096)
    (named : channelNo item = some (stepperChannel u)) (empty : (h.chan (stepperChannel u)).claims = [])
    (from_ : (h.chan (stepperChannel u)).input = ⟨.stay, false⟩) :
    (t.chan (stepperChannel u)).stay = none ∧
      (t.chan (stepperChannel u)).eff = ⟨.target p h.work.steppers[u].refRate, .fallback⟩ := by
  obtain ⟨x, given, rfl⟩ := write_fallback taken named
  obtain rfl : x = .position p := by
    rw [valueOf_position spelt low] at given
    exact (Option.some.inj given).symm
  obtain ⟨a, formed, claims, input, _, steppers⟩ := stayFormed_fallback (x := .position p) u h (by rw [from_]; simp)
  refine ⟨formed.absent fun rests => ?_, ?_⟩
  · rw [rests.2] at input
    cases input
  · rw [formed.position p (claims.trans empty) input, steppers]

/-- A reference rate written keeps the position of the stay value (R49, case 3). -/
theorem stay_rated {q r : Nat} (taken : h.write .channels item 5 v = some t)
    (named : channelNo item = some (stepperChannel u)) (empty : (h.chan (stepperChannel u)).claims = [])
    (from_ : (h.chan (stepperChannel u)).input = ⟨.stay, false⟩)
    (stay : (h.chan (stepperChannel u)).stay = some (.target q r)) :
    (t.chan (stepperChannel u)).stay = some (.target q v.toNat) ∧
      (t.chan (stepperChannel u)).eff = ⟨.target q v.toNat, .fallback⟩ := by
  obtain rfl := write_rate taken named
  have formed := stayFormed_form u .rateWrite (h.modStepperItem u fun i => { i with refRate := v.toNat })
  have rests : (h.modStepperItem u fun i => { i with refRate := v.toNat }).RestsOnStay (stepperChannel u) := ⟨empty, from_⟩
  have rate : (h.modStepperItem u fun i => { i with refRate := v.toNat }).work.steppers[u].refRate = v.toNat := by
    simp [modStepperItem]
  have took := formed.rated rests rfl q r stay
  rw [rate] at took
  exact ⟨took, formed.supplies rests _ took⟩

end
end Hub

open Hub

/-- Settles O51: the field put, what no write moves, and the fields that reach the running blocks one by one. -/
theorem writtenFieldsReadBack : Obligations.WrittenFieldsReadBack := by
  unfold Obligations.WrittenFieldsReadBack
  refine ⟨fun b item field v h t taken => ?back, fun item field v h t => ?_⟩
  case back =>
    have put := write_put taken
    have written := written_of_write taken
    have rest := writeRest_written written
    unfold WriteRest at rest
    refine ⟨put.back, fun d i f other still => ?_, ?_, ?_, ?_, ?_, ?_, ?_, ?_, written_claims written, fun q => ?_⟩
    · refine put.kept d i f other ?_
      rintro ⟨rfl, rfl, rfl, rfl, rfl⟩
      exact still rfl rfl ⟨rfl, rfl, rfl⟩
    iterate 7 rw [rest]
    rw [(tells_written written).ports q]
  refine ⟨workOnly_port, workOnly_calibration, workOnly_group, fun taken two => ?freshness,
    fun taken first ⟨rate, sound⟩ => workOnly_channel taken first rate sound,
    fun taken sound first => write_sound taken sound first, fun c => fallback_written, fun u => rate_written,
    fun u named empty => ⟨fun taken stays from_ => stay_taken taken stays named empty from_,
      fun taken p spelt low from_ => stay_lost taken spelt low named empty from_,
      fun taken q r from_ stay => stay_rated taken named empty from_ stay⟩,
    fun g taken named => ?members, fun k taken other named => ?slots, fun n taken named => ?setpoints⟩
  case freshness =>
    subst two
    exact workOnly_freshness taken
  case members =>
    obtain ⟨rfl, zero⟩ := write_members taken named
    obtain ⟨rest, others, dead⟩ := writeMembers_dead g (v.setWidth 12) h
    simp only [zero] at dead
    exact ⟨rest, others, dead⟩
  case slots =>
    obtain ⟨x, rfl⟩ := write_slot taken other named
    exact slot_emptied k x h
  case setpoints =>
    obtain ⟨x, given, rfl⟩ := write_setpoint taken named
    obtain ⟨item, own, others, input, reach, told⟩ := setpoint_written n x h
    dsimp only
    rw [item]
    refine ⟨fun seven => ?_, own, others, input, reach, told⟩
    subst seven
    exact writtenSetpoint_target given

end Sys2Proof.Machine
end

section
/-! The claim pool (R19 to R25, R77, R81): what does not reach it. -/

namespace Sys2Proof.Machine.Hub

section
variable {h t v : Hub} {c : Fin 23}

/-- The requester and the holder of a handover pending on a channel. -/
def parties (h : Hub) (c : Fin 23) : Option (Port × Port) := (h.chan c).handover.pending.map fun w => (w.requester, w.holder)

/-- The pool is seen the same: the claims, who is party to a handover, the tenancies, the asked sets; the values still fit,
the quotas still hold, and no mode is entered that asks for an empty pool. -/
structure PoolAlike (h t : Hub) : Prop where
  claims : ∀ c, (t.chan c).claims = (h.chan c).claims
  parties : ∀ c, t.parties c = h.parties c
  attached : ∀ p, t.attached p = h.attached p
  isLapsed : ∀ p, t.isLapsed p = h.isLapsed p
  asked : ∀ p, (t.port p).asked = (h.port p).asked
  mode : t.mode = .startup ∨ t.mode = .faultHold → h.mode = .startup ∨ h.mode = .faultHold
  values : ∀ c, ∀ x ∈ (h.chan c).claims, commandFits (kindOf c) (h.work.travelOf c) x.value = true →
    commandFits (kindOf c) (t.work.travelOf c) x.value = true
  quotas : ∀ p, h.holding p ≤ (h.portItem p).quota → h.holding p ≤ (t.portItem p).quota

theorem detached_iff (h : Hub) (p : Port) :
    (h.port p).tenancy = .detached ↔ h.attached p = false ∧ h.isLapsed p = false := by
  unfold attached isLapsed
  cases (h.port p).tenancy <;> simp

theorem tenants_congr (attached : ∀ p, t.attached p = h.attached p) (isLapsed : ∀ p, t.isLapsed p = h.isLapsed p) {p : Port}
    (tenant : (h.port p).tenancy ≠ .detached) : (t.port p).tenancy ≠ .detached := by
  rwa [Ne, detached_iff, attached, isLapsed, ← detached_iff]

theorem poolCount_congr (claims : ∀ c, (t.chan c).claims = (h.chan c).claims) : t.poolCount = h.poolCount := by
  unfold poolCount
  simp only [claims]

theorem holding_congr (claims : ∀ c, (t.chan c).claims = (h.chan c).claims) (p : Port) : t.holding p = h.holding p := by
  unfold holding
  simp only [claims]

/-- A handover is judged on its parties. -/
theorem parties_some {w : PendingHandover} (pending : (t.chan c).handover.pending = some w) (same : t.parties c = h.parties c) :
    ∃ v, (h.chan c).handover.pending = some v ∧ v.requester = w.requester ∧ v.holder = w.holder := by
  unfold parties at same
  rw [pending, Option.map_some, eq_comm, Option.map_eq_some_iff] at same
  obtain ⟨v, before, pair⟩ := same
  exact ⟨v, before, congrArg Prod.fst pair, congrArg Prod.snd pair⟩

/-- Whether a port is the holder of the handover pending. -/
theorem holder_any (h : Hub) (c : Fin 23) (p : Port) :
    ((h.chan c).handover.pending.any fun w => w.holder == p) = (h.parties c).any fun w => w.2 == p := by
  unfold parties
  cases (h.chan c).handover.pending <;> rfl

theorem PoolAlike.keeps (a : PoolAlike h t) (stands : h.PoolStands) : t.PoolStands where
  lists c := by
    obtain ⟨onePerPort, sorted, levels, values, orphans, tenants⟩ := stands.lists c
    refine ⟨?_, ?_, ?_, ?_, ?_, ?_⟩ <;> rw [a.claims]
    · exact onePerPort
    · exact sorted
    · exact levels
    · exact fun x mem => a.values c x mem (values x mem)
    · exact fun x mem => by rw [a.isLapsed]; exact orphans x mem
    · exact fun x mem => tenants_congr a.attached a.isLapsed (tenants x mem)
  handovers c := by
    obtain ⟨joins, asked⟩ := stands.handovers c
    refine ⟨fun w pending => ?_, fun p => ?_⟩
    · obtain ⟨v, before, requester, holder⟩ := parties_some pending (a.parties c)
      rw [a.claims, ← requester, ← holder]
      exact joins v before
    · rw [a.asked, asked, holder_any, holder_any, a.parties]
  size := by rw [poolCount_congr a.claims]; exact stands.size
  quotas p := by rw [holding_congr a.claims]; exact a.quotas p (stands.quotas p)
  emptyBeforeRun early c := by rw [a.claims]; exact stands.emptyBeforeRun (a.mode early) c

theorem PoolAlike.trans (a : PoolAlike h t) (b : PoolAlike t v) : PoolAlike h v where
  claims c := (b.claims c).trans (a.claims c)
  parties c := (b.parties c).trans (a.parties c)
  attached p := (b.attached p).trans (a.attached p)
  isLapsed p := (b.isLapsed p).trans (a.isLapsed p)
  asked p := (b.asked p).trans (a.asked p)
  mode early := a.mode (b.mode early)
  values c x mem fits := b.values c x (by rw [a.claims]; exact mem) (a.values c x mem fits)
  quotas p within := by
    have held := holding_congr a.claims p
    rw [← held]
    exact b.quotas p (by rw [held]; exact a.quotas p within)

/-- The pool is seen the same where the working copies stand, and of the channels the claims and the parties. -/
theorem PoolAlike.of_work (claims : ∀ c, (t.chan c).claims = (h.chan c).claims) (parties : ∀ c, t.parties c = h.parties c)
    (tenancy : ∀ p, (t.port p).tenancy = (h.port p).tenancy) (asked : ∀ p, (t.port p).asked = (h.port p).asked)
    (mode : t.mode = .startup ∨ t.mode = .faultHold → h.mode = .startup ∨ h.mode = .faultHold) (work : t.work = h.work) :
    PoolAlike h t where
  claims := claims
  parties := parties
  attached p := by rw [Hub.attached, tenancy]; rfl
  isLapsed p := by rw [Hub.isLapsed, tenancy]; rfl
  asked := asked
  mode := mode
  values c x _ := by rw [work]; exact id
  quotas p := by rw [portItem, portItem, work]; exact id

theorem parties_of_handover (same : (t.chan c).handover = (h.chan c).handover) : t.parties c = h.parties c := by
  rw [parties, same]; rfl

/-- Flags given and channels formed. -/
theorem PoolAlike.of_tells {F : List Flag} (told : Tells F h t) (claims : ∀ c, (t.chan c).claims = (h.chan c).claims)
    (handover : ∀ c, (t.chan c).handover = (h.chan c).handover)
    (mode : t.mode = .startup ∨ t.mode = .faultHold → h.mode = .startup ∨ h.mode = .faultHold) (work : t.work = h.work) :
    PoolAlike h t :=
  .of_work claims (fun c => parties_of_handover (handover c)) (fun p => by rw [told.ports p]) (fun p => by rw [told.ports p])
    mode work

theorem Quiet.poolAlike (a : Quiet h t) : PoolAlike h t where
  claims c := congrArg Channel.claims (chan_of_channels a.channels c)
  parties c := parties_of_handover (congrArg Channel.handover (chan_of_channels a.channels c))
  attached := a.attached
  isLapsed := a.isLapsed
  asked := a.asked
  mode := by rw [a.mode]; exact id
  values c x _ := by rw [a.work]; exact id
  quotas p := by rw [portItem, portItem, a.work]; exact id

/-- The ports are told, and the rest that matters stands. -/
theorem PoolAlike.of_told (told : Plain h { h with ports := t.ports }) (channels : t.channels = h.channels)
    (mode : t.mode = h.mode) (work : t.work = h.work) : PoolAlike h t where
  claims c := congrArg Channel.claims (chan_of_channels channels c)
  parties c := parties_of_handover (congrArg Channel.handover (chan_of_channels channels c))
  attached := told.attached
  isLapsed := told.isLapsed
  asked := told.asked
  mode := by rw [mode]; exact id
  values c x _ := by rw [work]; exact id
  quotas p := by rw [portItem, portItem, work]; exact id

theorem StepperOnly.poolAlike {u : Fin 2} (a : StepperOnly u h t) : PoolAlike h t :=
  .of_told a.told (by rw [a.rest]) (by rw [a.rest]) (by rw [a.rest])

theorem SounderOnly.poolAlike (a : SounderOnly h t) : PoolAlike h t :=
  .of_told a.told (by rw [a.rest]) (by rw [a.rest]) (by rw [a.rest])

theorem RelaySide.poolAlike (a : RelaySide h t) : PoolAlike h t :=
  .of_told a.told (by rw [a.rest]) (by rw [a.rest]) (by rw [a.rest])

/-! ## Forming -/

theorem form_handover (c k : Fin 23) (cause : FormCause) (h : Hub) :
    ((h.form c cause).chan k).handover = (h.chan k).handover := by
  rw [chan_form]
  split
  · next same => rw [← same]; rfl
  · rfl

theorem poolAlike_form (c : Fin 23) (cause : FormCause) (h : Hub) : PoolAlike h (h.form c cause) :=
  .of_tells (tells_form c cause h) (fun k => form_claims c k cause h) (fun k => form_handover c k cause h)
    (by rw [form_mode]; exact id) (form_work c cause h)

theorem poolAlike_formLayer (c : Fin 23) (h : Hub) : PoolAlike h (h.formLayer c) :=
  .of_tells (tells_formLayer h c) (fun k => (formLayer_claims h c k).1) (fun k => (formLayer_claims h c k).2)
    (by rw [(reach_formLayer_any h c).mode]; exact id) (reach_formLayer_any h c).work

theorem settleSetpoints_handover (m before : Hub) (also : List (Fin 21)) (c : Fin 23) :
    ((m.settleSetpoints before also).chan c).handover = (m.chan c).handover := by
  unfold settleSetpoints
  dsimp only
  split
  · rw [chan_of_channels (by rw [giveAll_rest])]
    exact (formLayers_claims _ m c).2
  · exact (formLayers_claims _ m c).2

theorem poolAlike_settleSetpoints (m before : Hub) (also : List (Fin 21)) : PoolAlike m (m.settleSetpoints before also) :=
  .of_tells (tells_settleSetpoints m before also) (settleSetpoints_claims m before also)
    (settleSetpoints_handover m before also) (by rw [(reach_settleSetpoints m before also).mode]; exact id)
    (reach_settleSetpoints m before also).work

/-! ## Working copies -/

/-- A change of the working copies that lets the values fit and the quotas hold. -/
theorem poolAlike_modWork {f : Blocks → Blocks}
    (values : ∀ c, ∀ x ∈ (h.chan c).claims, commandFits (kindOf c) (h.work.travelOf c) x.value = true →
      commandFits (kindOf c) ((f h.work).travelOf c) x.value = true)
    (quotas : ∀ p, h.holding p ≤ (h.portItem p).quota → h.holding p ≤ (f h.work).ports[p.idx].quota) :
    PoolAlike h (h.modWork f) where
  claims _ := rfl
  parties _ := rfl
  attached _ := rfl
  isLapsed _ := rfl
  asked _ := rfl
  mode := id
  values := values
  quotas := quotas

theorem travelOf_congr {w x : Blocks} (travel : ∀ u : Fin 2, w.steppers[u].travel = x.steppers[u].travel) (c : Fin 23) :
    w.travelOf c = x.travelOf c := by
  unfold Blocks.travelOf
  cases outputOf c <;> simp only
  exact travel _

/-- The travel limits and the PORTS block stand. -/
theorem poolAlike_modWork_same {f : Blocks → Blocks}
    (travel : ∀ u : Fin 2, (f h.work).steppers[u].travel = h.work.steppers[u].travel)
    (ports : (f h.work).ports = h.work.ports) : PoolAlike h (h.modWork f) :=
  poolAlike_modWork (fun c x _ => by rw [travelOf_congr travel]; exact id) fun p => by rw [ports]; exact id

theorem Tuned.poolAlike {f : Blocks → Blocks} (tuned : Tuned h (f h.work)) : PoolAlike h (h.modWork f) :=
  poolAlike_modWork (fun c x _ => by rw [travelOf_congr fun u => (tuned.steppers u).1]; exact id) fun p before => by
    rcases tuned.quotas p with holds | same
    · exact holds
    · rw [same]; exact before

/-- A target that fits a limit and is not above another fits that. -/
theorem commandFits_of_target {k : Kind} {low limit : Nat} {x : Command} (fits : commandFits k low x = true)
    (below : targetAbove limit x = false) : commandFits k limit x = true := by
  cases x with
  | target p r =>
    cases k with
    | stepper =>
      simp only [commandFits, decide_eq_true_eq, targetAbove, decide_eq_false_iff_not, Nat.not_lt] at fits below ⊢
      exact ⟨below, fits.2⟩
    | _ => exact fits
  | _ => cases k <;> exact fits

theorem stepperChannel_of_outputOf {u : Fin 2} : outputOf c = .stepper u → c = stepperChannel u := by
  revert c u
  decide

theorem travelOf_stepper (w : Blocks) (u : Fin 2) : w.travelOf (stepperChannel u) = w.steppers[u].travel := by
  unfold Blocks.travelOf
  rw [outputOf_stepperChannel]

theorem travelOf_off {w : Blocks} (off : ∀ u, c ≠ stepperChannel u) : w.travelOf c = 0 := by
  unfold Blocks.travelOf
  split
  · next u own => exact absurd (stepperChannel_of_outputOf own) (off u)
  all_goals rfl

/-- A travel limit that no claim target exceeds (R177). -/
theorem poolAlike_travel {u : Fin 2} {x : Nat} (room : h.travelTooLow u x = false) :
    PoolAlike h (h.modStepperItem u fun i => { i with travel := x }) := by
  refine poolAlike_modWork (fun c y mem fits => ?_) fun p => id
  change commandFits _ ((h.modStepperItem u fun i => { i with travel := x }).work.travelOf c) _ = true
  by_cases own : ∃ w, c = stepperChannel w
  · obtain ⟨w, rfl⟩ := own
    have limit := congrArg StepperItem.travel (stepperItem_modStepperItem u w (fun i => { i with travel := x }) h)
    rw [travelOf_stepper] at fits ⊢
    refine (congrArg (fun n => commandFits _ n y.value) limit).trans ?_
    split
    · next same =>
      subst same
      have above : ∀ y ∈ (h.chan (stepperChannel u)).claims, targetAbove x y.value = false := by
        simp only [travelTooLow, Bool.or_eq_false_iff, List.any_eq_false, Bool.not_eq_true] at room
        exact room.1.2
      exact commandFits_of_target fits (above y mem)
    · exact fits
  · simp only [not_exists] at own
    rw [travelOf_off own] at fits ⊢
    exact fits

end
end Sys2Proof.Machine.Hub
end

section
/-! The claim pool: every operation but the edits of claims, the resets and the load leaves it as it is seen. -/

namespace Sys2Proof.Machine.Hub

section
variable {h t : Hub} {c : Fin 23}

theorem poolAlike_setFallback (c : Fin 23) (x : Fallback) (h : Hub) : PoolAlike h (h.setFallback c x) :=
  poolAlike_modWork_same (fun _ => rfl) rfl

theorem poolAlike_rate (u : Fin 2) (x : Nat) (h : Hub) : PoolAlike h (h.modStepperItem u fun i => { i with refRate := x }) :=
  poolAlike_modWork_same (fun v => getElem_set_field h.work.steppers u v _ (·.travel) rfl) rfl

theorem poolAlike_soundMotion (x : Bool) (h : Hub) :
    PoolAlike h (refreshMute (h.modWork fun w => { w with soundMotion := x })) :=
  (poolAlike_modWork_same (h := h) (f := fun w => { w with soundMotion := x }) (fun _ => rfl) rfl).trans
    (.of_work (fun _ => rfl) (fun _ => rfl) (fun _ => rfl) (fun _ => rfl) id rfl)

theorem poolAlike_writeMembers (g : Fin 4) (x : BitVec 12) (h : Hub) : PoolAlike h (h.writeMembers g x) := by
  have item : PoolAlike h (h.modGroupItem g fun i => { i with members := x }) :=
    poolAlike_modWork_same (fun _ => rfl) rfl
  unfold writeMembers
  dsimp only
  refine item.trans ?_
  split <;> exact .of_work (fun _ => rfl) (fun _ => rfl) (fun _ => rfl) (fun _ => rfl) id rfl

theorem poolAlike_setpoint (n : Fin 16) (x : SetpointItem) (h : Hub) :
    PoolAlike h ((h.modSetpointItem n fun _ => x).setpointChanged n h) := by
  have item : PoolAlike h (h.modSetpointItem n fun _ => x) := poolAlike_modWork_same (fun _ => rfl) rfl
  refine item.trans ?_
  exact (quiet_setSetpoint n _ _).poolAlike.trans (poolAlike_settleSetpoints _ h _)

theorem poolAlike_checkHeld (h : Hub) : PoolAlike h h.checkHeld := by
  have told := tells_checkHeld h
  rcases checkHeld_cases h with same | ⟨_, _, passed⟩
  · rw [same]
    exact (Plain.refl h).toQuiet.poolAlike
  · rw [passed] at told ⊢
    rw [giveAll_rest] at told ⊢
    exact .of_tells told (fun _ => rfl) (fun _ => rfl) (by simp) rfl

theorem poolAlike_enterHolding (h : Hub) : PoolAlike h h.enterHolding := by
  have told := tells_enterHolding h
  have rest := enterHolding_rest h
  have mode : h.enterHolding.mode = .holding ∨ h.enterHolding.mode = .held := by
    rw [(enterHolding_mode h).1]
    split
    · exact .inr rfl
    · exact .inl rfl
  generalize h.enterHolding = t at told rest mode
  have channels : t.channels = h.channels := by rw [rest]
  exact .of_tells told (fun c => congrArg Channel.claims (chan_of_channels channels c))
    (fun c => congrArg Channel.handover (chan_of_channels channels c)) (by rcases mode with e | e <;> simp [e]) (by rw [rest])

theorem poolAlike_enterRun (h : Hub) : PoolAlike h h.enterRun := by
  have entered := enteredRun_enterRun h
  have told := tells_enterRun h
  generalize h.enterRun = t at entered told
  exact .of_tells told (fun c => by rw [entered.channels]) (fun c => by rw [entered.channels]) (by simp [entered.mode])
    (by rw [entered.rest])

theorem poolAlike_flashBoundaryPasses (h : Hub) : PoolAlike h h.flashBoundaryPasses := by
  unfold flashBoundaryPasses
  split <;> exact .of_work (fun _ => rfl) (fun _ => rfl) (fun _ => rfl) (fun _ => rfl) id rfl

theorem poolAlike_countDown (h : Hub) : PoolAlike h h.countDown where
  claims c := by rw [chan_countDown]
  parties c := by
    unfold parties
    rw [chan_countDown, Option.map_map]
    rfl
  attached p := by
    unfold attached
    rw [port_countDown]
    cases (h.port p).tenancy <;> rfl
  isLapsed p := by
    unfold isLapsed
    rw [port_countDown]
    cases (h.port p).tenancy <;> rfl
  asked p := by rw [port_countDown]
  mode := id
  values c x _ := id
  quotas p := id

theorem sum_of_nothing : ((List.finRange 23).map fun _ => 0).sum = 0 := by decide

/-- An empty pool with nothing pending and nothing asked stands, whatever the quotas. -/
theorem poolStands_empty (claims : ∀ c, (t.chan c).claims = []) (free : ∀ c, (t.chan c).handover.pending = none)
    (asked : ∀ p, (t.port p).asked = 0) : t.PoolStands where
  lists c := by constructor <;> simp [claims]
  handovers c := ⟨by simp [free], fun p => by rw [free, asked]; simp⟩
  size := by
    unfold poolCount
    simp only [claims, List.length_nil, sum_of_nothing]
    exact Nat.zero_le _
  quotas p := by
    unfold holding
    simp only [claims, List.filter_nil, List.length_nil, sum_of_nothing]
    exact Nat.zero_le _
  emptyBeforeRun _ := claims

theorem poolStands_hubReset (cause : ResetCause) (h : Hub) : (h.hubReset cause).PoolStands := by
  have chan (c : Fin 23) := chan_hubReset cause h c
  refine poolStands_empty (fun c => by rw [chan]; rfl) (fun c => by rw [chan]; rfl) fun p => by rw [port_hubReset]; rfl

/-- In an empty pool no handover is pending and no port is asked. -/
theorem PoolStands.nothingAsked (stands : h.PoolStands) (empty : ∀ c, (h.chan c).claims = []) :
    (∀ c, (h.chan c).handover.pending = none) ∧ ∀ p, (h.port p).asked = 0 := by
  have free (c : Fin 23) : (h.chan c).handover.pending = none := by
    refine Option.eq_none_iff_forall_not_mem.mpr fun w pending => ?_
    obtain ⟨_, x, mem, _⟩ := (stands.handovers c).parties w pending
    rw [empty] at mem
    cases mem
  refine ⟨free, fun p => BitVec.eq_of_getLsbD_eq fun n small => ?_⟩
  have bit := (stands.handovers ⟨n, small⟩).asked p
  rw [free] at bit
  simpa using bit

theorem poolStands_endLoad (storeAnswers : Bool) (startup : h.mode = .startup) (stands : h.PoolStands) :
    (h.endLoad storeAnswers).PoolStands := by
  have empty := stands.emptyBeforeRun (.inl startup)
  obtain ⟨free, asked⟩ := stands.nothingAsked empty
  have loaded := loaded_afterLoad storeAnswers startup
  have after : (h.afterLoad storeAnswers).PoolStands := by
    refine poolStands_empty (fun c => ?_) (fun c => ?_) fun p => ?_
    · rw [(loaded.channels c).1, empty]
    · rw [(loaded.channels c).2.2.1, free]
    · rw [loaded.ports, asked]
  have mode : (h.afterLoad storeAnswers).mode = .startup := by rw [loaded.rest]; exact startup
  rw [endLoad_eq]
  generalize h.afterLoad storeAnswers = m at after mode
  split
  · have faulted : PoolAlike m { m with mode := .faultHold } :=
      .of_work (fun _ => rfl) (fun _ => rfl) (fun _ => rfl) (fun _ => rfl) (fun _ => .inl mode) rfl
    exact faulted.keeps after
  · exact (poolAlike_enterRun m).keeps after

end
end Sys2Proof.Machine.Hub
end

section
/-! Claim lists in order (R3, R19, R23, R24), and what the edits of a list keep of that. -/

namespace Sys2Proof.Machine

/-- A list in the order of R24, of one claim a port, with the levels of R19 and values that fit. -/
structure InOrder (fits : Command → Bool) (claims : List Claim) : Prop where
  onePerPort : (claims.map (·.port)).Nodup
  sorted : claims.Pairwise fun x y => y.level ≤ x.level
  levels : ∀ x ∈ claims, 1 ≤ x.level ∧ x.level ≤ 7
  values : ∀ x ∈ claims, fits x.value = true

section
variable {fits : Command → Bool} {claims gone : List Claim} {x r d : Claim} {p : Port}

theorem InOrder.sublist (order : InOrder fits claims) (sub : gone.Sublist claims) : InOrder fits gone :=
  ⟨order.onePerPort.sublist (sub.map _), order.sorted.sublist sub, fun x mem => order.levels x (sub.subset mem),
    fun x mem => order.values x (sub.subset mem)⟩

theorem InOrder.without (order : InOrder fits claims) (p : Port) : InOrder fits (withoutPort p claims) :=
  order.sublist List.filter_sublist

theorem InOrder.perm (order : InOrder fits claims) (perm : gone.Perm claims)
    (sorted : gone.Pairwise fun x y => y.level ≤ x.level) : InOrder fits gone :=
  ⟨(perm.map _).nodup_iff.mpr order.onePerPort, sorted, fun x mem => order.levels x (perm.mem_iff.mp mem),
    fun x mem => order.values x (perm.mem_iff.mp mem)⟩

/-- Claims changed in place, in their states or their values. -/
theorem InOrder.map (order : InOrder fits claims) {f : Claim → Claim} (port : ∀ x ∈ claims, (f x).port = x.port)
    (level : ∀ x ∈ claims, (f x).level = x.level) (value : ∀ x ∈ claims, fits (f x).value = true) :
    InOrder fits (claims.map f) where
  onePerPort := by
    rw [List.map_map, List.map_congr_left (g := (·.port)) port]
    exact order.onePerPort
  sorted := by
    refine List.pairwise_map.mpr (order.sorted.imp_of_mem fun mx my below => ?_)
    rw [level _ mx, level _ my]
    exact below
  levels := by
    simp only [List.forall_mem_map]
    exact fun x mem => by rw [level x mem]; exact order.levels x mem
  values := by
    simp only [List.forall_mem_map]
    exact value

theorem mem_withoutPort : x ∈ withoutPort p claims ↔ x ∈ claims ∧ x.port ≠ p := by simp [withoutPort]

theorem mem_insertClaim : r ∈ insertClaim x claims ↔ r = x ∨ r ∈ claims := by
  rw [(insertClaim_perm x claims).mem_iff, List.mem_cons]

theorem insertClaim_sorted (sorted : claims.Pairwise fun x y => y.level ≤ x.level) :
    (insertClaim x claims).Pairwise fun x y => y.level ≤ x.level := by
  rw [insertClaim_eq x claims sorted]
  simp only [List.pairwise_append, List.pairwise_cons, List.mem_filter, List.mem_cons, decide_eq_true_eq]
  refine ⟨sorted.filter _, ⟨fun y below => Nat.le_of_lt below.2, sorted.filter _⟩, ?_⟩
  rintro y ⟨_, above⟩ z (rfl | ⟨_, below⟩)
  · exact above
  · exact Nat.le_trans (Nat.le_of_lt below) above

theorem InOrder.insert (order : InOrder fits claims) (fresh : ∀ y ∈ claims, y.port ≠ x.port)
    (range : 1 ≤ x.level ∧ x.level ≤ 7) (value : fits x.value = true) : InOrder fits (insertClaim x claims) where
  onePerPort := by
    rw [((insertClaim_perm x claims).map _).nodup_iff, List.map_cons, List.nodup_cons]
    exact ⟨by simpa using fresh, order.onePerPort⟩
  sorted := insertClaim_sorted order.sorted
  levels y mem := by
    rcases mem_insertClaim.mp mem with rfl | mem
    · exact range
    · exact order.levels y mem
  values y mem := by
    rcases mem_insertClaim.mp mem with rfl | mem
    · exact value
    · exact order.values y mem

/-- The list as a grant reorders it (R85). -/
theorem InOrder.grant (order : InOrder fits claims) (mr : r ∈ claims) (md : d ∈ claims) (apart : r.port ≠ d.port)
    (level : r.level = d.level) : InOrder fits (grantReorder r.port d.port claims) :=
  order.perm (grantReorder_perm order.onePerPort order.sorted mr md apart level)
    (grantReorder_sorted order.onePerPort order.sorted mr md level)

theorem fresh_of_claimOf (free : claimOf p claims = none) : ∀ y ∈ claims, y.port ≠ p := by
  rw [claimOf, List.find?_eq_none] at free
  exact fun y mem => by simpa using free y mem

/-- A claim replaced at its level or at another (R28, R29). -/
theorem InOrder.replaced (order : InOrder fits claims) (own : claimOf p claims = some x) {level : Nat} {value : Command}
    (policy : Policy) (range : 1 ≤ level ∧ level ≤ 7) (value_fits : fits value = true) :
    InOrder fits (Hub.replacedClaims p level value policy x claims) := by
  obtain ⟨mem, port⟩ := mem_of_claimOf own
  unfold Hub.replacedClaims
  split
  · next same =>
    refine order.map (fun y my => ?_) (fun y my => ?_) fun y my => ?_
    · split
      · next here => exact port.trans here.symm
      · rfl
    · split
      · next here => rw [Hub.eq_of_claimOf order.onePerPort own my here]
      · rfl
    · split
      · exact value_fits
      · exact order.values y my
  · refine (order.without p).insert (fun y my => ?_) range value_fits
    rw [port]
    exact (mem_withoutPort.mp my).2

end

/-! ## How many claims a port holds -/

/-- Of two lists the first has no more claims, in all and of any port. -/
structure Fewer (now before : List Claim) : Prop where
  length : now.length ≤ before.length
  own : ∀ p, (now.filter fun x => x.port == p).length ≤ (before.filter fun x => x.port == p).length

section
variable {claims now before : List Claim} {p : Port}

theorem Fewer.refl (claims : List Claim) : Fewer claims claims := ⟨Nat.le_refl _, fun _ => Nat.le_refl _⟩

theorem Fewer.of_sublist (sub : now.Sublist before) : Fewer now before :=
  ⟨sub.length_le, fun _ => (sub.filter _).length_le⟩

theorem length_ownClaims (claims : List Claim) (p : Port) :
    (claims.filter fun x => x.port == p).length = (claims.map (·.port)).count p := by
  rw [List.count, List.countP_map, List.countP_eq_length_filter]
  rfl

theorem Fewer.of_ports (ports : (now.map (·.port)).Perm (before.map (·.port))) : Fewer now before where
  length := by
    have same := ports.length_eq
    rw [List.length_map, List.length_map] at same
    exact Nat.le_of_eq same
  own p := by
    rw [length_ownClaims, length_ownClaims]
    exact Nat.le_of_eq (ports.count_eq p)

theorem Fewer.of_perm (perm : now.Perm before) : Fewer now before := .of_ports (perm.map _)

theorem Fewer.trans (a : Fewer now before) (b : Fewer claims now) : Fewer claims before :=
  ⟨Nat.le_trans b.length a.length, fun p => Nat.le_trans (b.own p) (a.own p)⟩

theorem Fewer.nil (a : Fewer now before) (none : before = []) : now = [] := by
  have short := a.length
  rw [none] at short
  exact List.length_eq_zero_iff.mp (Nat.le_zero.mp short)

theorem fewer_map {f : Claim → Claim} (port : ∀ x ∈ claims, (f x).port = x.port) : Fewer (claims.map f) claims := by
  refine .of_ports ?_
  rw [List.map_map, List.map_congr_left (g := (·.port)) port]

theorem fewer_replaced {x : Claim} {level : Nat} {value : Command} {policy : Policy}
    (nodup : (claims.map (·.port)).Nodup) (own : claimOf p claims = some x) :
    Fewer (Hub.replacedClaims p level value policy x claims) claims := by
  obtain ⟨_, port⟩ := mem_of_claimOf own
  unfold Hub.replacedClaims
  split
  · refine fewer_map fun y my => ?_
    split
    · next here => exact port.trans here.symm
    · rfl
  · have whole := (perm_cons_withoutPort nodup own).map (·.port)
    have listed := (insertClaim_perm { x with level := level, value := value, policy := policy } (withoutPort p claims)).map
      (·.port)
    exact .of_ports (listed.trans whole.symm)

end

end Sys2Proof.Machine
end

section
/-! The handover of a channel through the edits of claims (R77, R81, R86 to R88). -/

namespace Sys2Proof.Machine.Hub

section
variable {h m t : Hub} {c k : Fin 23} {p q d : Port} {kind : EditKind} {edit : List Claim → List Claim}

/-! ## The two parts of a standing handover -/

/-- Two LIVE claims of the two parties, at one level. -/
def Joins (claims : List Claim) (w : PendingHandover) : Prop :=
  w.requester ≠ w.holder ∧
    ∃ x ∈ claims, ∃ y ∈ claims, x.port = w.requester ∧ y.port = w.holder ∧ x.level = y.level ∧
      x.state = .live ∧ y.state = .live

/-- A channel is in the asked set of the holder of its pending handover, and of no other port (R81, R86). -/
def AskedStands (h : Hub) (c : Fin 23) : Prop :=
  ∀ p, (h.port p).asked.getLsbD c.val = (h.chan c).handover.pending.any fun w => w.holder == p

theorem handoverStands_iff :
    h.HandoverStands c ↔ (∀ w, (h.chan c).handover.pending = some w → Joins (h.chan c).claims w) ∧ h.AskedStands c :=
  ⟨fun ⟨parties, asked⟩ => ⟨parties, asked⟩, fun ⟨parties, asked⟩ => ⟨parties, asked⟩⟩

/-- An edit that keeps, in port, level and state, the claims of both parties keeps them joined. -/
theorem Joins.edited {claims now : List Claim} {w : PendingHandover} (joins : Joins claims w)
    (kept : ∀ x ∈ claims, x.state = .live → x.port = w.requester ∨ x.port = w.holder →
      ∃ y ∈ now, y.port = x.port ∧ y.level = x.level ∧ y.state = x.state) : Joins now w := by
  obtain ⟨apart, x, mx, y, my, requester, holder, level, liveX, liveY⟩ := joins
  obtain ⟨a, ma, portA, levelA, stateA⟩ := kept x mx liveX (.inl requester)
  obtain ⟨b, mb, portB, levelB, stateB⟩ := kept y my liveY (.inr holder)
  exact ⟨apart, a, ma, b, mb, portA.trans requester, portB.trans holder, by rw [levelA, levelB, level],
    stateA.trans liveX, stateB.trans liveY⟩

theorem Joins.mono {claims now : List Claim} {w : PendingHandover} (joins : Joins claims w)
    (kept : ∀ x ∈ claims, x.state = .live → x.port = w.requester ∨ x.port = w.holder → x ∈ now) : Joins now w :=
  joins.edited fun x mem live party => ⟨x, kept x mem live party, rfl, rfl, rfl⟩

/-- A standing handover is judged on its channel and on the channel's place in the asked sets. -/
theorem HandoverStands.congr (stands : h.HandoverStands c) (claims : (t.chan c).claims = (h.chan c).claims)
    (pending : (t.chan c).handover.pending = (h.chan c).handover.pending)
    (asked : ∀ p, (t.port p).asked.getLsbD c.val = (h.port p).asked.getLsbD c.val) : t.HandoverStands c := by
  obtain ⟨parties, bits⟩ := stands
  refine ⟨?_, fun p => ?_⟩
  · rw [claims, pending]
    exact parties
  · rw [asked, bits, pending]

theorem HandoverStands.elsewhere (stands : h.HandoverStands k) (reach : Reach (only c) h t) (apart : k ≠ c) :
    t.HandoverStands k := by
  have same := reach.channels k (only_of_ne apart)
  exact stands.congr (by rw [same]) (by rw [same]) fun p => reach.asked p k (only_of_ne apart)

/-- A port without a LIVE claim on a channel is not asked there. -/
theorem HandoverStands.not_asked (stands : h.HandoverStands c) (none : ∀ x ∈ (h.chan c).claims, x.port = p → x.state ≠ .live) :
    (h.port p).asked.getLsbD c.val = false := by
  rw [stands.asked]
  cases pending : (h.chan c).handover.pending with
  | none => rfl
  | some w =>
    obtain ⟨_, x, _, y, my, _, holder, _, _, live⟩ := stands.parties w pending
    simp only [Option.any_some, beq_eq_false_iff_ne, ne_eq]
    exact fun same => none y my (holder.trans same) live

theorem asked_eq_zero {x : PortUnit} (none : ∀ c : Fin 23, x.asked.getLsbD c.val = false) : x.asked = 0 :=
  BitVec.eq_of_getLsbD_eq fun n small => (none ⟨n, small⟩).trans BitVec.getLsbD_zero.symm

/-! ## A handover resolved -/

theorem asked_giveFlagOn (q p : Port) (f : Flag) (c : Fin 23) (h : Hub) :
    ((h.giveFlagOn q f c).port p).asked = (h.port p).asked := by
  rw [(tells_giveFlagOn q f c h).ports p]

theorem asked_dropAsked (d p : Port) (c : Fin 23) (h : Hub) :
    ((h.dropAsked d c).port p).asked.getLsbD c.val = ((h.port p).asked.getLsbD c.val && d != p) := by
  unfold dropAsked
  rw [port_modPort]
  split
  · next same => subst same; simp [channelBit]
  · next other => simp [other]

/-- A handover resolved leaves the channel asked of no port, where it was asked of none but its holder. -/
theorem askedStands_resolve (c : Fin 23) (o : HandoverOutcome) (q : Port)
    (others : ∀ p, p ≠ d → (h.port p).asked.getLsbD c.val = false) : (h.resolve c o q d).AskedStands c := by
  intro p
  rw [chan_resolve, if_pos rfl, resolve, asked_giveFlagOn, asked_dropAsked]
  by_cases same : d = p
  · simp [same]
  · exact (congrArg (· && d != p) (others p (Ne.symm same))).trans rfl

theorem AskedStands.others (stands : h.AskedStands c) {w : PendingHandover} (pending : (h.chan c).handover.pending = some w)
    (apart : p ≠ w.holder) : (h.port p).asked.getLsbD c.val = false := by
  rw [stands, pending]
  simpa using Ne.symm apart

/-- The handovers that a settlement leaves pending. -/
theorem pending_settleEdit (c : Fin 23) (p : Port) (kind : EditKind) (h : Hub) :
    ((h.settleEdit c p kind).chan c).handover.pending =
      (h.chan c).handover.pending.filter fun w => (h.editOutcome p c kind w).isNone := by
  rw [settleEdit_eq]
  cases pending : (h.chan c).handover.pending with
  | none => simp [pending]
  | some w =>
    dsimp only
    cases settled : h.editOutcome p c kind w with
    | none =>
      rw [Option.filter_some, settled]
      exact pending
    | some o =>
      dsimp only
      rw [chan_resolve, if_pos rfl, Option.filter_some, settled]
      rfl

theorem askedStands_settleEdit (c : Fin 23) (p : Port) (kind : EditKind) (stands : h.AskedStands c) :
    (h.settleEdit c p kind).AskedStands c := by
  rw [settleEdit_eq]
  cases pending : (h.chan c).handover.pending with
  | none => exact stands
  | some w =>
    dsimp only
    cases h.editOutcome p c kind w with
    | none => exact stands
    | some o =>
      refine askedStands_resolve c o _ fun q apart => ?_
      split
      · exact stands.others pending apart
      · exact stands.others pending apart

theorem AskedStands.form (stands : h.AskedStands c) (cause : FormCause) : (h.form c cause).AskedStands c := by
  intro p
  rw [asked_form, stands p, form_handover]

/-! ## A handover through an edit -/

/-- What an edit leaves pending joins claims of the list the edit makes. -/
theorem handoverStands_editClaims (stands : h.HandoverStands c)
    (joined : ∀ w, (h.chan c).handover.pending = some w → h.editOutcome p c kind w = none →
      Joins (edit (h.chan c).claims) w) : (h.editClaims c p kind edit).HandoverStands c := by
  have listed : (h.modChan c fun x => { x with claims := edit x.claims }).chan c =
      { h.chan c with claims := edit (h.chan c).claims } := by rw [chan_modChan, if_pos rfl]
  refine handoverStands_iff.mpr ⟨fun w pending => ?_, ?_⟩
  · rw [(edited_editClaims c p kind edit h).claims]
    unfold editClaims at pending
    rw [form_handover, pending_settleEdit, listed, Option.filter_eq_some_iff] at pending
    obtain ⟨before, stays⟩ := pending
    rw [editOutcome_modChan, Option.isNone_iff_eq_none] at stays
    have denied : h.editGrants p c kind w = false := by
      refine Bool.eq_false_iff.mpr fun grants => ?_
      simp only [editGrants, Bool.and_eq_true, beq_iff_eq] at grants
      obtain ⟨⟨rfl, rfl⟩, _⟩ := grants
      simp [editOutcome] at stays
    rw [before]
    simp only [denied, Bool.false_eq_true, if_false]
    exact joined w before stays
  · unfold editClaims
    refine (askedStands_settleEdit c p kind ?_).form .edit
    intro q
    rw [listed]
    exact stands.asked q

/-- The edits of port `p` that leave a handover pending have not touched its parties, but for one of a value. -/
theorem not_party {w : PendingHandover} (ends : kind = .removed ∨ kind = .orphaned ∨ kind = .levelChanged)
    (stays : h.editOutcome p c kind w = none) : w.requester ≠ p ∧ w.holder ≠ p := by
  by_cases holder : p = w.holder
  · rcases ends with rfl | rfl | rfl <;> simp [editOutcome, holder] at stays
  · by_cases requester : p = w.requester
    · exfalso
      rcases ends with rfl | rfl | rfl <;> simp only [editOutcome, holder, if_false, if_pos requester, false_or] at stays
      all_goals cases stays
    · exact ⟨Ne.symm requester, Ne.symm holder⟩

/-- An edit that ends the handovers of its port and keeps the claims of every other keeps handovers standing. -/
theorem handoverStands_endingEdit (stands : h.HandoverStands c)
    (ends : kind = .removed ∨ kind = .orphaned ∨ kind = .levelChanged)
    (kept : ∀ x ∈ (h.chan c).claims, x.port ≠ p → x ∈ edit (h.chan c).claims) :
    (h.editClaims c p kind edit).HandoverStands c :=
  handoverStands_editClaims stands fun w pending stays =>
    Joins.mono (stands.parties w pending) fun x mem _ party => kept x mem fun own => by
      obtain ⟨requester, holder⟩ := not_party ends stays
      rcases party with same | same
      · exact requester (same.symm.trans own)
      · exact holder (same.symm.trans own)

theorem handoverStands_removeClaim (stands : ∀ c, h.HandoverStands c) (p : Port) (k c : Fin 23) :
    (h.removeClaim p k).HandoverStands c := by
  by_cases here : c = k
  · subst here
    exact handoverStands_endingEdit (stands c) (.inl rfl) fun x mem other => mem_withoutPort.mpr ⟨mem, other⟩
  · exact (stands c).elsewhere (reach_removeClaim p h k) here

theorem handoverStands_removeClaims (stands : ∀ c, h.HandoverStands c) (p : Port) (c : Fin 23) :
    (h.removeClaims p).HandoverStands c :=
  List.foldlRecOn (motive := fun m : Hub => ∀ c, m.HandoverStands c) (h.channelsOf p) (removeClaim p) stands
    (fun _ so k _ => handoverStands_removeClaim so p k) c

theorem handoverStands_lapseClaim (stands : ∀ c, h.HandoverStands c) (p : Port) (k c : Fin 23) :
    (h.lapseClaim p k).HandoverStands c := by
  by_cases here : c = k
  · subst here
    unfold lapseClaim
    split
    · exact stands c
    · split
      · exact handoverStands_removeClaim stands p c c
      · refine handoverStands_endingEdit (stands c) (.inr (.inl rfl)) fun x mem other => ?_
        exact List.mem_map.mpr ⟨x, mem, if_neg other⟩
  · exact (stands c).elsewhere (reach_lapseClaim p h k) here

theorem handoverStands_lapseClaims (stands : ∀ c, h.HandoverStands c) (p : Port) (c : Fin 23) :
    (h.lapseClaims p).HandoverStands c :=
  List.foldlRecOn (motive := fun m : Hub => ∀ c, m.HandoverStands c) (h.channelsOf p) (lapseClaim p) stands
    (fun _ so k _ => handoverStands_lapseClaim so p k) c

end
end Sys2Proof.Machine.Hub
end

section
/-! The claim pool through the edits of claims on one channel (R19 to R30, R74, R77 to R86). -/

namespace Sys2Proof.Machine.Hub

section
variable {h t : Hub} {c k : Fin 23} {p : Port} {claims now : List Claim}

/-! ## What a pool that stands is made of -/

/-- The values channel `c` takes (R3). -/
def fitsOn (h : Hub) (c : Fin 23) (x : Command) : Bool := commandFits (kindOf c) (h.work.travelOf c) x

/-- Each claim is ORPHANED exactly while its port is LAPSED, and of no DETACHED port. -/
def Tenanted (h : Hub) (claims : List Claim) : Prop :=
  ∀ x ∈ claims, (x.state = .orphaned ↔ h.isLapsed x.port = true) ∧ (h.port x.port).tenancy ≠ .detached

theorem listStands_iff : h.ListStands c ↔ InOrder (h.fitsOn c) (h.chan c).claims ∧ h.Tenanted (h.chan c).claims := by
  constructor
  · rintro ⟨onePerPort, sorted, levels, values, orphans, tenants⟩
    exact ⟨⟨onePerPort, sorted, levels, values⟩, fun x mem => ⟨orphans x mem, tenants x mem⟩⟩
  · rintro ⟨⟨onePerPort, sorted, levels, values⟩, tenanted⟩
    exact ⟨onePerPort, sorted, levels, values, fun x mem => (tenanted x mem).1, fun x mem => (tenanted x mem).2⟩

theorem PoolStands.inOrder (stands : h.PoolStands) (c : Fin 23) : InOrder (h.fitsOn c) (h.chan c).claims :=
  (listStands_iff.mp (stands.lists c)).1

theorem PoolStands.tenanted (stands : h.PoolStands) (c : Fin 23) : h.Tenanted (h.chan c).claims :=
  (listStands_iff.mp (stands.lists c)).2

theorem Tenanted.mono (tenanted : h.Tenanted claims) (kept : ∀ x ∈ now, x ∈ claims) : h.Tenanted now :=
  fun x mem => tenanted x (kept x mem)

theorem Tenanted.congr (tenanted : h.Tenanted claims)
    (same : ∀ x ∈ claims, (t.port x.port).tenancy = (h.port x.port).tenancy) : t.Tenanted claims := by
  intro x mem
  rw [isLapsed, same x mem]
  exact tenanted x mem

theorem fitsOn_of_work (same : t.work = h.work) (c : Fin 23) : t.fitsOn c = h.fitsOn c := by
  funext x
  rw [fitsOn, fitsOn, same]

theorem Reach.tenancy {C : Fin 23 → Bool} (reach : Reach C h t) (p : Port) : (t.port p).tenancy = (h.port p).tenancy := by
  rw [reach.ports p]

theorem sum_le_of_each {f g : Fin 23 → Nat} (below : ∀ k, f k ≤ g k) (xs : List (Fin 23)) : (xs.map f).sum ≤ (xs.map g).sum := by
  induction xs with
  | nil => exact Nat.le_refl _
  | cons k xs ih =>
    rw [List.map_cons, List.map_cons, List.sum_cons, List.sum_cons]
    exact Nat.add_le_add (below k) ih

/-- With no more claims of any port the pool is no fuller, and no port holds more. -/
theorem counts_of_fewer (fewer : ∀ c, Fewer (t.chan c).claims (h.chan c).claims) :
    t.poolCount ≤ h.poolCount ∧ ∀ p, t.holding p ≤ h.holding p :=
  ⟨sum_le_of_each (fun c => (fewer c).length) _, fun p => sum_le_of_each (fun c => (fewer c).own p) _⟩

/-! ## An edit on one channel -/

/-- An edit on one channel leaves the pool standing where its list, its handover and the counts stand. -/
theorem PoolStands.after (stands : h.PoolStands) (reach : Reach (only c) h t)
    (order : InOrder (h.fitsOn c) (t.chan c).claims) (tenanted : h.Tenanted (t.chan c).claims)
    (handover : t.HandoverStands c) (size : t.poolCount ≤ Config.poolSize)
    (quotas : ∀ p, t.holding p ≤ (h.portItem p).quota)
    (empty : h.mode = .startup ∨ h.mode = .faultHold → (t.chan c).claims = []) : t.PoolStands where
  lists k := by
    rw [listStands_iff, fitsOn_of_work reach.work]
    by_cases here : k = c
    · subst here
      exact ⟨order, tenanted.congr fun _ _ => reach.tenancy _⟩
    · rw [reach.channels k (only_of_ne here)]
      exact ⟨stands.inOrder k, (stands.tenanted k).congr fun _ _ => reach.tenancy _⟩
  handovers k := by
    by_cases here : k = c
    · subst here
      exact handover
    · exact (stands.handovers k).elsewhere reach here
  size := size
  quotas p := by
    rw [portItem, reach.work]
    exact quotas p
  emptyBeforeRun early k := by
    rw [reach.mode] at early
    by_cases here : k = c
    · subst here
      exact empty early
    · rw [reach.channels k (only_of_ne here)]
      exact stands.emptyBeforeRun early k

/-- An edit that adds no claim. -/
theorem PoolStands.afterFewer (stands : h.PoolStands) (reach : Reach (only c) h t)
    (fewer : Fewer (t.chan c).claims (h.chan c).claims) (order : InOrder (h.fitsOn c) (t.chan c).claims)
    (tenanted : h.Tenanted (t.chan c).claims) (handover : t.HandoverStands c) : t.PoolStands := by
  obtain ⟨size, holding⟩ := counts_of_fewer (h := h) (t := t) fun k => by
    by_cases here : k = c
    · subst here
      exact fewer
    · rw [reach.channels k (only_of_ne here)]
      exact .refl _
  exact stands.after reach order tenanted handover (Nat.le_trans size stands.size)
    (fun p => Nat.le_trans (holding p) (stands.quotas p)) fun early => fewer.nil (stands.emptyBeforeRun early c)

theorem poolStands_removeClaim (p : Port) (c : Fin 23) (stands : h.PoolStands) : (h.removeClaim p c).PoolStands := by
  have claims : ((h.removeClaim p c).chan c).claims = withoutPort p (h.chan c).claims :=
    (edited_of_ne (kind := .removed) c p (withoutPort p) h (by simp)).claims
  refine stands.afterFewer (reach_removeClaim p h c) ?_ ?_ ?_ (handoverStands_removeClaim stands.handovers p c c)
  · rw [claims]
    exact .of_sublist List.filter_sublist
  · rw [claims]
    exact (stands.inOrder c).without p
  · rw [claims]
    exact (stands.tenanted c).mono fun x mem => (mem_withoutPort.mp mem).1

theorem poolStands_place {level : Nat} {value : Command} {policy : Policy} (live : h.attached p = true)
    (open_ : h.mode ≠ .startup ∧ h.mode ≠ .faultHold) (free : claimOf p (h.chan c).claims = none)
    (range : 1 ≤ level ∧ level ≤ 7) (fits : commandFits (kindOf c) (h.work.travelOf c) value = true)
    (quota : h.holding p < (h.portItem p).quota) (room : h.poolCount < Config.poolSize) (stands : h.PoolStands) :
    (h.editClaims c p .placed (insertClaim ⟨p, level, value, policy, .live⟩)).PoolStands := by
  have edited := edited_place c p ⟨p, level, value, policy, .live⟩ h
  obtain ⟨held, pool⟩ := counts_place (x := ⟨p, level, value, policy, .live⟩) free edited.claims edited.reach
  have handover : (h.editClaims c p .placed (insertClaim ⟨p, level, value, policy, .live⟩)).HandoverStands c :=
    handoverStands_editClaims (stands.handovers c) fun w pending _ =>
      Joins.mono ((stands.handovers c).parties w pending) fun x mem _ _ => mem_insertClaim.mpr (.inr mem)
  obtain ⟨run, tenancy⟩ := exists_run_of_attached live
  refine stands.after edited.reach ?_ ?_ handover ?_ (fun q => ?_) fun early => absurd early (by simp [open_])
  · rw [edited.claims]
    exact (stands.inOrder c).insert (fresh_of_claimOf free) range fits
  · rw [edited.claims]
    intro x mem
    rcases mem_insertClaim.mp mem with rfl | mem
    · simp [isLapsed, tenancy]
    · exact stands.tenanted c x mem
  · rw [pool]
    exact room
  · by_cases own : q = p
    · subst own
      rw [held]
      exact quota
    · have others := holding_of_reach edited.reach q
      have before := stands.quotas q
      rw [edited.claims, ((insertClaim_perm ..).filter _).length_eq,
        List.filter_cons_of_neg (by simpa using Ne.symm own)] at others
      omega

theorem poolStands_replace {level : Nat} {value : Command} (policy : Policy) {old : Claim} {kind : EditKind}
    (own : claimOf p (h.chan c).claims = some old) (range : 1 ≤ level ∧ level ≤ 7)
    (fits : commandFits (kindOf c) (h.work.travelOf c) value = true)
    (kinds : kind = .levelChanged ∧ old.level ≠ level ∨ kind = .valueChanged ∧ old.level = level) (stands : h.PoolStands) :
    (h.editClaims c p kind (replaceEdit p level value policy)).PoolStands := by
  obtain ⟨mem, port⟩ := mem_of_claimOf own
  have order := stands.inOrder c
  have edited := edited_of_ne (kind := kind) c p (replaceEdit p level value policy) h (by
    rcases kinds with ⟨rfl, _⟩ | ⟨rfl, _⟩ <;> simp)
  have claims := edited.claims.trans (replaceEdit_eq own)
  have handover : (h.editClaims c p kind (replaceEdit p level value policy)).HandoverStands c := by
    rcases kinds with ⟨rfl, other⟩ | ⟨rfl, same⟩
    · refine handoverStands_endingEdit (stands.handovers c) (.inr (.inr rfl)) fun x mx apart => ?_
      rw [replaceEdit_eq own, replacedClaims, if_neg other]
      exact mem_insertClaim.mpr (.inr (mem_withoutPort.mpr ⟨mx, apart⟩))
    · refine handoverStands_editClaims (stands.handovers c) fun w pending _ =>
        Joins.edited ((stands.handovers c).parties w pending) fun x mx _ _ => ?_
      rw [replaceEdit_eq own, replacedClaims, if_pos same]
      refine ⟨_, List.mem_map_of_mem mx, ?_⟩
      split
      · next here =>
        obtain rfl := eq_of_claimOf order.onePerPort own mx here
        exact ⟨rfl, rfl, rfl⟩
      · exact ⟨rfl, rfl, rfl⟩
  refine stands.afterFewer edited.reach ?_ ?_ ?_ handover
  · rw [claims]
    exact fewer_replaced order.onePerPort own
  · rw [claims]
    exact order.replaced own policy range fits
  · rw [claims]
    have standing := stands.tenanted c old mem
    intro x mx
    unfold replacedClaims at mx
    split at mx
    · obtain ⟨y, my, rfl⟩ := List.mem_map.mp mx
      split
      · exact standing
      · exact stands.tenanted c y my
    · rcases mem_insertClaim.mp mx with rfl | mx
      · exact standing
      · exact stands.tenanted c x (mem_withoutPort.mp mx).1

theorem poolStands_clear (c : Fin 23) (limit : Nat) (stands : h.PoolStands) : (h.clearClaims c limit).PoolStands := by
  have order := stands.inOrder c
  have spared : ∀ x ∈ (h.chan c).claims, x.state = .live → x ∈ (h.chan c).claims.filter fun y => !clearable limit y :=
    fun x mem live => List.mem_filter.mpr ⟨mem, by simp [clearable, live]⟩
  have still := clearClaims_still (h := h) (c := c) (limit := limit) fun w pending x gone => by
    obtain ⟨mem, cleared⟩ := List.mem_filter.mp gone
    obtain ⟨_, a, ma, b, mb, requester, holder, _, liveA, liveB⟩ := (stands.handovers c).parties w pending
    have orphan : x.state = .orphaned := by
      simp only [clearable, Bool.and_eq_true, beq_iff_eq] at cleared
      exact cleared.1
    have other {y : Claim} (my : y ∈ (h.chan c).claims) (live : y.state = .live) : x.port ≠ y.port := fun same => by
      have lapsed := ((stands.tenanted c x mem).1.mp orphan)
      rw [same, ← (stands.tenanted c y my).1, live] at lapsed
      cases lapsed
    exact ⟨holder ▸ other mb liveB, requester ▸ other ma liveA⟩
  by_cases none : (h.chan c).claims.filter (clearable limit) = []
  · rw [still, if_pos none]
    exact stands
  · obtain ⟨claims, _, _, reach⟩ := clearClaims_some none
    refine stands.afterFewer reach ?_ ?_ ?_ ?_
    · rw [claims]
      exact .of_sublist List.filter_sublist
    · rw [claims]
      exact order.sublist List.filter_sublist
    · rw [claims]
      exact (stands.tenanted c).mono fun x mem => (List.mem_filter.mp mem).1
    · refine handoverStands_iff.mpr ⟨fun w pending => ?_, ?_⟩
      · rw [claims]
        rw [still, if_neg none, form_handover, chan_uncleared] at pending
        exact Joins.mono ((stands.handovers c).parties w pending) fun x mem live _ => spared x mem live
      · rw [still, if_neg none]
        refine AskedStands.form (fun q => ?_) .edit
        rw [chan_uncleared]
        exact (stands.handovers c).asked q

/-! ## Handovers -/

/-- Where lists and tenancies stand, the pool does if its handovers do. -/
theorem PoolStands.withHandovers (stands : h.PoolStands) (claims : ∀ c, (t.chan c).claims = (h.chan c).claims)
    (tenancy : ∀ p, (t.port p).tenancy = (h.port p).tenancy) (work : t.work = h.work) (mode : t.mode = h.mode)
    (handovers : ∀ c, t.HandoverStands c) : t.PoolStands where
  lists c := by
    rw [listStands_iff, fitsOn_of_work work, claims]
    exact ⟨stands.inOrder c, (stands.tenanted c).congr fun _ _ => tenancy _⟩
  handovers := handovers
  size := by rw [poolCount_congr claims]; exact stands.size
  quotas p := by rw [holding_congr claims, portItem, work]; exact stands.quotas p
  emptyBeforeRun early c := by rw [claims]; exact stands.emptyBeforeRun (mode ▸ early) c

/-- The claims of an ATTACHED port are LIVE (R19). -/
theorem Tenanted.live_of_attached (tenanted : h.Tenanted claims) {x : Claim} (mem : x ∈ claims)
    (live : h.attached x.port = true) : x.state = .live := by
  obtain ⟨run, tenancy⟩ := exists_run_of_attached live
  have standing := (tenanted x mem).1
  cases state : x.state with
  | live => rfl
  | orphaned => simp [state, isLapsed, tenancy] at standing

/-- Only an ATTACHED port has LIVE claims (R19, R69). -/
theorem Tenanted.attached_of_live (tenanted : h.Tenanted claims) {x : Claim} (mem : x ∈ claims) (live : x.state = .live) :
    h.attached x.port = true := by
  obtain ⟨standing, tenant⟩ := tenanted x mem
  refine Bool.of_not_eq_false fun out => tenant ((detached_iff h x.port).mpr ⟨out, ?_⟩)
  exact Bool.eq_false_iff.mpr fun lapsed => by simp [standing.mpr lapsed] at live

theorem channelBit_other {k : Fin 23} (apart : k ≠ c) : (channelBit c).getLsbD k.val = false := by
  simp [channelBit, Fin.ext_iff] at apart ⊢
  exact apart

theorem poolStands_ask {own w : Claim} {rest : List Claim} (live : h.attached p = true)
    (mine : claimOf p (h.chan c).claims = some own) (first : (h.chan c).claims = w :: rest) (standing : w.state = .live)
    (other : w.port ≠ p) (level : w.level = own.level) (free : (h.chan c).handover.pending = none)
    (stands : h.PoolStands) : (h.beginHandover p w.port c).PoolStands := by
  have memW : w ∈ (h.chan c).claims := by rw [first]; exact List.mem_cons_self
  obtain ⟨mem, port⟩ := mem_of_claimOf mine
  have holder : h.attached w.port = true := (stands.tenanted c).attached_of_live memW standing
  have state : own.state = .live := (stands.tenanted c).live_of_attached mem (by rw [port]; exact live)
  rw [beginHandover_eq holder]
  refine stands.withHandovers (fun k => ?_) (fun q => ?_) rfl rfl fun k => ?_
  · rw [modPort_chan, chan_modChan]
    split
    · next here => subst here; rfl
    · rfl
  · rw [port_modPort]
    split
    · next here => subst here; rfl
    · rfl
  · by_cases here : k = c
    · subst here
      refine handoverStands_iff.mpr ⟨fun v pending => ?_, fun q => ?_⟩
      · rw [modPort_chan, chan_modChan, if_pos rfl] at pending ⊢
        obtain rfl := Option.some.inj pending
        exact ⟨Ne.symm other, own, mem, w, memW, port, rfl, level.symm, state, standing⟩
      · have none : (h.port q).asked.getLsbD k.val = false := by
          rw [(stands.handovers k).asked, free]
          rfl
        rw [modPort_chan, chan_modChan, if_pos rfl, port_modPort]
        split
        · next same =>
          subst same
          simp [channelBit]
        · next apart => exact none.trans (by simp [apart])
    · refine (stands.handovers k).congr ?_ ?_ fun q => ?_
      · rw [modPort_chan, chan_modChan, if_neg (Ne.symm here)]
      · rw [modPort_chan, chan_modChan, if_neg (Ne.symm here)]
      · rw [port_modPort]
        split
        · next same =>
          subst same
          rw [BitVec.getLsbD_or, channelBit_other here, Bool.or_false]
          rfl
        · rfl

theorem AskedStands.none_of_free (stands : h.AskedStands c) (free : (h.chan c).handover.pending = none) (p : Port) :
    (h.port p).asked.getLsbD c.val = false := by
  rw [stands, free]
  rfl

theorem poolStands_conclude {grants : Bool} {o : HandoverOutcome} {q d : Port} {x y : Claim} (apart : q ≠ d)
    (mx : x ∈ (h.chan c).claims) (my : y ∈ (h.chan c).claims) (requester : x.port = q) (holder : y.port = d)
    (level : x.level = y.level) (others : ∀ p, p ≠ d → (h.port p).asked.getLsbD c.val = false) (stands : h.PoolStands) :
    (h.concludeHandover grants c o q d).PoolStands := by
  subst requester holder
  have order := stands.inOrder c
  have perm := grantReorder_perm order.onePerPort order.sorted mx my apart level
  have resolved := resolved_conclude grants c o x.port y.port h
  have handover : (h.concludeHandover grants c o x.port y.port).HandoverStands c := by
    refine handoverStands_iff.mpr ⟨fun w pending => ?_, ?_⟩
    · rw [resolved.record] at pending
      cases pending
    · unfold concludeHandover
      refine askedStands_resolve c o _ fun p other => ?_
      split
      · rw [asked_form]
        exact others p other
      · exact others p other
  refine stands.afterFewer resolved.reach ?_ ?_ ?_ handover
  all_goals
    rw [resolved.claims]
    split
  · exact .of_perm perm
  · exact .refl _
  · exact order.grant mx my apart level
  · exact order
  · exact (stands.tenanted c).mono fun z mem => perm.mem_iff.mp mem
  · exact stands.tenanted c

end
end Sys2Proof.Machine.Hub
end

section
/-! The claim pool through the tenancies of the ports (R31 to R35, R57 to R70), and through every step. -/

namespace Sys2Proof.Machine
namespace Hub

section
variable {h t : Hub} {c : Fin 23} {p : Port}

/-- A port changes its tenancy: the claims of the others stand, its own stand in the new tenancy. -/
theorem PoolStands.retenanted (stands : h.PoolStands) (p : Port) (order : ∀ c, InOrder (h.fitsOn c) (t.chan c).claims)
    (fewer : ∀ c, Fewer (t.chan c).claims (h.chan c).claims)
    (others : ∀ c, ∀ x ∈ (t.chan c).claims, x.port ≠ p → x ∈ (h.chan c).claims)
    (own : ∀ c, ∀ x ∈ (t.chan c).claims, x.port = p →
      (x.state = .orphaned ↔ t.isLapsed p = true) ∧ (t.port p).tenancy ≠ .detached)
    (tenancy : ∀ q, q ≠ p → (t.port q).tenancy = (h.port q).tenancy) (handovers : ∀ c, t.HandoverStands c)
    (work : t.work = h.work) (mode : t.mode = h.mode) : t.PoolStands := by
  obtain ⟨size, holding⟩ := counts_of_fewer fewer
  exact
    { lists := fun c => by
        rw [listStands_iff, fitsOn_of_work work]
        refine ⟨order c, fun x mem => ?_⟩
        by_cases here : x.port = p
        · rw [here]
          exact own c x mem here
        · rw [isLapsed, tenancy _ here]
          exact stands.tenanted c x (others c x mem here)
      handovers := handovers
      size := Nat.le_trans size stands.size
      quotas := fun q => by
        rw [portItem, work]
        exact Nat.le_trans (holding q) (stands.quotas q)
      emptyBeforeRun := fun early c => (fewer c).nil (stands.emptyBeforeRun (mode ▸ early) c) }

/-- A port none of whose claims is LIVE is asked nothing. -/
theorem PoolStands.asked_eq_zero_of (stands : h.PoolStands)
    (none : ∀ c, ∀ x ∈ (h.chan c).claims, x.port = p → x.state ≠ .live) : (h.port p).asked = 0 :=
  asked_eq_zero fun c => (stands.handovers c).not_asked (none c)

theorem port_attachPort_ne {q : Port} (other : q ≠ p) : (h.attachPort p).port q = h.port q := by
  rw [attachPort_eq, port_modPort, if_neg (Ne.symm other)]

theorem asked_attachPort (nothing : (h.port p).asked = 0) (q : Port) :
    ((h.attachPort p).port q).asked = (h.port q).asked := by
  by_cases same : q = p
  · subst same
    rw [attachPort_eq, port_modPort, if_pos rfl, nothing]
  · rw [port_attachPort_ne same]

theorem chan_attachPort (p : Port) (h : Hub) (c : Fin 23) : (h.attachPort p).chan c = h.chan c := by
  rw [attachPort_eq, modPort_chan]

/-- A claim of an ATTACHED port stands if it is LIVE. -/
theorem live_stands {x : Claim} (live : x.state = .live) (attached : h.attached p = true) :
    (x.state = .orphaned ↔ h.isLapsed p = true) ∧ (h.port p).tenancy ≠ .detached := by
  obtain ⟨run, tenancy⟩ := exists_run_of_attached attached
  simp [live, isLapsed, tenancy]

theorem poolStands_attach (out : (h.port p).tenancy = .detached) (stands : h.PoolStands) : (h.attachPort p).PoolStands := by
  have absent (c : Fin 23) (x : Claim) (mem : x ∈ (h.chan c).claims) : x.port ≠ p := fun own =>
    (stands.tenanted c x mem).2 (by rw [own]; exact out)
  have nothing := stands.asked_eq_zero_of fun c x mem own => absurd own (absent c x mem)
  refine stands.retenanted p (fun c => ?_) (fun c => ?_) (fun c x mem _ => ?_) (fun c x mem own => ?_)
    (fun q other => by rw [port_attachPort_ne other])
    (fun c => (stands.handovers c).congr ?_ ?_ fun q => by rw [asked_attachPort nothing]) ?_ ?_
  · rw [chan_attachPort]
    exact stands.inOrder c
  · rw [chan_attachPort]
    exact .refl _
  · rwa [chan_attachPort] at mem
  · rw [chan_attachPort] at mem
    exact absurd own (absent c x mem)
  · rw [chan_attachPort]
  · rw [chan_attachPort]
  · rw [attachPort_eq]; rfl
  · rw [attachPort_eq]; rfl

/-- The list with the claims of a port LIVE again (R35). -/
def adoptedClaims (p : Port) (claims : List Claim) : List Claim :=
  claims.map fun y => if y.port = p then { y with state := .live } else y

theorem poolStands_adopt (lapsed : (h.port p).tenancy = .lapsed) (stands : h.PoolStands) :
    ((h.adoptClaims p).attachPort p).PoolStands := by
  have orphan (c : Fin 23) (x : Claim) (mem : x ∈ (h.chan c).claims) (own : x.port = p) : x.state ≠ .live := by
    have standing := (stands.tenanted c x mem).1.mpr (by rw [own]; simp [isLapsed, lapsed])
    simp [standing]
  have nothing : (h.port p).asked = 0 := stands.asked_eq_zero_of orphan
  have chan (c : Fin 23) : ((h.adoptClaims p).attachPort p).chan c =
      { h.chan c with claims := adoptedClaims p (h.chan c).claims } := by
    rw [chan_attachPort, chan_adoptClaims]
    rfl
  have port (q : Port) : (h.adoptClaims p).port q = h.port q := rfl
  have asked (q : Port) : (((h.adoptClaims p).attachPort p).port q).asked = (h.port q).asked :=
    asked_attachPort (h := h.adoptClaims p) nothing q
  have listed {c : Fin 23} {x : Claim} (mem : x ∈ adoptedClaims p (h.chan c).claims) :
      ∃ y ∈ (h.chan c).claims, x = if y.port = p then { y with state := .live } else y := by
    obtain ⟨y, my, same⟩ := List.mem_map.mp mem
    exact ⟨y, my, same.symm⟩
  refine stands.retenanted p (fun c => ?_) (fun c => ?_) (fun c x mem other => ?_) (fun c x mem own => ?_)
    (fun q other => by rw [port_attachPort_ne other]; rfl) (fun c => ?_) ?_ ?_
  · rw [chan]
    exact (stands.inOrder c).map (fun y _ => by split <;> rfl) (fun y _ => by split <;> rfl)
      fun y my => by split <;> exact (stands.inOrder c).values y my
  · rw [chan]
    exact fewer_map fun y _ => by split <;> rfl
  · rw [chan] at mem
    obtain ⟨y, my, rfl⟩ := listed mem
    by_cases here : y.port = p
    · rw [if_pos here] at other
      exact absurd here other
    · rw [if_neg here]
      exact my
  · rw [chan] at mem
    obtain ⟨y, my, rfl⟩ := listed mem
    refine live_stands ?_ (attached_attachPort p _)
    split at own
    · next here => rw [if_pos here]
    · next here => exact absurd own here
  · refine handoverStands_iff.mpr ⟨fun w pending => ?_, fun q => ?_⟩
    · rw [chan] at pending ⊢
      exact Joins.mono ((stands.handovers c).parties w pending) fun x mem live _ =>
        List.mem_map.mpr ⟨x, mem, if_neg fun own => orphan c x mem own live⟩
    · rw [asked, chan]
      exact (stands.handovers c).asked q
  · rw [attachPort_eq]; rfl
  · rw [attachPort_eq]; rfl

/-- A change of a tenancy alone leaves handovers standing. -/
theorem handoverStands_setTenancy (stands : h.HandoverStands c) (p : Port) (x : Tenancy) :
    (h.setTenancy p x).HandoverStands c :=
  stands.congr rfl rfl fun q => by
    rw [setTenancy, port_modPort]
    split
    · next same => subst same; rfl
    · rfl

theorem tenancy_setTenancy_ne {q : Port} (x : Tenancy) (other : q ≠ p) :
    ((h.setTenancy p x).port q).tenancy = (h.port q).tenancy := by
  rw [setTenancy, port_modPort, if_neg (Ne.symm other)]

theorem poolStands_leave (p : Port) (stands : h.PoolStands) : (h.leave p).PoolStands := by
  have gone := gaveUp_removeClaims p (h.setTenancy p .detached)
  have reach := reach_removeClaims p (h.setTenancy p .detached)
  have handovers (c : Fin 23) := handoverStands_removeClaims
    (fun c => handoverStands_setTenancy (stands.handovers c) p .detached) p c
  have claims (c : Fin 23) : (((h.setTenancy p .detached).removeClaims p).chan c).claims = withoutPort p (h.chan c).claims :=
    gone.claims c
  have tenancy {q : Port} (other : q ≠ p) : (((h.setTenancy p .detached).removeClaims p).port q).tenancy =
      (h.port q).tenancy := (reach.tenancy q).trans (tenancy_setTenancy_ne .detached other)
  have work : ((h.setTenancy p .detached).removeClaims p).work = h.work := reach.work
  have mode : ((h.setTenancy p .detached).removeClaims p).mode = h.mode := reach.mode
  unfold leave clearPort
  generalize (h.setTenancy p .detached).removeClaims p = m at claims handovers tenancy work mode
  have absent (c : Fin 23) (x : Claim) (mem : x ∈ (m.chan c).claims) : x ∈ (h.chan c).claims ∧ x.port ≠ p := by
    rw [claims] at mem
    exact mem_withoutPort.mp mem
  have nothing : (m.port p).asked = 0 :=
    asked_eq_zero fun c => (handovers c).not_asked fun x mem own => absurd own (absent c x mem).2
  refine stands.retenanted p (fun c => ?_) (fun c => ?_) (fun c x mem _ => ?_) (fun c x mem own => ?_)
    (fun q other => ?_) (fun c => (handovers c).congr ?_ ?_ fun q => ?_) work mode
  · rw [modPort_chan, claims]
    exact (stands.inOrder c).without p
  · rw [modPort_chan, claims]
    exact .of_sublist List.filter_sublist
  · rw [modPort_chan] at mem
    exact (absent c x mem).1
  · rw [modPort_chan] at mem
    exact absurd own (absent c x mem).2
  · rw [port_modPort, if_neg (Ne.symm other)]
    exact tenancy other
  · rw [modPort_chan]
  · rw [modPort_chan]
  · rw [port_modPort]
    split
    · next same =>
      subst same
      rw [nothing]
    · rfl

/-! ## A lapse -/

theorem mem_lapsedClaims {claims : List Claim} {x : Claim} (mem : x ∈ lapsedClaims p claims) :
    (x.port ≠ p → x ∈ claims) ∧ (x.port = p → x.state = .orphaned) := by
  obtain ⟨y, my, rfl⟩ := List.mem_map.mp mem
  have listed := (List.mem_filter.mp my).1
  by_cases own : y.port = p
  · rw [if_pos own]
    exact ⟨fun other => absurd own other, fun _ => rfl⟩
  · rw [if_neg own]
    exact ⟨fun _ => listed, fun here => absurd here own⟩

theorem inOrder_lapsedClaims {fits : Command → Bool} {claims : List Claim} (order : InOrder fits claims) (p : Port) :
    InOrder fits (lapsedClaims p claims) := by
  have kept := order.sublist (gone := claims.filter fun x => !(x.port == p && x.policy == .drop)) List.filter_sublist
  exact kept.map (fun y _ => by split <;> rfl) (fun y _ => by split <;> rfl)
    fun y my => by split <;> exact kept.values y my

theorem fewer_lapsedClaims (p : Port) (claims : List Claim) : Fewer (lapsedClaims p claims) claims :=
  Fewer.trans (.of_sublist List.filter_sublist) (fewer_map fun y _ => by split <;> rfl)

/-- The list a lapse leaves is in order, the reorder of a granted handover among its changes. -/
theorem claimsAfterLapse_perm (stands : h.PoolStands) (p : Port) (c : Fin 23) :
    InOrder (h.fitsOn c) (h.claimsAfterLapse p c) ∧ (h.claimsAfterLapse p c).Perm (lapsedClaims p (h.chan c).claims) := by
  have order := inOrder_lapsedClaims (stands.inOrder c) p
  unfold claimsAfterLapse
  split
  · exact ⟨order, .refl _⟩
  · next w pending =>
    split
    · next grants =>
      obtain ⟨holder, _, keep⟩ := grants
      obtain ⟨apart, x, mx, y, my, portX, portY, level, _, _⟩ := (stands.handovers c).parties w pending
      obtain ⟨own, mine, keeps⟩ := Option.any_eq_true .. |>.mp keep
      obtain rfl := eq_of_claimOf (stands.inOrder c).onePerPort mine my (portY.trans holder)
      have policy : y.policy = .keep := by simpa using keeps
      have memX : x ∈ lapsedClaims p (h.chan c).claims := by
        have other : x.port ≠ p := by rw [portX, ← holder]; exact apart
        exact List.mem_map.mpr ⟨x, List.mem_filter.mpr ⟨mx, by simp [other]⟩, if_neg other⟩
      have memY : { y with state := .orphaned } ∈ lapsedClaims p (h.chan c).claims :=
        List.mem_map.mpr ⟨y, List.mem_filter.mpr ⟨my, by simp [policy]⟩, if_pos (portY.trans holder)⟩
      rw [← portX, ← portY]
      have differ : x.port ≠ y.port := by rw [portX, portY]; exact apart
      exact ⟨order.grant (d := { y with state := .orphaned }) memX memY differ level,
        grantReorder_perm (d := { y with state := .orphaned }) order.onePerPort order.sorted memX memY differ level⟩
    · exact ⟨order, .refl _⟩

theorem poolStands_lapse (p : Port) (stands : h.PoolStands) :
    ((h.setTenancy p .lapsed).lapseClaims p).PoolStands := by
  have reach := reach_lapseClaims p (h.setTenancy p .lapsed)
  have claims (c : Fin 23) : (((h.setTenancy p .lapsed).lapseClaims p).chan c).claims = h.claimsAfterLapse p c := by
    cases holds : h.holdsClaim p c with
    | true =>
      obtain ⟨x, own⟩ := Option.isSome_iff_exists.mp holds
      exact (lapseClaims_held (h := h.setTenancy p .lapsed) (stands.inOrder c).onePerPort own).1
    | false => exact (lapseClaims_out (h := h.setTenancy p .lapsed) holds).1
  have listed (c : Fin 23) {x : Claim} (mem : x ∈ (((h.setTenancy p .lapsed).lapseClaims p).chan c).claims) :
      x ∈ lapsedClaims p (h.chan c).claims := by
    rw [claims] at mem
    exact (claimsAfterLapse_perm stands p c).2.mem_iff.mp mem
  have tenancy : (((h.setTenancy p .lapsed).lapseClaims p).port p).tenancy = .lapsed := by rw [port_lapsed]
  refine stands.retenanted p (fun c => ?_) (fun c => ?_) (fun c x mem other => ?_) (fun c x mem own => ?_)
    (fun q other => (reach.tenancy q).trans (tenancy_setTenancy_ne .lapsed other))
    (handoverStands_lapseClaims (fun c => handoverStands_setTenancy (stands.handovers c) p .lapsed) p)
    reach.work reach.mode
  · rw [claims]
    exact (claimsAfterLapse_perm stands p c).1
  · rw [claims]
    exact (fewer_lapsedClaims p _).trans (.of_perm (claimsAfterLapse_perm stands p c).2)
  · exact (mem_lapsedClaims (listed c mem)).1 other
  · simp [(mem_lapsedClaims (listed c mem)).2 own, isLapsed, tenancy]

/-! ## Every step -/

theorem poolStands_claimMove (edit : ClaimMove h t) (stands : h.PoolStands) : t.PoolStands := by
  cases edit with
  | attach p out => exact poolStands_attach out stands
  | adopt p lapsed => exact poolStands_adopt lapsed stands
  | leave p => exact poolStands_leave p stands
  | lapse p => exact poolStands_lapse p stands
  | remove p c => exact poolStands_removeClaim p c stands
  | place p c level value policy live open_ free range fits quota room =>
    exact poolStands_place live open_ free range fits quota room stands
  | replace p c level value policy old kind own range fits kinds => exact poolStands_replace policy own range fits kinds stands
  | clear c limit => exact poolStands_clear c limit stands
  | ask p c own w rest live mine first standing other level free =>
    exact poolStands_ask live mine first standing other level free stands
  | atOnce grants c o p own w rest mine first other level free =>
    obtain ⟨mem, port⟩ := mem_of_claimOf mine
    exact poolStands_conclude (Ne.symm other) mem (by rw [first]; exact List.mem_cons_self) port rfl level.symm
      (fun q _ => (handoverStands_iff.mp (stands.handovers c)).2.none_of_free free q) stands
  | conclude grants c o w asked =>
    obtain ⟨apart, x, mx, y, my, requester, holder, level, _, _⟩ := (stands.handovers c).parties w asked
    exact poolStands_conclude apart mx my requester holder level
      (fun q other => (handoverStands_iff.mp (stands.handovers c)).2.others asked other) stands

theorem poolStands_move (h t : Hub) (stands : h.PoolStands) (move : Move h t) : t.PoolStands := by
  cases move with
  | plain same => exact same.toQuiet.poolAlike.keeps stands
  | claims edit => exact poolStands_claimMove edit stands
  | form c => exact (poolAlike_form c .edit h).keeps stands
  | settle wrote => exact (wrote.poolAlike.trans (poolAlike_settleSetpoints _ h [])).keeps stands
  | tune f tuned => exact tuned.poolAlike.keeps stands
  | fallback c x => exact ((poolAlike_setFallback c x h).trans (poolAlike_formLayer c _)).keeps stands
  | soundMotion x => exact (poolAlike_soundMotion x h).keeps stands
  | travel u x halted room => exact (poolAlike_travel room).keeps stands
  | rate u x => exact ((poolAlike_rate u x h).trans (poolAlike_form _ .rateWrite _)).keeps stands
  | members g v => exact (poolAlike_writeMembers g _ h).keeps stands
  | setpoint n x => exact (poolAlike_setpoint n x h).keeps stands
  | store b =>
    have copied : PoolAlike h { h with stored := Blocks.copyBlock b h.work h.stored } :=
      .of_work (fun _ => rfl) (fun _ => rfl) (fun _ => rfl) (fun _ => rfl) id rfl
    exact copied.keeps stands
  | hold => exact (poolAlike_enterHolding h).keeps stands
  | held => exact (poolAlike_checkHeld h).keeps stands
  | run => exact (poolAlike_enterRun h).keeps stands
  | reset cause => exact poolStands_hubReset cause h
  | load storeAnswers startup => exact poolStands_endLoad storeAnswers startup stands
  | append c => exact (sounderOnly_appendChime c h).poolAlike.keeps stands
  | retrigger loudness length => exact (sounderOnly_retrigger loudness length h).poolAlike.keeps stands
  | withdraw p => exact (sounderOnly_withdrawChimes p h).poolAlike.keeps stands
  | playingEnds => exact (sounderOnly_playingEnds h).poolAlike.keeps stands
  | gapEnds => exact (sounderOnly_gapEnds h).poolAlike.keeps stands
  | flash => exact (poolAlike_flashBoundaryPasses h).keeps stands
  | runExpires r => exact (relaySide_relayRunExpires r h).poolAlike.keeps stands
  | deadExpires g => exact (relaySide_deadTimerExpires g h).poolAlike.keeps stands
  | reference u => exact (stepperOnly_takeReference u h).poolAlike.keeps stands
  | stepCompletes u => exact (stepperOnly_stepCompletes u h).poolAlike.keeps stands
  | referencingStepCompletes u => exact (stepperOnly_referencingStepCompletes u h).poolAlike.keeps stands
  | pauseEnds u => exact (stepperOnly_pauseEnds u h).poolAlike.keeps stands
  | released u => exact (stepperOnly_unitReleased u h).poolAlike.keeps stands
  | pass => exact (poolAlike_countDown h).keeps stands

end
end Hub

/-- Settles O55: move by move. -/
theorem stepsKeepTheClaimPool : Obligations.StepsKeepTheClaimPool := Hub.keptByStep_of_moves Hub.poolStands_move

end Sys2Proof.Machine
end
